-- ==== Sys2Proof/Word.lean ====
section
/-!
DEFINITION. The words of the ST-W8400: bytes, the 32- and 64-bit words of its registers, and the sparse map
that holds every numbered collection of the state (00_scope R8, R21).
-/

namespace Sys2Proof

/-- One byte of memory (R8). -/
abbrev Byte := BitVec 8

/-- A 32-bit word: a lane, a constant, a sync counter. -/
abbrev W32 := BitVec 32

/-- A 64-bit word: a scalar register, a config register. -/
abbrev W64 := BitVec 64

/-- An exact binary number `m × 2^e`, the value every finite element format stands for. -/
structure Dyadic where
  m : Int
  e : Int
  deriving DecidableEq, Repr

/-- A numbered collection, as a list of (number, value) pairs with rising numbers; a number that is not listed
holds the collection's default value. -/
abbrev SMap (α : Type) := List (Nat × α)

end Sys2Proof
end

