-- ==== Sys2Proof/Syntax.lean ====
section
/-!
DEFINITION. The commands of the block: one constructor of `Instr` for each row of spec/opcode_table.json, with
the operands the spec gives the row. A command of the host carries its header and its arguments (12 R467); an
event carries where it happens and what the surroundings supply (a reading, a packet's place in the network).
-/

namespace Sys2Proof

/-- A physical tile f*n*.t*m* (00_scope "Names"). -/
structure TileId where
  f : Fin 84
  t : Fin 64
  deriving DecidableEq, Repr

abbrev FieldId := Fin 84
abbrev RimId := Fin 16

/-- Who sends a config access (R20, R607). -/
inductive CfgSrc where
  | host | firmware
  deriving DecidableEq, Repr

/-- The targets of a config write, by scope (R15). -/
inductive CfgTarget where
  | tile (f : Fin 84) (t : Fin 64)
  | rim (k : Fin 16)
  | field (f : Fin 84)
  | group (g : Fin 128)
  | all
  deriving DecidableEq, Repr

/-- The header of a command entry (R467). `rsvd` says that some reserved byte of the entry is nonzero. -/
structure CmdHdr where
  ring     : Fin 8
  cmdId    : BitVec 16
  jobId    : BitVec 16
  nowait   : Bool
  progress : Bool
  jobchk   : Bool
  rsvd     : Bool
  deriving DecidableEq, Repr

/-- One contiguous piece of a host buffer (R470). -/
structure HostSeg where
  addr : Nat
  len  : Nat
  deriving DecidableEq, Repr

/-- A host buffer descriptor with the pieces it names (R470). `reachable` is false where the module cannot read
or write the buffer; `data` is what a read of it returns. -/
structure HostBuf where
  kind      : Nat
  segs      : List HostSeg
  reachable : Bool
  data      : List Byte
  deriving DecidableEq, Repr

/-- The addressing of one Gallery Ethernet port (12, Gallery family, GAL_NET). -/
structure GalNetArgs where
  port      : Nat
  ipVersion : Nat
  hopLimit  : BitVec 8
  dscp      : BitVec 8
  srcIp     : List Byte
  dstIp     : List Byte
  srcUdp    : BitVec 16
  dstUdp    : BitVec 16
  dstMac    : List Byte
  vlan      : BitVec 16
  deriving DecidableEq, Repr

/-- A register write without behaviour of its own (R10): through BAR0 (R710) or as the config bridge applies it
at its targets (R20). -/
inductive RegWrite where
  | bar0 (offset width : Nat) (value : W64)
  | cfg (src : CfgSrc) (target : CfgTarget) (offset : Nat) (value : W64)
  deriving DecidableEq, Repr

/-- A unit that holds an injection register (R607). -/
inductive FiUnit where
  | tile (f : Fin 84) (t : Fin 64)
  | field (f : Fin 84)
  | rim (k : Fin 16)
  | module
  deriving DecidableEq, Repr

/-- Scalar operations of class 0x01 (R176). -/
inductive ScalarFn where
  | add | sub | mul | and | or | xor | not | shl | shr | sar
  | cmpEq | cmpLt | cmpLtu
  | fadd | fmul | ffma
  deriving DecidableEq, Repr

/-- A scalar load or a scalar store of 8 bytes (class 0x02). -/
inductive MemDir where
  | load | store
  deriving DecidableEq, Repr

/-- A comparison of lanes into lm. -/
inductive CmpFn where
  | eq | ne | lt | le | gt | ge
  deriving DecidableEq, Repr

/-- Vector FP32 operations of class 0x03 (R176). -/
inductive Fp32Fn where
  | add | sub | mul | fma | min | max
  | cmp (c : CmpFn)
  deriving DecidableEq, Repr

/-- Vector integer operations of class 0x04 (R176). -/
inductive IntFn where
  | add | sub | shl | shr | sar | and | or | xor | not
  | cmp (c : CmpFn)
  | rotate | broadcast
  | lmAnd | lmOr | lmXor | lmNot
  deriving DecidableEq, Repr

/-- Vector fixed-64 operations of class 0x05 (R176). -/
inductive Fix64Fn where
  | add | sub | sar
  | cmp (c : CmpFn)
  deriving DecidableEq, Repr

/-- Special functions of class 0x07 (R181). -/
inductive SpecFn where
  | rcp | div | sqrt | rsqrt | exp2 | log2 | tanh
  deriving DecidableEq, Repr

/-- Reductions of class 0x08 (R189). -/
inductive RedFn where
  | sumf | sumx | sumi | max | min | absmax | argmax | or
  deriving DecidableEq, Repr

/-- The two link directions of a field port. -/
inductive LinkDir where
  | rx | tx
  deriving DecidableEq, Repr

/-- What one training of a port finds (R500 to R503): light and bit-error results by position and direction. -/
structure TrainResult where
  rxGood  : BitVec 18
  txGood  : BitVec 18
  crossed : BitVec 18
  locked  : Bool
  deriving DecidableEq, Repr

/-- The payload of an ID packet (R505). -/
structure IdPacket where
  moduleId : BitVec 32
  treeId   : BitVec 64
  side     : Bool
  bundle   : Fin 16
  index    : Fin 8
  role     : Nat
  deriving DecidableEq, Repr

/-- A block trailer (R497), with what the receiver has found in the block that it ends (R498, R528): the codewords that FEC
has corrected and those it could not, and whether a CRC of a flit or of the trailer was wrong. -/
structure Trailer where
  seq           : BitVec 16
  ack           : BitVec 16
  nak           : Bool
  cvc           : Fin 8
  credits       : Nat
  corrected     : Nat
  uncorrectable : Nat
  crcBad        : Bool
  deriving DecidableEq, Repr

/-- A line of 32 exact-128 values as a PART or a GLOBAL carries it (R497). -/
structure LinkLine where
  rim  : Fin 16
  area : Fin 256
  line : Nat
  oor  : Bool
  vals : List (BitVec 128)
  deriving DecidableEq, Repr

/-- The two feeds (R529). -/
inductive Feed where
  | a | b
  deriving DecidableEq, Repr

/-- The monitored rails (R537). -/
inductive Rail where
  | bus12 | vddF (f : Fin 84) | vddM (f : Fin 84) | vddR (k : Fin 16) | hbmAux | companion | lpddr | laser | alwaysOn
  deriving DecidableEq, Repr

/-- The domains other than fields that can short (R547). -/
inductive ShortDomain where
  | rim (k : Fin 16) | hbmAux | laser | companionDie | companionMemory
  deriving DecidableEq, Repr

/-- What the governor reads every 100 µs (R550 to R556), in units of 1 W, 0.1 V, 0.1 °C and 0.1 L/min: the
module's input sensors with their averages, and the coolant sensors. -/
structure GovReading where
  msEnd    : Bool
  avgMs    : Nat
  avg10ms  : Nat
  avg100ms : Nat
  avg1s    : Nat
  feedA    : Nat
  feedB    : Nat
  inlet    : Int
  flow     : Nat
  deriving DecidableEq, Repr

/-- Where a patrol scrub reads (R583) and what it finds there. -/
inductive ScrubPlace where
  | scratchpad (t : TileId) (word : Nat)
  | bds (t : TileId) (granule : Nat)
  | hbm (k : Fin 16) (granule : Nat)
  | companion (granule : Nat)
  deriving DecidableEq, Repr

/-- What an error-correcting code reports of a location. -/
inductive EccResult where
  | clean | corrected | uncorrectable
  deriving DecidableEq, Repr

/-- A link that replays flits (R266, R588): a port of a tile's router, its mesh links and its tap, an output of a hub, or the
port of a rim at the hub of a field. -/
inductive LinkPlace where
  | tile (t : TileId) (port : Fin 8)
  | hub (f : Fin 84) (out : Fin 16)
  | rim (k : Fin 16) (f : Fin 84)
  deriving DecidableEq, Repr

/-- What the check of the forwarded clock has found (R672): the fields whose selected input is off, and those whose backup
alone is. -/
structure ClockCheck where
  selected : List (Fin 84)
  backup   : List (Fin 84)
  deriving DecidableEq, Repr

/-- JTAG instructions (R625, R698). -/
inductive JtagOp where
  | idcode | bypass | counter (addr : BitVec 40) | trace
  | halt | resume | memRead (addr : W64) (len : Nat) | memWrite (addr : W64) (data : List Byte)
  | scan | revokeKey (slot : Fin 12) | clearFailed | clearRetired
  deriving DecidableEq, Repr

/-- What an instruction's accesses to the scratchpad waited, as the tile's traffic supplies it (R211, R218, R219):
cycles before narrow grants, narrow grants that were the guaranteed one of the 65th cycle, and cycles that issue was
held for the window port. -/
structure CoreWaits where
  narrow  : Nat
  starved : Nat
  window  : Nat
  deriving DecidableEq, Repr

/-- What a packet waited on its way, as the network's traffic supplies it (R218, R272, R292): cycles in which its source
was refused, the hubs whose crossing took the full 16 cycles, and whether its narrow access was granted in its 65th
cycle. -/
structure NetWaits where
  refused : Nat
  full    : List (Fin 84)
  starved : Bool
  deriving DecidableEq, Repr

/-- An instruction of a tile's core, with what its accesses waited. -/
structure CoreAt where
  tile  : TileId
  waits : CoreWaits
  deriving DecidableEq, Repr

/-- A packet that arrives: its place among the packets in flight, and what it waited on its way. -/
structure Arrival where
  place : Nat
  waits : NetWaits
  deriving DecidableEq, Repr

/-- A DMA engine at the end of its descriptor: the engine-cycles in which a scratchpad slot was refused to it (R219). -/
structure EngineEnd where
  engine   : Fin 2
  bankWait : Nat
  deriving DecidableEq, Repr

/-- The commands of the block, row for row of spec/opcode_table.json. -/
inductive Instr where
  -- Diril host commands (ch. 12)
  | devIdentify (h : CmdHdr) (buf : HostBuf)
  | devStatus (h : CmdHdr)
  | devEventWait (h : CmdHdr)
  | devTreeConfig (h : CmdHdr) (moduleId : BitVec 32) (role parent children : Nat) (ports : List Nat) (treeId : W64)
  | devReset (h : CmdHdr) (kind : Nat)
  | devFwLoad (h : CmdHdr) (offset : Nat) (buf : HostBuf)
  | devFwCommit (h : CmdHdr) (length : Nat)
  | devFwActivate (h : CmdHdr) (raiseSvn : Bool)
  | jobOpen (h : CmdHdr) (jobId : BitVec 16) (buf : HostBuf) (imageSm3 : BitVec 256)
  | jobStart (h : CmdHdr)
  | jobClose (h : CmdHdr) (mode : Nat)
  | stepRun (h : CmdHdr) (count : Nat) (verify trace : Bool) (ref slot : Nat) (buf : HostBuf)
  | stepStop (h : CmdHdr)
  | stepResume (h : CmdHdr)
  | stepReplay (h : CmdHdr) (step : Nat) (traceSet : W64) (buf : HostBuf)
  | stepConst (h : CmdHdr) (prog : Nat) (first : Nat) (k : List W32)
  | syncArrive (h : CmdHdr) (line : Fin 16) (wait : Bool)
  | syncWatch (h : CmdHdr) (w0 w1 : W64)
  | syncSignal (h : CmdHdr) (addr : BitVec 40) (value : W64)
  | dataWrite (h : CmdHdr) (addr : W64) (buf : HostBuf)
  | dataRead (h : CmdHdr) (addr : W64) (buf : HostBuf)
  | dataStage (h : CmdHdr) (step offset bytes : Nat) (desc : List Byte)
  | dataRetain (h : CmdHdr) (stack first count toState : Nat)
  | stateLrRead (h : CmdHdr) (first count : Nat) (buf : HostBuf)
  | stateReplayRead (h : CmdHdr) (buf : HostBuf)
  | stateJob (h : CmdHdr) (buf : HostBuf)
  | ckptCapture (h : CmdHdr)
  | ckptList (h : CmdHdr) (buf : HostBuf)
  | ckptRead (h : CmdHdr) (slot offset : Nat) (buf : HostBuf)
  | ckptRelease (h : CmdHdr) (slot : Nat)
  | ckptRestore (h : CmdHdr) (source slot : Nat) (buf : HostBuf)
  | ckptKey (h : CmdHdr) (buf : HostBuf)
  | galNet (h : CmdHdr) (args : GalNetArgs)
  | galKey (h : CmdHdr) (buf : HostBuf)
  | galStatus (h : CmdHdr)
  | pwrPolicy (h : CmdHdr) (boost cap : Nat)
  | pwrRampUp (h : CmdHdr)
  | pwrState (h : CmdHdr) (target : Nat)
  | mtrMark (h : CmdHdr)
  | mtrStatus (h : CmdHdr)
  | dbgChallenge (h : CmdHdr) (level : Nat) (buf : HostBuf)
  | dbgUnlock (h : CmdHdr) (level : Nat) (buf : HostBuf) (ageSeconds : Nat)
  | dbgLock (h : CmdHdr)
  | dbgHalt (h : CmdHdr)
  | dbgResume (h : CmdHdr)
  | dbgMem (h : CmdHdr) (dir : Nat) (addr : W64) (buf : HostBuf)
  | dbgTrace (h : CmdHdr) (traceSet : W64) (buf : HostBuf)
  | dbgCounters (h : CmdHdr) (addr : BitVec 40) (words : Nat) (buf : HostBuf)
  | attQuote (h : CmdHdr) (nonce : List Byte) (buf : HostBuf)
  | attCert (h : CmdHdr) (buf : HostBuf)
  | fiArm (h : CmdHdr) (point mode count : Nat) (target : W64)
  | fiDisarm (h : CmdHdr) (point : Nat)
  | fiStatus (h : CmdHdr) (buf : HostBuf)
  -- BAR0, rings and the config window (ch. 12, ch. 20)
  | dbSqTail (ring : Fin 8) (value : W32)
  | dbCqHead (ring : Fin 8) (value : W32)
  | ringEnable (ring : Fin 8) (ctl : W64)
  | ringDisable (ring : Fin 8) (ctl : W64)
  | ringStopped (ring : Fin 8)
  | commandTake (entry : Option (List Byte))
  | exclusiveStart
  | progressEntry (ring : Fin 8) (cmdId : BitVec 16) (stage done total : Nat)
  | coalTimeExpiry (ring : Fin 8)
  | eventDropReport
  | functionPortMove
  | flr
  | perst (port : Fin 2) (asserted : Bool)
  | sysReset (lowMicroseconds : Nat)
  | configRead (ctl : W64)
  | configWrite (ctl : W64)
  | configAccessComplete
  | mbEventClear (value : W64)
  | mbEventMask (value : W64)
  | registerWrite (w : RegWrite)
  -- config writes with behaviour of their own
  | cadRun (src : CfgSrc) (target : CfgTarget) (value : W64)
  | cadArm (src : CfgSrc) (target : CfgTarget) (value : W64)
  | vcRun (src : CfgSrc) (target : CfgTarget) (value : W64)
  | vcWin (src : CfgSrc) (target : CfgTarget) (value : W64)
  | dmaPost (src : CfgSrc) (target : CfgTarget) (engine : Fin 2) (value : W64)
  | dmaClear (src : CfgSrc) (target : CfgTarget) (engine : Fin 2) (value : W64)
  | bdsPdRequest (src : CfgSrc) (target : CfgTarget) (value : W64)
  | bdsPdClear (src : CfgSrc) (target : CfgTarget) (value : W64)
  | simmerLevel (src : CfgSrc) (target : CfgTarget) (value : W64)
  | syncFlagWrite (src : CfgSrc) (target : CfgTarget) (i : Fin 4) (value : W64)
  | syncSetf (src : CfgSrc) (target : CfgTarget) (value : W64)
  | syncAddc (src : CfgSrc) (target : CfgTarget) (value : W64)
  | syncCtrWrite (src : CfgSrc) (target : CfgTarget) (i : Fin 256) (value : W64)
  | banMaskWrite (src : CfgSrc) (target : CfgTarget) (line : Fin 16) (value : W64)
  | banLineWrite (src : CfgSrc) (line : Fin 16) (value : W64)
  | rimStep (src : CfgSrc) (rim : Fin 16) (value : W64)
  | fiCtlWrite (src : CfgSrc) (unit : FiUnit) (value : W64)
  | grpMaskWrite (src : CfgSrc) (g : Fin 128) (f : Fin 84) (value : W64)
  -- vector and scalar core (ch. 05, 08)
  | halt (t : TileId)
  | br (t : TileId) (taken : Bool) (target : Fin 4096)
  | loop (t : TileId) (count length : Nat)
  | wait (t : TileId)
  | winset (t : TileId) (pos : Fin 8) (en : Bool)
  | fence (t : TileId)
  | scalarOp (t : TileId) (fn : ScalarFn)
  | scalarLoadStore (c : CoreAt) (dir : MemDir)
  | vectorFp32 (c : CoreAt) (fn : Fp32Fn)
  | vectorInteger (c : CoreAt) (fn : IntFn)
  | vectorFixed64 (c : CoreAt) (fn : Fix64Fn)
  | cvtNarrow (c : CoreAt)
  | cvtWiden (c : CoreAt)
  | cvtMx (c : CoreAt)
  | cvt64f (c : CoreAt)
  | cvt64n (c : CoreAt)
  | cvtf64 (c : CoreAt)
  | specialFunction (c : CoreAt) (fn : SpecFn)
  | tileReduction (c : CoreAt) (fn : RedFn) (axis : Fin 2)
  | vld (c : CoreAt)
  | vst (c : CoreAt)
  | bst (c : CoreAt)
  | jset (t : TileId)
  | jacc (t : TileId)
  | jclose (t : TileId)
  | jwr (t : TileId)
  | jrd (t : TileId) (row : Fin 64)
  | phx (c : CoreAt)
  | setf (t : TileId)
  | addc (t : TileId)
  | rdf (t : TileId)
  | rdc (t : TileId)
  | watch (t : TileId)
  | wcancel (t : TileId)
  | arrive (t : TileId)
  | rdgen (t : TileId)
  | fruPost (t : TileId)
  | dmaPostInstruction (t : TileId)
  -- matrix array (ch. 03)
  | setEnter (t : TileId) (heldCycles : Nat)
  | shadowReloadComplete (t : TileId) (heldCycles : Nat)
  | gateOpen (t : TileId) (heldCycles : Nat)
  | idleSlotEnd (t : TileId)
  | tileCapture (t : TileId) (busyCycles : Nat)
  | drainWriteComplete (t : TileId)
  | tableComplete (t : TileId)
  -- DMA and FRU (ch. 06, 05)
  | descriptorAccept (t : TileId) (engine : Fin 2)
  | descriptorStart (t : TileId) (engine : Fin 2)
  | descriptorComplete (t : TileId) (engine : EngineEnd)
  | dmaRunningFault (t : TileId) (engine : Fin 2)
  | fruReady (f : Fin 84)
  | fruComplete (f : Fin 84)
  -- synchronisation (ch. 08)
  | wake (t : TileId)
  | syncPacket (n : Nat)
  | lineRelease (line : Fin 16)
  | simmerSample
  | simmerStepDown
  | simmerStepUp
  -- wafer network (ch. 07)
  | rdReq (n : Arrival)
  | rdResp (n : Arrival)
  | wr (n : Arrival)
  | wrAck (n : Arrival)
  | nrd (n : Arrival)
  | nrdResp (n : Arrival)
  | nwr (n : Arrival)
  | stream (n : Arrival)
  | cfg (target : CfgTarget)
  | cfgResp (target : CfgTarget)
  | flitCrcReplay (place : LinkPlace)
  | vc7Age (place : LinkPlace)
  -- bonded DRAM slice (ch. 06)
  | bdsRefresh (t : TileId) (bank : Fin 16)
  | bdsRefreshEnd (t : TileId) (bank : Fin 16) (waitedCycles : Nat)
  | bdsFenceDone (f : Fin 84) (g : Fin 4)
  | bdsEntryDone (f : Fin 84) (g : Fin 4)
  | lateAccess (n : Nat)
  | bdsWakeDone (t : TileId) (g : Fin 4)
  -- rim (ch. 09)
  | streamEntryRead (k : Fin 16) (waitedCycles : Nat)
  | streamEntrySend (k : Fin 16) (waitedCycles : Nat)
  | acc (n : Arrival)
  | areaOpen (k : Fin 16) (a : Fin 256) (base count : Nat) (t : Int) (expect : Nat)
  | areaZeroingDone (k : Fin 16) (a : Fin 256)
  | backgroundZeroer (k : Fin 16) (block : Nat)
  -- step (ch. 01, 10, 11)
  | stepBegin
  | batchWaitTimeout
  | backwardBarrier
  | tieSumComplete (k : Fin 16) (a : Fin 256) (owner : TileId) (region : W64)
  | orthP (tensor : Nat)
  | globalQImage (tensor : Nat)
  | normSquareSend (tensor : Nat)
  | normVerdict
  | fastShardCommit (tensor shard : Nat)
  | slowTierTransfer (tensor : Nat)
  | slowTierCommit (tensor : Nat)
  | slowTierPublish (tensor : Nat)
  | driftAudit (tensor : Nat)
  | commitPoint
  | stepAbort (cause : Fin 5)
  | checkpointCapture
  | galleryEmission (tensor : Nat)
  | seal
  | ack (seq : Nat) (fromConfigured : Bool)
  | resend (first count : Nat) (fromConfigured : Bool)
  -- field ports and the tree (ch. 13)
  | linkTraining (f : Fin 84) (r : TrainResult)
  | portRetrainTimer
  | lossOfLight (f : Fin 84) (pos : Fin 18)
  | spareLaneUp (f : Fin 84) (dir : LinkDir) (pos : Fin 18)
  | blockTrailer (f : Fin 84) (tr : Trailer)
  | fecRetrain (f : Fin 84)
  | id (f : Fin 84) (p : IdPacket)
  | idTimeout (f : Fin 84)
  | mismatchResend (f : Fin 84)
  | part (f : Fin 84) (l : LinkLine)
  | globalLine (f : Fin 84) (l : LinkLine)
  | tdecl (f : Fin 84) (k : Fin 16) (a : Fin 256) (t : Int)
  | linkArrive (f : Fin 84) (jobId : BitVec 16) (line : Fin 16) (gen : W32)
  | linkRelease (f : Fin 84) (jobId : BitVec 16) (line : Fin 16) (gen : W32)
  | join (f : Fin 84) (jobId : BitVec 16) (imageSm3 : BitVec 256) (down ok : Bool)
  | amax (f : Fin 84) (first : Nat) (vals : List W32) (final : Bool)
  | verdict (f : Fin 84) (v cause : Nat) (norm : W32)
  | prepared (f : Fin 84) (step : Nat)
  | commit (f : Fin 84) (step : Nat)
  | abort (f : Fin 84) (step attempt : Nat) (causes : BitVec 8)
  | fault (f : Fin 84)
  | bundleDownTimeout (b : Fin 12)
  -- power, clocks and heat (ch. 14)
  | feedBelow44v (d : Feed)
  | railBelowWarning (r : Rail)
  | freezeRecovery
  | freezeTimeout
  | feedLost (d : Feed)
  | feedRejoin (d : Feed)
  | feedOvervoltage (d : Feed)
  | feedReversed (d : Feed)
  | fullReset
  | regulatorTrip (f : Fin 84)
  | domainShort (d : ShortDomain)
  | senseTest (f : Fin 84) (openA openB : Bool)
  | thermistorFailure (i : Fin 8) (shorted : Bool)
  | busConverterFail (i : Fin 16)
  | governorSample (r : GovReading)
  | clockStepDown
  | clockStepUp
  | clockSlewDone
  | vddFChangeDone
  | governorFloorStop
  | thermalSample (f : Fin 84) (junction memory : Int)
  | throttleDutyDown (f : Fin 84)
  | throttleDutyUp (f : Fin 84)
  | throttleFloorTimeout (f : Fin 84)
  | hbmOvertemp (k : Fin 16) (temp : Int)
  | companionOvertemp (temp : Int)
  | coolantInletTimeout
  | coolantFlowTimeout
  | coolantFlowPowerOff
  | pllLockLoss (rim : Fin 16)
  | clockInputLoss (f : Fin 84)
  -- reliability (ch. 15)
  | patrolScrub (p : ScrubPlace) (r : EccResult)
  | channelRetire (place : LinkPlace)
  | linkFieldFail (f : Fin 84)
  | watchdogExpiry
  -- context switch and job marks (ch. 08, 17)
  | switchComplete
  | jobMarkSend
  | presenceChange (loop idOk : Bool) (identity : List Byte)
  -- the Demitasse (ch. 17)
  | adcSample (va ia vb ib : Int)
  | markFrame (frame : List Byte)
  | intervalClose
  | meterSave
  | supplyFailing
  | meterPowerUp (elapsedTicks : Nat) (timeKept : Bool)
  | caseOpened
  | displayAdvance
  | identify
  | totals (nonce : List Byte)
  | intervals (nonce : List Byte) (first count : Nat)
  | events (nonce : List Byte) (first count : Nat)
  | status
  -- start (ch. 18)
  | stageAlwaysOn (feedA feedB : Nat) (inlet : Int) (flow : Nat) (identity : List Byte)
  | stageCompanion (pciePort0 pciePort1 : Bool)
  | stageMemoryWafer (failedSlices : List TileId)
  | stageFields (failedRails : List (Fin 84))
  | stageClock (pll0 : Bool) (check : ClockCheck)
  | stageTiles (failedTiles : List TileId)
  | stageLinks (failedStacks : List (Fin 16)) (ucie0 ucie8 : Nat) (eth0 eth1 : Bool)
  | readyPost
  | warmRestart
  | mbHeartBeat
  -- connectors and the rest (ch. 11, 12, 19)
  | laserSourceModuleChange (bay : Fin 12) (latched : Bool)
  | ethernetLinkChange (port : Fin 2) (up : Bool)
  | busMasterEnable
  | jtagAccess (op : JtagOp)
  | hbmPerBankRefresh (k : Fin 16) (bank : Nat) (waitedCycles : Nat)
  | coolantConditionsLost
  | displayReturnTimeout
  deriving DecidableEq, Repr

end Sys2Proof
end

