-- ==== Sys2Proof/Machine/StateTile.lean ====
section
/-!
DEFINITION. The state of one tile: the matrix array with its cadence banks (03), the vector/scalar core with its
join buffer (05), the scratchpad, the tag store, the bonded DRAM slice and the DMA engines (06), the network
interface's counters (07), the sync block (08) and the tile's reliability and injection registers (15).
-/

namespace Sys2Proof.Machine

open Sys2Proof

/-- A byte memory: the listed (address, byte) pairs, addresses rising, no byte equal to 0; an address that is not
listed reads 0. -/
abbrev Memory := List (Nat × BitVec 8)

/-- A 48-bit event counter with its sticky overflow bit (R131). -/
structure Ctr where
  count : BitVec 48
  ovf   : Bool
  deriving DecidableEq, Repr

/-- The counter at reset. -/
def Ctr.zero : Ctr := ⟨0, false⟩

/-- CAD_STATUS.STATE (R129). -/
inductive CadPhase where
  | stopped | issuing | holding | faulted
  deriving DecidableEq, Repr

/-- The cadence table registers of one array (R110, R127 to R130). A bank holds the 64-bit words of its slots,
word `4*j + w` for word `w` of slot `j`. -/
structure Cad where
  bank0  : SMap W64
  bank1  : SMap W64
  hdr0   : W64
  hdr1   : W64
  arm    : Bool
  active : Bool
  run    : Bool
  phase  : CadPhase
  fault  : BitVec 8
  iterNo : BitVec 16
  slot   : BitVec 8
  log    : SMap W64
  logIdx : BitVec 4
  deriving DecidableEq, Repr

/-- A place in a cadence table: bank, iteration, slot and set of the slot's chain. -/
structure CadPos where
  bank : Bool
  iter : Nat
  slot : Nat
  set  : Nat
  deriving DecidableEq, Repr

/-- The shadow buffer (R94): the set it reloads or holds, and whether the reload is complete. -/
structure Shadow where
  pos   : CadPos
  ready : Bool
  bytes : List Byte
  deriving DecidableEq, Repr

/-- The weight set held in the cells (R90): its bytes, its format code and the byte address it came from. -/
structure HeldSet where
  fmt   : Nat
  base  : Nat
  bytes : List Byte
  deriving DecidableEq, Repr

/-- One output element: the exact sum of its aligned products, its special marks and the per-product overflow
test (R56 to R60, R69, R70). -/
structure AccElem where
  sum  : Int
  nan  : Bool
  pinf : Bool
  ninf : Bool
  ovf  : Bool
  deriving DecidableEq, Repr

/-- An element before its first product. -/
def AccElem.zero : AccElem := ⟨0, false, false, false, false⟩

/-- An output tile in progress (R98): where its run of slots began, its scale, its initial scale, its scale source,
the repeats taken, the products per element of this attempt, the sets of the first attempt, its parity in the tree
(R97), whether an injected overflow holds for each of its attempts (R599, 0x0118), and the 64 x 64 accumulators
row-major. -/
structure OutTile where
  start   : CadPos
  s       : Int
  sInit   : Int
  locked  : Bool
  retries : Nat
  k       : Nat
  sets    : Nat
  parity  : Bool
  forced  : Bool
  accs    : List AccElem
  deriving DecidableEq, Repr

/-- A captured tile in the drain buffer (R100, R103), with the address and the form of its drain. -/
structure DrainBuf where
  addr  : Nat
  bytes : List Byte
  deriving DecidableEq, Repr

/-- What the array does next: it is at rest; it runs an idle slot; it waits for its gate; it waits for its set; it
has a locked tile at its verdict (R102); it has reached the end of its table; or it is faulted (R122). -/
inductive ArrPhase where
  | rest | idleSlot | gate | entry | verdict | tableEnd | faulted
  deriving DecidableEq, Repr

/-- The matrix array (R88 to R126). `closing` holds the tiles whose last product has issued and that await capture,
oldest first; `parity` is that of the tile begun last, and `flight0` and `flight1` count the products of each parity
that are in the tree (R97); `opened` the scale automatic selection gave the slot loaded last; `recWin` the last 256 issue-eligible
cycles as runs of issuing and not issuing, newest first, with the operand class in `recClass` (R317). -/
structure Arr where
  phase     : ArrPhase
  pos       : CadPos
  shadow    : Option Shadow
  held      : Option HeldSet
  tile      : Option OutTile
  closing   : List (OutTile × CadPos)
  drain     : Option DrainBuf
  parity    : Bool
  flight0   : Nat
  flight1   : Nat
  opened    : Option (CadPos × Int)
  loadFault : Option (CadPos × BitVec 8)
  simmer    : Bool
  recClass  : Nat
  recWin    : List (Bool × Nat)
  deriving DecidableEq, Repr

/-- VC_STATUS.STATE (R209). -/
inductive VcPhase where
  | stopped | running | waiting | faulted
  deriving DecidableEq, Repr

/-- One block that LOOP repeats: its first and last instruction and the passes left. -/
structure LoopFrame where
  first : Nat
  last  : Nat
  left  : Nat
  deriving DecidableEq, Repr

/-- What a scalar register waits for: the reply to a remote load, the answer of a sync unit, or the acceptance of a
descriptor. -/
inductive WaitKind where
  | load | sync | post
  deriving DecidableEq, Repr

/-- A scalar register that waits for a reply: registers from 32 on are lm and none. -/
structure ScalarWait where
  kind : WaitKind
  dst  : Nat
  deriving DecidableEq, Repr

/-- The vector and scalar core (R162 to R178, R207 to R210). Lane `i` of `v r` is entry `64*r + i` of `v`. -/
structure Vc where
  v        : SMap W32
  s        : SMap W64
  lm       : W64
  istore   : SMap W64
  consts   : SMap W32
  startPc  : Nat
  run      : Bool
  phase    : VcPhase
  fault    : BitVec 8
  pc       : Nat
  haltCode : BitVec 8
  flags    : BitVec 6
  detail   : W64
  winPos   : BitVec 3
  winEn    : Bool
  loops    : List LoopFrame
  wakeDue  : Bool
  watchOn  : Bool
  waits    : List ScalarWait
  deriving DecidableEq, Repr

/-- The join buffer's state (R192). -/
inductive JoinPhase where
  | empty | open | closed
  deriving DecidableEq, Repr

/-- The join buffer (R191 to R194). -/
structure Join where
  phase    : JoinPhase
  elems    : List (Int × Bool)
  sj       : Int
  sInit    : Int
  retries  : Nat
  k        : Nat
  slot     : Nat
  nonfin   : Bool
  range    : Bool
  locked   : Bool
  mismatch : Bool
  deriving DecidableEq, Repr

/-- Where a read or a write of the network belongs at its sender: a piece of a descriptor, an instruction of the core at
its program counter (R203), or a chunk of a participant's region that a reduction unit pulls (R198). -/
inductive Owner where
  | dma (engine : Nat) (seq : Nat) (index : Nat)
  | core (pc : Nat)
  | fru (part chunk : Nat)
  | none
  deriving DecidableEq, Repr

/-- One row (or one transposed block) of a running descriptor: where its bytes come from and go to, and the bytes
once they have been read. -/
structure DmaPiece where
  src   : Nat
  dst   : Nat
  len   : Nat
  bytes : Option (List Byte)
  deriving DecidableEq, Repr

/-- A descriptor held by an engine (R236 to R245): its eight words, its place in the order of acceptance of both
engines, and, once started, its pieces, how many of them have been asked for, the replies it still waits for, how many
of its writes have been issued once its reads are done (`sent`), whether those into its own tile have landed, and the
fault it has met with the device address of its request (R265). -/
structure DmaEntry where
  words    : List W64
  seq      : Nat
  started  : Bool
  pieces   : List DmaPiece
  asked    : Nat
  readsDue : Nat
  sent     : Bool
  issued   : Nat
  acksDue  : Nat
  landed   : Bool
  failed   : Option (BitVec 8)
  failAddr : Nat
  deriving DecidableEq, Repr

/-- A posted descriptor that waits for its acceptance (R237): its words and whether a vector core posted it. -/
structure DmaPosted where
  words    : List W64
  fromCore : Bool
  deriving DecidableEq, Repr

/-- One DMA engine with its registers (R236, R250, R251). -/
structure Dma where
  desc    : SMap W64
  posted  : List DmaPosted
  queue   : List DmaEntry
  fault   : BitVec 8
  refused : BitVec 8
  doneSeq : BitVec 16
  deriving DecidableEq, Repr

/-- The power state of one bank group of a slice (R232 to R235). -/
inductive GState where
  | awake | fencing | entering | down
  deriving DecidableEq, Repr

/-- One bank group of a slice: its state, and whether a late access is waking it. The late accesses it holds keep their
places among the packets of the network. -/
structure BdsGroup where
  state  : GState
  waking : Bool
  deriving DecidableEq, Repr

/-- The bonded DRAM slice of a tile (R227 to R235): its bytes, its four groups and the banks that refresh now. -/
structure Bds where
  mem        : Memory
  g0         : BdsGroup
  g1         : BdsGroup
  g2         : BdsGroup
  g3         : BdsGroup
  refreshing : BitVec 16
  deriving DecidableEq, Repr

/-- An entry of the exponent tag store (R221). -/
structure TagEntry where
  dist : BitVec 7
  tag  : BitVec 9
  deriving DecidableEq, Repr

/-- The sync block (R293, R324 to R327). -/
structure SyncBlock where
  flags     : BitVec 256
  ctrs      : SMap W32
  lastFault : BitVec 8
  deriving DecidableEq, Repr

/-- An injection register FI_CTL or FI_MOD_CTL (R607). -/
structure FiReg where
  point : BitVec 16
  mode  : BitVec 2
  count : W32
  armed : Bool
  deriving DecidableEq, Repr

/-- The injection register at reset. -/
def FiReg.off : FiReg := ⟨0, 0, 0, false⟩

/-- One tile. `spUnc` and `spCor` list the 8-byte words of the scratchpad that hold an uncorrectable or a correctable
error, `bdsUnc` and `bdsCor` the granules of the slice, `tagBad` the tag entries of bad parity, `cfgBad` the config
offsets of instruction, constant and cadence words that cannot be corrected (R580 to R585). The counters are numbered by their register offsets (R131, R211, R253, R288, R328, R608). `netTags` has a bit for each
request tag of the tile's network interface that is outstanding (R263, R273). -/
structure Tile where
  cad    : Cad
  arr    : Arr
  vc     : Vc
  join   : Join
  sp     : Memory
  tags   : SMap TagEntry
  bds    : Bds
  dma0   : Dma
  dma1   : Dma
  dmaSeq : Nat
  netTags : BitVec 256
  sync   : SyncBlock
  ctrs   : SMap Ctr
  fi     : FiReg
  spUnc  : List Nat
  spCor  : List Nat
  bdsUnc : List Nat
  bdsCor : List Nat
  tagBad : List Nat
  cfgBad : List Nat
  deriving DecidableEq, Repr

/-- The cadence registers at reset (R112, R127 to R130). -/
def Cad.reset : Cad :=
  { bank0 := [], bank1 := [], hdr0 := 0, hdr1 := 0, arm := false, active := false, run := false,
    phase := .stopped, fault := 0, iterNo := 0, slot := 0, log := [], logIdx := 0 }

/-- The array at reset; its Simmer record reads as the 16-bit class at full rate (R317). -/
def Arr.reset : Arr :=
  { phase := .rest, pos := ⟨false, 0, 0, 0⟩, shadow := none, held := none, tile := none, closing := [],
    drain := none, parity := false, flight0 := 0, flight1 := 0, opened := none, loadFault := none, simmer := false, recClass := 1,
    recWin := [(true, 256)] }

/-- The vector core at reset (R206 to R210). -/
def Vc.reset : Vc :=
  { v := [], s := [], lm := 0, istore := [], consts := [], startPc := 0, run := false, phase := .stopped,
    fault := 0, pc := 0, haltCode := 0, flags := 0, detail := 0, winPos := 0, winEn := false, loops := [],
    wakeDue := false, watchOn := false, waits := [] }

/-- The join buffer at reset. -/
def Join.reset : Join :=
  { phase := .empty, elems := [], sj := 0, sInit := 0, retries := 0, k := 0, slot := 0, nonfin := false,
    range := false, locked := false, mismatch := false }

/-- A DMA engine at reset (R250, R251). -/
def Dma.reset : Dma :=
  { desc := [], posted := [], queue := [], fault := 0, refused := 0, doneSeq := 0 }

/-- An awake bank group. -/
def BdsGroup.reset : BdsGroup := ⟨.awake, false⟩

/-- The slice at reset: all zero, awake (R249, R252). -/
def Bds.reset : Bds :=
  { mem := [], g0 := .reset, g1 := .reset, g2 := .reset, g3 := .reset, refreshing := 0 }

/-- TAG unknown, DIST 0 (R221). -/
def TagEntry.reset : TagEntry := ⟨0, 0x100⟩

/-- The sync block at reset. -/
def SyncBlock.reset : SyncBlock := ⟨0, [], 0⟩

/-- A tile at reset. -/
def Tile.reset : Tile :=
  { cad := .reset, arr := .reset, vc := .reset, join := .reset, sp := [], tags := [], bds := .reset,
    dma0 := .reset, dma1 := .reset, dmaSeq := 0, netTags := 0, sync := .reset, ctrs := [], fi := .off, spUnc := [],
    spCor := [], bdsUnc := [], bdsCor := [], tagBad := [], cfgBad := [] }

end Sys2Proof.Machine
end

