-- ==== Sys2Proof/Machine/StateWafer.lean ====
section
/-!
DEFINITION. The state of the wafer outside the tiles: the sync units, field reduction units, hubs and BDS
controllers of the fields (05, 06, 07, 08), the packets in flight (07), the rim segments with their HBM stacks,
stream engines, accumulation areas and update units (09, 10), the Banister lines (08) and the companion memory
(09).
-/

namespace Sys2Proof.Machine

open Sys2Proof

/-- The object of a watch (R298, R303). -/
inductive WatchObj where
  | flag (tile : Nat) (id : Nat)
  | ctr (tile : Nat) (id : Nat)
  | gen (line : Nat)
  deriving DecidableEq, Repr

/-- The condition of a watch (R299). -/
inductive WatchCond where
  | ge | eq | bitset | genchg
  deriving DecidableEq, Repr

/-- The message a watch sends when it fires (R301): a WAKE to a core, SET or ADD to a tile, or COMP. -/
inductive WatchDest where
  | wake (tile : Nat)
  | set (tile : Nat) (id : Nat)
  | add (tile : Nat) (id : Nat) (amount : BitVec 16)
  | comp
  deriving DecidableEq, Repr

/-- A watch slot's content: `owner` is the physical tile that registered it, or `none` for the control processor
(R306 code 0x06, R314). -/
structure Watch where
  owner   : Option Nat
  obj     : WatchObj
  cond    : WatchCond
  dest    : WatchDest
  operand : W32
  deriving DecidableEq, Repr

/-- The payload of a SYNC packet (R296, R301, R303, R304). -/
inductive SyncMsg where
  | set (tile : Nat) (id : Nat) (value : Bool)
  | add (tile : Nat) (id : Nat) (amount : W32)
  | wake (tile : Nat)
  | register (w : Watch) (tile : Nat) (dst : Option Nat)
  | registered (tile : Nat) (dst : Nat) (field slot : Nat)
  | refused (tile : Nat) (code : BitVec 8)
  | cancel (field slot : Nat) (tile : Nat)
  deriving DecidableEq, Repr

/-- The end of a packet's route: a tile, a rim, a field's sync unit or reduction unit, or the companion die. -/
inductive Endpoint where
  | tile (t : Nat) | rim (k : Nat) | unit (f : Nat) | fru (f : Nat) | comp
  deriving DecidableEq, Repr

/-- The packet types of R264. -/
inductive PktKind where
  | rdReq (addr : Nat) (len : Nat)
  | rdResp (status : Nat) (bytes : List Byte)
  | wr (addr : Nat) (bytes : List Byte)
  | wrAck (status : Nat)
  | nrd (addr : Nat)
  | nrdResp (status : Nat) (bytes : List Byte)
  | nwr (addr : Nat) (bytes : List Byte)
  | stream (region : Nat) (off : Nat) (bytes : List Byte)
  | acc (addr : Nat) (bytes : List Byte)
  | sync (m : SyncMsg)
  deriving DecidableEq, Repr

/-- A packet in flight (R263): `tag` is its request's, `owner` what its answer completes at the sender. A late access
that a slice holds (R233) keeps its place here, with its number in the slice's order of arrival in `held`, from 1 on.
The last write of an operand block under BLOCK carries the block's first granule, its granules and its exponent tag
(R241). -/
structure Packet where
  src   : Endpoint
  dst   : Endpoint
  vc    : Nat
  kind  : PktKind
  tag   : Nat
  owner : Owner
  addr  : Nat
  held  : Nat
  block : Option (Nat × Nat × BitVec 9)
  deriving DecidableEq, Repr

/-- An output of a hub (R256): a tap, the express bundle to a field, the port of the reduction unit, or the port of a
rim. -/
inductive HubOut where
  | tap (tile : Nat) | express (field : Nat) | fru | rim (k : Nat)
  deriving DecidableEq, Repr

/-- The wafer network (R256 to R287): the packets in flight, oldest first, the route set in force with its dark
fields and NET_BOUND, and the multicast groups as the tiles that take a copy (R279), with what they put into the tables
of the hubs, by `1024*f + g` (R276), and of the rims, the hubs by whose ports rim `k` sends group `g`, by
`1024*k + g`, and the retired channels of each link, by `linkKey` (R589). -/
structure Net where
  inflight : List Packet
  routeSet : BitVec 7
  dark     : BitVec 84
  bound    : W64
  mcast    : SMap (List Nat)
  hubTable : SMap (List HubOut)
  rimTable : SMap (List Nat)
  channels : SMap Nat
  deriving DecidableEq, Repr

/-- FRU_STATUS.STATE (R212). -/
inductive FruPhase where
  | idle | waiting | reading | writing
  deriving DecidableEq, Repr

/-- The field reduction unit (R196 to R202, R212): queued descriptors as their four words, the bytes that each
participant's pulls have brought, 512 at a time, and the result it writes next. -/
structure Fru where
  queue  : List (List W64)
  phase  : FruPhase
  fault  : BitVec 8
  pulled : List (List (Option (List Byte)))
  result : Option (List Byte)
  deriving DecidableEq, Repr

/-- The field's side of the BDS power-down (R254, R255). `fence` lists, for a fencing group, the descriptors it
waits for, as (tile, engine, sequence number); `clear` the groups cleared during entry, `again` those requested anew since. -/
structure BdsCtl where
  pdReq : BitVec 4
  g0    : GState
  g1    : GState
  g2    : GState
  g3    : GState
  fence : SMap (List (Nat × Nat × Nat))
  clear : BitVec 4
  again : BitVec 4
  hot   : Bool
  deriving DecidableEq, Repr

/-- One field's sync unit, reduction unit, BDS controller, hub counters and injection register. Lines are numbered
0 to 15; `arrived l` is the mask of the field's tiles that have arrived. -/
structure Field where
  watches : SMap (Option Watch)
  level   : BitVec 5
  pending : Bool
  banMask : SMap W64
  banGen  : SMap W32
  arrived : SMap W64
  comp    : BitVec 256
  fru     : Fru
  bds     : BdsCtl
  ctrs    : SMap Ctr
  fi      : FiReg
  deriving DecidableEq, Repr

/-- One Banister line at rim0 (R332), with the tree's side of it (R309, R511): `sent` says that its arrival has
gone up the tree. -/
structure BanLine where
  compArrived : Bool
  tree        : Bool
  comp        : Bool
  sent        : Bool
  deriving DecidableEq, Repr

/-- A block of a stack or of companion memory (R339, R408). -/
inductive BlockState where
  | retained | job | zero
  deriving DecidableEq, Repr

/-- A tile-writable window: it covers offsets BASE to LIMIT - 1 (R341, R343). -/
structure Window where
  base  : Nat
  limit : Nat
  deriving DecidableEq, Repr

/-- A stream entry (R348). -/
structure StreamEntry where
  src       : Nat
  bytes     : Nat
  dst       : Nat
  group     : Nat
  vc3       : Bool
  gateEn    : Bool
  gateLine  : Nat
  gateDelta : Nat
  readyId   : Nat
  lag       : Nat
  layer     : Nat
  deriving DecidableEq, Repr

/-- The stream engine (R346 to R355): schedule, entries read and sent in this step, the bytes of the entry that is
being read or sent that are past already, the stream buffer with what it holds of each entry, in order, and the
generations captured at RIM_STEP. -/
structure Stream where
  schedule : List StreamEntry
  read     : Nat
  readOff  : Nat
  sent     : Nat
  sentOff  : Nat
  buffer   : List (List Byte)
  bases    : SMap W32
  step     : W64
  started  : Bool
  deriving DecidableEq, Repr

/-- The state of an accumulation area (R358). -/
inductive AreaState where
  | free | zeroing | open | complete
  deriving DecidableEq, Repr

/-- An accumulation area (R358): `decls` holds each source's latest T. Its elements and its lines' arrival counts are
in the stack's memory. -/
structure Area where
  base     : Nat
  count    : Nat
  t        : Int
  expect   : Nat
  state    : AreaState
  oor      : Bool
  decls    : List (Endpoint × Int)
  deriving DecidableEq, Repr

/-- A line of the accumulation cache with its arrival count (R364), most recently used first in the cache's list. -/
structure CacheLine where
  area     : Nat
  line     : Nat
  vals     : List (BitVec 128)
  arrivals : Nat
  deriving DecidableEq, Repr

/-- A fast-tier shard record of the epoch table (R397, R736). -/
structure ShardRec where
  epoch : Bool
  step0 : W64
  step1 : W64
  deriving DecidableEq, Repr

/-- UPD_STATUS.STATE (R412). -/
inductive UpdPhase where
  | idle | orth | updating | regen
  deriving DecidableEq, Repr

/-- The update unit of a rim (R387 to R401, R412, R413). `epochs` is numbered by `tensor * 65536 + shard`. -/
structure Upd where
  phase       : UpdPhase
  shards      : Nat
  lastFault   : BitVec 8
  uncommitted : Bool
  epochs      : SMap ShardRec
  startEpochs : SMap ShardRec
  reruns      : SMap Nat
  verdict     : BitVec 2
  cause       : BitVec 8
  norm        : W32
  norms       : SMap W32
  deriving DecidableEq, Repr

/-- A rim segment (R333). `unc` lists granules marked uncorrectable, `cor` those with a
correctable error, `excluded` the blocks taken out of use (R586);
`bank` is the bank that refreshes now (R334). -/
structure Rim where
  mem      : Memory
  blocks   : SMap BlockState
  windows  : SMap Window
  ready    : SMap Int
  readyAt0 : SMap Int
  stream   : Stream
  areas    : SMap Area
  cache    : List CacheLine
  upd      : Upd
  ucie     : Nat
  failed   : Bool
  excluded : List Nat
  unc      : List Nat
  cor      : List Nat
  repairs  : List Nat
  ctrs     : SMap Ctr
  fi       : FiReg
  deriving DecidableEq, Repr

/-- The companion memory (R343, R408). -/
structure Comp where
  mem     : Memory
  blocks  : SMap BlockState
  windows : SMap Window
  unc     : List Nat
  cor     : List Nat
  deriving DecidableEq, Repr

/-- Why a field is on the failed-field list (R546), as its cause code. -/
abbrev FailCause := Nat

/-- The repair map (R27, R593): for each logical position `80*y + x` its physical tile, the map ID, the logical rows
presented (64 when the grid is whole, R598), and the retired tiles, failed fields and failed rims. -/
structure Repair where
  map     : SMap (Option Nat)
  id      : W32
  rows    : Nat
  retired : List Nat
  fields  : List (Nat × FailCause)
  rims    : List Nat
  deriving DecidableEq, Repr

/-- A detection that a unit reports in this step, with the fields of R578 that do not come from the job; `sev` is its
severity (R576). The list of them is empty between steps. -/
structure FaultNote where
  det  : Nat
  sev  : Nat
  inj  : Bool
  code : Nat
  loc  : Nat
  tile : Nat
  addr : Nat
  slot : Nat
  deriving DecidableEq, Repr

/-- The wafer. Tiles are numbered `64*f + t`, group mask words `84*g + f`. `off` has a bit for every field that is
not powered, `frozen` holds issue (R540), `halted` is the firmware's halt of a stopped job (R735), `dbgHalt` that of
DBG_HALT (R489), `seed` the job seed the control processor writes to the tiles (R429), `ran` the IDs of the tables that
logical tile (0,0) has started in this step (R430, log 48). -/
structure Wafer where
  tiles   : SMap Tile
  fields  : SMap Field
  rims    : SMap Rim
  net     : Net
  lines   : SMap BanLine
  groups  : SMap W64
  comp    : Comp
  repair  : Repair
  off     : BitVec 84
  frozen  : Bool
  halted  : Bool
  dbgHalt : Bool
  seed    : W64
  fiMod   : FiReg
  posted  : List FaultNote
  ran     : List W32
  deriving DecidableEq, Repr

/-- The network at cold reset (R287 to R291). -/
def Net.reset : Net :=
  { inflight := [], routeSet := 0, dark := 0, bound := 0x0000_00C5_0197_0020, mcast := [], hubTable := [],
    rimTable := [], channels := [] }

/-- The reduction unit at reset (R212). -/
def Fru.reset : Fru := ⟨[], .idle, 0, [], none⟩

/-- The BDS controller at reset (R254, R255). -/
def BdsCtl.reset : BdsCtl := ⟨0, .awake, .awake, .awake, .awake, [], 0, 0, false⟩

/-- A field's units at reset (R212, R254, R329 to R331). -/
def Field.reset : Field :=
  { watches := [], level := 0, pending := false, banMask := [], banGen := [], arrived := [], comp := 0,
    fru := .reset, bds := .reset, ctrs := [], fi := .off }

/-- A Banister line at reset (R332). -/
def BanLine.reset : BanLine := ⟨false, false, false, false⟩

/-- An unused window. -/
def Window.none : Window := ⟨0, 0⟩

/-- The stream engine at reset (R369, R370). -/
def Stream.reset : Stream :=
  { schedule := [], read := 0, readOff := 0, sent := 0, sentOff := 0, buffer := [], bases := [], step := 0,
    started := false }

/-- A free area (R358). -/
def Area.reset : Area :=
  { base := 0, count := 0, t := 0, expect := 0, state := .free, oor := false, decls := [] }

/-- A shard's record at reset: epoch 0, both slots at step 0 (DESIGN CHOICE 3: the spec gives none). -/
def ShardRec.reset : ShardRec := ⟨false, 0, 0⟩

/-- The update unit at reset (R412, R413). -/
def Upd.reset : Upd :=
  { phase := .idle, shards := 0, lastFault := 0, uncommitted := false, epochs := [], startEpochs := [],
    reruns := [], verdict := 0, cause := 0, norm := 0, norms := [] }

/-- A rim at cold reset: every block ZERO (R632), no window, no entry of the readiness table written. -/
def Rim.reset : Rim :=
  { mem := [], blocks := [], windows := [], ready := [], readyAt0 := [], stream := .reset, areas := [],
    cache := [], upd := .reset, ucie := 0, failed := false, excluded := [], unc := [], cor := [], repairs := [], ctrs := [],
    fi := .off }

/-- The companion memory at cold reset. -/
def Comp.reset : Comp := ⟨[], [], [], [], []⟩

/-- The repair map at reset: the manufacture map is not fixed by the spec (R593), so nothing is assigned before
stage 6 builds it. -/
def Repair.reset : Repair := { map := [], id := 0, rows := 64, retired := [], fields := [], rims := [] }

/-- The wafer at cold reset: no field powered. -/
def Wafer.reset : Wafer :=
  { tiles := [], fields := [], rims := [], net := .reset, lines := [], groups := [], comp := .reset,
    repair := .reset, off := BitVec.allOnes 84, frozen := false, halted := false, dbgHalt := false, seed := 0,
    fiMod := .off, posted := [], ran := [] }

end Sys2Proof.Machine
end

