-- ==== Sys2Proof/Machine/StateHost.lean ====
section
/-!
DEFINITION. The state of the Diril protocol and of BAR0: rings, commands in progress, events, the PCIe function,
firmware images (12), the mailbox and the config window with its bridge (20), and what the module has sent out.
-/

namespace Sys2Proof.Machine

open Sys2Proof

/-- STATUS.STATE of a ring (R458). -/
inductive RingPhase where
  | disabled | running | stopping | error
  deriving DecidableEq, Repr

/-- A ring (R458, R459, R464, R468): `sqTail` and `cqHead` are the doorbells' values, `reserved` the completion
entries kept for commands taken, `phase` the PHASE bit of this pass, `unsignalled` the completions not yet
signalled. -/
structure Ring where
  sqBase      : W64
  cqBase      : W64
  coalTime    : BitVec 8
  coalCount   : BitVec 8
  en          : Bool
  state       : RingPhase
  error       : BitVec 8
  cqTail      : Nat
  sqHead      : Nat
  sqTail      : Nat
  cqHead      : Nat
  phase       : Bool
  reserved    : Nat
  unsignalled : Nat
  deriving DecidableEq, Repr

/-- What a command in progress waits for. `waiting` is an exclusive command that has not started (R466); `taken` a
command whose work has not been done. -/
inductive ProgState where
  | waiting
  | taken
  | event
  | stepRun
  | replay
  | jobOpen
  | jobStart
  | jobClose (mode : Nat)
  | arrive (line : Nat)
  | watch (field slot : Nat)
  | capture
  | rampUp
  | power (target : Nat)
  deriving DecidableEq, Repr

/-- A command in progress (R464). -/
structure Prog where
  ring     : Nat
  cmdId    : BitVec 16
  opcode   : Nat
  nowait   : Bool
  progress : Bool
  state    : ProgState
  rdata0   : W64
  deriving DecidableEq, Repr

/-- An asynchronous event (R473). -/
structure Event where
  code   : Nat
  jobId  : BitVec 16
  detail : W32
  step   : W64
  slot   : BitVec 8
  extra  : BitVec 56
  deriving DecidableEq, Repr

/-- A firmware image (R490, R609, R610, R613): its version, the key slot that signed it, its security version, its SM3 and
that of its microcode section. -/
structure FwImage where
  version : W32
  slot    : Nat
  svn     : Nat
  sm3     : BitVec 256
  ucode   : BitVec 256
  deriving DecidableEq, Repr

/-- Firmware: the staging area, the stored image (none: no valid image), the running image (none: the recovery
loader), and whether the next good boot raises the anti-rollback counter (R490 to R492). -/
structure Fw where
  staging : Memory
  stored  : Option FwImage
  running : Option FwImage
  raise   : Bool
  deriving DecidableEq, Repr

/-- The mailbox registers that are stored and not composed from the rest of the state (R713 to R716). -/
structure Mailbox where
  stage   : BitVec 8
  heart   : W32
  event   : BitVec 6
  mask    : BitVec 6
  scratch : SMap W64
  deriving DecidableEq, Repr

/-- A config access error status (R717, R720). -/
structure CfgErr where
  err   : BitVec 8
  field : BitVec 7
  tile  : BitVec 6
  count : BitVec 16
  deriving DecidableEq, Repr

/-- An access that the bridge has accepted (R20): its source, its address, its data, and, once it is being applied,
the targets whose CFG_RESP is still due, with those whose CFG packet is still to arrive. -/
structure CfgAccess where
  src   : CfgSrc
  addr  : BitVec 40
  write : Bool
  value : W64
  todo  : List Nat
  resp  : List Nat
  deriving DecidableEq, Repr

/-- The config window and the bridge (R717 to R723). Targets are numbered: tile `64*f + t`; rim `k` is 8192 + k. -/
structure CfgWin where
  addr    : BitVec 40
  data    : W64
  busy    : Bool
  overrun : Bool
  status  : CfgErr
  fw      : CfgErr
  cur     : Option CfgAccess
  result  : W64
  held    : List CfgAccess
  deriving DecidableEq, Repr

/-- Everything of ch. 12 and ch. 20 outside the job. -/
structure HostSide where
  rings   : SMap Ring
  progs   : List Prog
  events  : List Event
  dropped : Nat
  port    : Bool
  linkUp0 : Bool
  linkUp1 : Bool
  busMast : Bool
  heldOut : List (Nat × List Byte)
  msix    : SMap W64
  pba     : BitVec 9
  fw      : Fw
  mb      : Mailbox
  cfg     : CfgWin
  perst   : Bool
  deriving DecidableEq, Repr

/-- What a link packet carries (R497, and the CTRL packets of R502, R510 and R519 to R524). -/
inductive LinkMsg where
  | part (l : LinkLine)
  | glob (l : LinkLine)
  | tdecl (rim area : Nat) (t : Int)
  | arrive (jobId : BitVec 16) (line : Nat) (gen : W32)
  | release (jobId : BitVec 16) (line : Nat) (gen : W32)
  | join (jobId : BitVec 16) (sm3 : BitVec 256) (down ok : Bool)
  | amax (first : Nat) (vals : List W32) (final : Bool)
  | verdict (v cause : Nat) (norm : W32)
  | prepared (step : Nat)
  | commit (step : Nat)
  | abort (step attempt : Nat) (causes : BitVec 8)
  | fault
  | lane (rx : Bool) (pos : Nat)
  | id (p : IdPacket)
  | nak (ack : BitVec 16)
  deriving DecidableEq, Repr

/-- A datagram or link packet or signal that leaves the module, by its kind. -/
inductive OutMsg where
  | hostWrite (addr : Nat) (bytes : List Byte)
  | msix (vector : Nat)
  | gallery (port : Nat) (bytes : List Byte)
  | link (field : Nat) (m : LinkMsg)
  | markFrame (bytes : List Byte)
  | meterPort (bytes : List Byte)
  | jtag (bytes : List Byte)
  deriving DecidableEq, Repr

/-- A ring at reset (R458). -/
def Ring.reset : Ring :=
  { sqBase := 0, cqBase := 0, coalTime := 0, coalCount := 0, en := false, state := .disabled, error := 0,
    cqTail := 0, sqHead := 0, sqTail := 0, cqHead := 0, phase := true, reserved := 0, unsignalled := 0 }

/-- No access error. -/
def CfgErr.none : CfgErr := ⟨0, 0, 0, 0⟩

/-- The config window at reset (R717). -/
def CfgWin.reset : CfgWin :=
  { addr := 0, data := 0, busy := false, overrun := false, status := .none, fw := .none, cur := .none,
    result := 0, held := [] }

/-- The mailbox at cold start: BOOT_STAGE 0x01 and MASK 0x01 (R713, R715). -/
def Mailbox.reset : Mailbox := { stage := 0x01, heart := 0, event := 0, mask := 0x01, scratch := [] }

/-- The host side at cold reset. -/
def HostSide.reset : HostSide :=
  { rings := [], progs := [], events := [], dropped := 0, port := false, linkUp0 := false, linkUp1 := false,
    busMast := false, heldOut := [], msix := [], pba := 0,
    fw := { staging := [], stored := some ⟨0, 0, 0, 0, 0⟩, running := none, raise := false },
    mb := .reset, cfg := .reset, perst := false }

end Sys2Proof.Machine
end

