-- ==== Sys2Proof/Machine/StateJob.lean ====
section
/-!
DEFINITION. The state of the open job and of the training loop: the job image (12 R478, R479), the step in
progress (01, 10), loss scale and histories, landing records, checkpoints and the Gallery stream (11).
-/

namespace Sys2Proof.Machine

open Sys2Proof

/-- The job state (R474). -/
inductive JobState where
  | none | loaded | ready | running | held | stopped | closing
  deriving DecidableEq, Repr

/-- The job descriptor (R478). -/
structure JobDesc where
  seed        : W64
  qmult       : W32
  staleness   : Nat
  qhold       : Bool
  unmeteredOk : Bool
  ckptSm4     : Bool
  galSm4      : Bool
  lsInit      : Int
  lsMin       : Int
  lsMax       : Int
  amaxTgt     : Nat
  groups      : Nat
  cleanN      : Nat
  ckptEvery   : Nat
  ckptSlots   : Nat
  galStart    : Nat
  galPolicy   : Nat
  galWindow   : Nat
  galEvery    : Nat
  ckptBytes   : Nat
  lrDepth     : Nat
  tensors     : Nat
  scaleTable  : W64
  deriving DecidableEq, Repr

/-- A reduction descriptor (R372, R479). -/
structure Reduction where
  id     : Nat
  toff   : Int
  rank   : Nat
  low    : Bool
  slow   : Bool
  wcRnd  : Bool
  back   : Bool
  nstate : Nat
  prog   : Nat
  rim    : Nat
  wcFmt  : Nat
  pArea  : Nat
  qArea  : Nat
  group  : Nat
  fbase  : Nat
  n      : Nat
  k      : Nat
  sgroup : Nat
  consts : List W32
  deriving DecidableEq, Repr

/-- A placement record (R479). -/
structure Placement where
  id      : Nat
  master0 : W64
  master1 : W64
  state0  : W64
  state1  : W64
  wc      : W64
  bwc     : W64
  first   : Nat
  count   : Nat
  deriving DecidableEq, Repr

/-- The step constants of a program from a step onward (R481). -/
structure ConstRec where
  prog  : Nat
  first : Nat
  k     : List W32
  deriving DecidableEq, Repr

/-- The open job as JOB_OPEN loaded it (R475 to R479). -/
structure Job where
  id        : BitVec 16
  sm3       : BitVec 256
  bytes     : Nat
  desc      : JobDesc
  reds      : List Reduction
  programs  : SMap W32
  flagged   : List Bool
  places    : List Placement
  gallery   : List Nat
  signers   : List (List Byte)
  consts    : List ConstRec
  unmetered : Bool
  deriving DecidableEq, Repr

/-- A scale group (R420): its scale and its amax history, newest first; an entry that is none is a non-finite value
no group ever holds after a commit point. -/
structure ScaleGroup where
  lam  : Int
  hist : List W32
  deriving DecidableEq, Repr

/-- A staged batch descriptor (R485). -/
structure Batch where
  step   : Nat
  offset : Nat
  bytes  : Nat
  desc   : List Byte
  deriving DecidableEq, Repr

/-- What has happened in this step to a tensor (R386): P-hat written, local Q image written, global Q image
written, norm square sent, slow gradient transferred. -/
structure TensorStep where
  phat   : Bool
  qloc   : Bool
  qglob  : Bool
  ns     : Option W32
  slow   : Bool
  deriving DecidableEq, Repr

/-- A slow-tier tensor (R404, R405, R408): its epoch, its slots' steps, its last published step (none before the
first), the retained gradients as (step, lambda, G image), the masters by step from the newest published one on (DESIGN
CHOICE 99), and whether a non-finite result stopped it (R407). -/
structure SlowTensor where
  epoch     : Bool
  step0     : W64
  step1     : W64
  published : Option Nat
  retained  : List (Nat × Int × List W32)
  kept      : List (W64 × List W32)
  dead      : Bool
  deriving DecidableEq, Repr

/-- The step-start state that a landing record carries (R37, R430), with the cadence tables of the tiles; `epoch` is the SM3
of the master epoch state (R431). -/
structure StartState where
  epoch    : BitVec 256
  rsel     : Bool
  lamG     : Int
  clean    : Nat
  skips    : Nat
  fallback : Bool
  groups   : SMap ScaleGroup
  hist     : List W32
  cads     : SMap Cad
  deriving DecidableEq, Repr

/-- A STEP_RUN in progress (R482). `fresh` says that its first step has not begun (R347). -/
structure Run where
  left    : Option Nat
  verify  : Bool
  trace   : Bool
  ref     : Nat
  slot    : Nat
  stop    : Bool
  refs    : List Byte
  traceTo : List HostSeg
  fresh   : Bool
  deriving DecidableEq, Repr

/-- A dry replay in progress (R434). -/
structure Replay where
  step    : Nat
  traceTo : List HostSeg
  deriving DecidableEq, Repr

/-- The verdict of a step (R390). -/
inductive Verdict where
  | pending | apply | skip | quarantine
  deriving DecidableEq, Repr

/-- The step in progress (R34, R38): the phase reached and the flags of its events; `due` holds the causes of an abort
that is due and not yet begun (R39). -/
structure StepState where
  begun    : Bool
  waiting  : Bool
  barrier  : Bool
  verdict  : Verdict
  cause    : BitVec 8
  norm     : W32
  named    : List Nat
  attempts : Nat
  aborts   : BitVec 8
  due      : BitVec 8
  unmet    : Bool
  shards   : List (Nat × Nat)
  tensors  : SMap TensorStep
  amax     : SMap W32
  publishs : List (Nat × Nat)
  deriving DecidableEq, Repr

/-- The training loop of the open job (R415 to R438). `next` is the next step; `last` the last step to reach its
commit point with its verdict. -/
structure Train where
  state    : JobState
  job      : Option Job
  next     : Nat
  last     : Option Nat
  lastV    : Verdict
  rsel     : Bool
  lamG     : Int
  clean    : Nat
  skips    : Nat
  fallback : Bool
  groups   : SMap ScaleGroup
  hist     : List W32
  start    : Option StartState
  step     : StepState
  batches  : List Batch
  consts   : List ConstRec
  slow     : SMap SlowTensor
  run      : Option Run
  replay   : Option Replay
  records  : List (Nat × List Byte)
  deriving DecidableEq, Repr

/-- The committed state of a step that a checkpoint holds (R439), without the residual regions, whose place the spec does
not give (log 49). -/
structure Snapshot where
  step     : Nat
  lamG     : Int
  clean    : Nat
  skips    : Nat
  fallback : Bool
  rsel     : Bool
  groups   : SMap ScaleGroup
  hist     : List W32
  fast     : List (Nat × Nat × ShardRec × List Byte × List Byte)
  slow     : List (Nat × SlowTensor × List Byte × List Byte)
  copies   : List (Nat × List Byte × List Byte)
  basis    : List (Nat × List W32)
  bases    : SMap (List W32)
  landing  : List (Nat × List Byte)
  deriving DecidableEq, Repr

/-- A checkpoint slot (R441): the checkpoint it holds, its capture number, its bytes, whether the host reads it, whether a
read has found it uncorrectable and so invalid, and whether it holds such an error (R585). -/
structure CkptSlot where
  snap    : Snapshot
  seq     : W64
  bytes   : List Byte
  reading : Bool
  invalid : Bool
  bad     : Bool
  deriving DecidableEq, Repr

/-- Checkpoints and the replay slot (R434, R439 to R445). `captureSeq` is non-volatile; `capturing` holds the captures under
way, oldest first (R440). -/
structure Ckpt where
  slots      : SMap (Option CkptSlot)
  captureSeq : W64
  key        : Option (List Byte)
  asked      : Bool
  capturing  : List Snapshot
  replayRec  : Option (List Byte)
  prevBytes  : List Byte
  since      : List Nat
  deriving DecidableEq, Repr

/-- A Gallery record held in the retransmit window (R450). -/
structure GalRecord where
  seq     : Nat
  step    : Nat
  type    : Nat
  payload : List Byte
  bytes   : List Byte
  deriving DecidableEq, Repr

/-- An emission of a tensor that is due (R447): the words not yet sent, from element `first` on; none where the slow
tier's update of the step has not been made. -/
structure GalDue where
  step     : Nat
  tensor   : Nat
  first    : Nat
  words    : Option (List W32)
  slotStep : W64
  deriving DecidableEq, Repr

/-- The addressing of a Gallery port (R486). -/
structure GalNet where
  ipVersion : Nat
  hopLimit  : BitVec 8
  dscp      : BitVec 8
  srcIp     : List Byte
  dstIp     : List Byte
  srcUdp    : BitVec 16
  dstUdp    : BitVec 16
  dstMac    : List Byte
  vlan      : BitVec 16
  deriving DecidableEq, Repr

/-- The Gallery stream (R446 to R450): the next SEQ, the retransmit window, what has been acknowledged, the bases by
tensor, the emissions due, the steps still to be sealed with the DIFFs sent for them as (step, SEQ, payload), the ports
and the key. -/
structure Gallery where
  seq    : Nat
  window : List GalRecord
  acked  : Nat
  bases  : SMap (List W32)
  due    : List GalDue
  seals  : List Nat
  sent   : List (Nat × Nat × List Byte)
  net    : SMap (Option GalNet)
  up0    : Bool
  up1    : Bool
  key    : Option (List Byte)
  deriving DecidableEq, Repr

/-- A tensor's step before its first event. -/
def TensorStep.reset : TensorStep := ⟨false, false, false, none, false⟩

/-- A slow-tier tensor before its first update. -/
def SlowTensor.reset : SlowTensor := ⟨false, 0, 0, none, [], [], false⟩

/-- No step in progress. -/
def StepState.reset : StepState :=
  { begun := false, waiting := false, barrier := false, verdict := .pending, cause := 0, norm := 0, named := [],
    attempts := 0, aborts := 0, due := 0, unmet := false, shards := [], tensors := [], amax := [], publishs := [] }

/-- No job. -/
def Train.reset : Train :=
  { state := .none, job := none, next := 0, last := none, lastV := .pending, rsel := false, lamG := 0, clean := 0,
    skips := 0, fallback := false, groups := [], hist := [], start := none, step := .reset, batches := [],
    consts := [], slow := [], run := none, replay := none, records := [] }

/-- No checkpoint; CAPTURE_SEQ starts at 0. -/
def Ckpt.reset : Ckpt :=
  { slots := [], captureSeq := 0, key := none, asked := false, capturing := [], replayRec := none,
    prevBytes := [], since := [] }

/-- No Gallery stream. -/
def Gallery.reset : Gallery :=
  { seq := 0, window := [], acked := 0, bases := [], due := [], seals := [], sent := [], net := [], up0 := false,
    up1 := false, key := none }

end Sys2Proof.Machine
end

