-- ==== Sys2Proof/Config.lean ====
section
/-!
DEFINITION. What the spec leaves open: constants without a body, so that nothing can be proved of their values, and
functions named by other standards that the spec does not write out. Each is named in the assumption log.
-/

namespace Sys2Proof

/-- A fresh free value for every number the step's counter reaches (log 2). -/
opaque Config.freeWord : Nat → W64

/-- A fresh free bit. -/
opaque Config.freeBit : Nat → Bool

/-- A fresh free byte list of a given length is read from this, byte by byte. -/
opaque Config.freeByte : Nat → Nat → Byte

/-- A free lane value of an instruction whose result the spec does not state, from the operands (log 30). -/
opaque Config.freeLane : Nat → W32 → W32 → W32

/-- A free 64-bit result of an operation whose result the spec does not state, from the operands (log 30). -/
opaque Config.freeDouble : Nat → W64 → W64 → W64

/-- The halt code an instruction word of HALT carries; R172 gives its place no bits (log 31). -/
opaque Config.haltCode : W64 → BitVec 8

/-- Whether a lane rotate moves lanes towards higher numbers; the spec gives no direction (log 32). -/
opaque Config.rotateUp : Bool

/-- SM3, named by the spec and defined by GB/T 32905 (log 40). -/
opaque Config.sm3 : List Byte → BitVec 256

/-- SM2 signature verification: key, message, signature (log 40). -/
opaque Config.sm2Verify : List Byte → List Byte → List Byte → Bool

/-- The SM2 signature of a message under a named device key, 64 bytes as the spec stores it (log 40). -/
opaque Config.sm2Sign : Nat → List Byte → BitVec 512

/-- SM2 decryption under the identity key; none where the ciphertext is rejected (log 40). -/
opaque Config.sm2Decrypt : List Byte → Option (List Byte)

/-- SM4-GCM encryption: key, IV, additional data, plaintext to ciphertext (log 40). -/
opaque Config.gcmSeal : List Byte → List Byte → List Byte → List Byte → List Byte

/-- The 16-byte tag of the same encryption (log 40). -/
opaque Config.gcmTag : List Byte → List Byte → List Byte → List Byte → BitVec 128

/-- SM4-GCM opening: key, IV, additional data, ciphertext, tag; none where the tag fails (log 40). -/
opaque Config.gcmOpen : List Byte → List Byte → List Byte → List Byte → BitVec 128 → Option (List Byte)

/-- The manufacture map of this module: the physical tile of each logical position (R593, log 41). -/
opaque Config.factoryMap : Nat → Nat

/-- The tiles the manufacture map retires (R593, log 41). -/
opaque Config.factoryRetired : List Nat

/-- The map ID of the manufacture map (log 41). -/
opaque Config.factoryMapId : W32

/-- The receiving tiles of a multicast group, as the job image's config load leaves the hubs' tables (log 42). -/
opaque Config.mcastGroup : BitVec 256 → Nat → List Nat

/-- The hubs a packet crosses from one field to another where R283 or R286 leave the route to the set in force (log
43). -/
opaque Config.detour : BitVec 84 → Nat → Nat → List Nat

/-- The load multiple of set 85's channels with two or more dark fields, where R286 leaves the composition of the set open
(log 43). -/
opaque Config.loadMultiple : BitVec 84 → Nat

/-- The legal software's version and the first digits of its SM3 as the display shows them (R656, R657). -/
opaque Config.meterSoftware : List Byte

/-- The CRC-16 of a link flit, over its payload and header bits [63:16], and of a block's trailer, over its bits [63:16]: the
spec names no polynomial (log 95). -/
opaque Config.linkCrc : BitVec 512 → BitVec 48 → BitVec 16
opaque Config.trailerCrc : BitVec 48 → BitVec 16

/-- The CRC-16 of a flit, over its payload and sideband bits [127:16]: the spec names no polynomial (log 95). -/
opaque Config.crc16 : BitVec 512 → BitVec 112 → BitVec 16

/-- The Demitasse's identity store, 1,024 bytes written at its manufacture (R656, log 44). -/
opaque Config.meterStore : List Byte

/-- The Demitasse's serial number (R656, log 44). -/
opaque Config.meterSerial : W64

/-- Whether an identity block's signature verifies (R656, log 44). -/
opaque Config.meterIdGood : List Byte → Bool

/-- What a staged firmware image holds, none where it is no image: the spec gives images no layout (R490, log 67). -/
opaque Config.readImage : List Byte → Option Machine.FwImage

/-- Whether a staged image's signature verifies under a firmware key (R490, R610, log 67). -/
opaque Config.imageSigned : List Byte → Bool

/-- The module's serial number in OTP (R622, log 44). -/
opaque Config.serial : W64

/-- The SM3 hashes of the public keys in the 12 OTP key slots (R610, log 44). -/
opaque Config.keySlot : Nat → BitVec 256

/-- The two certificates that ATT_CERT returns (R617, log 44). -/
opaque Config.certificates : List Byte

/-- A fresh draw of the true random generator (R626, log 2). -/
opaque Config.random32 : Nat → BitVec 256

/-- Modules of a ring, by its TREE_ID (R517, log 62). -/
opaque Config.ringSize : W64 → Nat

/-- The position of a worker in a ring, by TREE_ID and MODULE_ID; none where the tree is no ring (R517, log 62). -/
opaque Config.ringPos : W64 → BitVec 32 → Option Nat

/-- The bytes of a report whose contents the spec lists without giving their layout: by kind, from the contents in the
spec's order (log 45). Kinds: 1 identity page, 2 repair map, 3 checkpoint list, 4 injection list, 5 trace, 6 job state,
7 scale table and histories, 8 checkpoint section, 9 epoch state, 10 the rest of a CTRL packet. -/
opaque Config.layout : Nat → List Byte → List Byte

/-- What a checkpoint's bytes hold, to be restored from the host: the spec does not give its sections a layout (log 45). -/
opaque Config.readCheckpoint : List Byte → Option Machine.Snapshot

/-- The bytes that a scan chain or another test access over JTAG returns, from the access (log 46). -/
opaque Config.scanOut : Nat → List Byte

end Sys2Proof
end

