-- ==== Sys2Proof/Machine/Ops.lean ====
section
/-!
DEFINITION. The named operations over the plain data of the state: sparse maps, byte memories in canonical form,
little-endian bytes, bit fields and saturating counters.
-/

namespace Sys2Proof.Machine

open Sys2Proof

/-- The value a sparse map holds at `k`, `d` where it lists none. -/
def mget {α : Type} (d : α) : SMap α → Nat → α
  | [], _ => d
  | (k', v) :: m, k => if k' = k then v else mget d m k

/-- The map with `v` at `k`, its keys kept rising. -/
def mput {α : Type} : SMap α → Nat → α → SMap α
  | [], k, v => [(k, v)]
  | (k', v') :: m, k, v =>
    if k' = k then (k, v) :: m else if k < k' then (k, v) :: (k', v') :: m else (k', v') :: mput m k v

/-- The map with every entry of `ks` set to `v`. -/
def mputAll {α : Type} (m : SMap α) (ks : List Nat) (v : α) : SMap α :=
  ks.foldl (fun m k => mput m k v) m

/-- One byte of a memory. -/
def Memory.read (m : Memory) (a : Nat) : Byte := mget 0 m a

/-- The memory with one byte written: a zero is held by listing nothing. -/
def Memory.write : Memory → Nat → Byte → Memory
  | [], a, b => if b = 0 then [] else [(a, b)]
  | (a', b') :: m, a, b =>
    if a' = a then (if b = 0 then m else (a, b) :: m)
    else if a < a' then (if b = 0 then (a', b') :: m else (a, b) :: (a', b') :: m)
    else (a', b') :: Memory.write m a b

/-- The canonical form: addresses rising, no zero listed. -/
def Memory.wf : Memory → Bool
  | [] => true
  | [(_, b)] => b != 0
  | (a, b) :: (a', b') :: m => b != 0 && decide (a < a') && Memory.wf ((a', b') :: m)

/-- `n` bytes from address `a` up. -/
def Memory.readN (m : Memory) (a : Nat) : Nat → List Byte
  | 0 => []
  | n + 1 => m.read a :: Memory.readN m (a + 1) n

/-- The bytes written from address `a` up. -/
def Memory.writeN (m : Memory) (a : Nat) : List Byte → Memory
  | [] => m
  | b :: bs => Memory.writeN (m.write a b) (a + 1) bs

/-- The memory with `n` bytes from `a` up zero. -/
def Memory.clear (m : Memory) (a n : Nat) : Memory := m.filter (fun c => decide (c.1 < a ∨ a + n ≤ c.1))

/-- A field of a register word. -/
def fld (v lo : Nat) : Nat := v * 2 ^ lo

/-- A little-endian number (R8). -/
def leNat : List Byte → Nat
  | [] => 0
  | b :: bs => b.toNat + 256 * leNat bs

/-- The `n` little-endian bytes of a number (R8). -/
def leBytes : Nat → Nat → List Byte
  | 0, _ => []
  | n + 1, v => BitVec.ofNat 8 v :: leBytes n (v / 256)

/-- The `n` big-endian bytes of a number. -/
def beBytes (n v : Nat) : List Byte := (leBytes n v).reverse

/-- A two's-complement reading of the low `w` bits. -/
def sint (w v : Nat) : Int := if v % 2 ^ w < 2 ^ (w - 1) then (v % 2 ^ w : Int) else (v % 2 ^ w : Int) - 2 ^ w

/-- An integer as `w` two's-complement bits. -/
def uint (w : Nat) (i : Int) : Nat := (i % (2 ^ w : Int)).toNat

/-- Bits `[hi:lo]` of a number. -/
def bits (v hi lo : Nat) : Nat := v / 2 ^ lo % 2 ^ (hi + 1 - lo)

/-- One bit of a number. -/
def bitOf (v i : Nat) : Bool := v / 2 ^ i % 2 == 1

/-- `n` bytes of a list from `a` on, zero beyond its end. -/
def slice (l : List Byte) (a n : Nat) : List Byte := (List.range n).map (fun i => l.getD (a + i) 0)

/-- A little-endian field of `n` bytes at offset `a`. -/
def fieldN (l : List Byte) (a n : Nat) : Nat := leNat (slice l a n)

/-- True where all of the bytes of `l` from `a` to `b - 1` are zero. -/
def zeros (l : List Byte) (a b : Nat) : Bool := (slice l a (b - a)).all (· == 0)

/-- A Bool as a number. -/
def b2n (b : Bool) : Nat := if b then 1 else 0

/-- A counter raised by `n`: it saturates at all ones and marks a lost increment (R131). -/
def Ctr.bump (c : Ctr) (n : Nat) : Ctr :=
  if c.count.toNat + n < 2 ^ 48 then { c with count := BitVec.ofNat 48 (c.count.toNat + n) }
  else { count := BitVec.allOnes 48, ovf := true }

/-- A numbered counter raised by `n`. -/
def bumpAt (m : SMap Ctr) (off n : Nat) : SMap Ctr := mput m off ((mget .zero m off).bump n)

/-- A counter register as a config read returns it (R131). -/
def Ctr.word (c : Ctr) : W64 := BitVec.ofNat 64 (c.count.toNat + 2 ^ 48 * b2n c.ovf)

/-- A write to a counter: COUNT is preset, a 1 in the OVF bit clears it (R131, R604). -/
def Ctr.preset (c : Ctr) (v : W64) : Ctr :=
  { count := v.extractLsb' 0 48, ovf := c.ovf && !v.getLsbD 48 }

/-- Element `i` of a list replaced. -/
def setAt {α : Type} (l : List α) (i : Nat) (x : α) : List α := l.set i x

/-- Element `i` removed. -/
def dropAt {α : Type} (l : List α) (i : Nat) : List α := l.take i ++ l.drop (i + 1)

/-- Serial-number order: `v` has reached `t` (R294). -/
def reaches (v t : W32) : Bool := decide ((v - t).toNat < 2 ^ 31)

/-- The physical tile number of f*n*.t*m*. -/
def tkey (t : TileId) : Nat := 64 * t.f.val + t.t.val

end Sys2Proof.Machine
end

