-- ==== Sys2Proof/Machine/Numerics.lean ====
section
/-!
DEFINITION. Element formats, exact values, rounding and conversion (02 R46 to R54, R78 to R85) and the correctly
rounded special functions (05 R181). A value is read exactly, computed exactly (or to far more bits than the result
holds, with a sticky bit), and rounded once.
-/

namespace Sys2Proof.Machine

open Sys2Proof

/-- What an element stands for: NaN, an infinity by its sign, or an exact finite value. A zero of either sign is
read as the value 0 (R49). -/
inductive FpVal where
  | nan
  | inf (neg : Bool)
  | fin (d : Dyadic)
  deriving DecidableEq, Repr

/-- How a format encodes NaN and infinity: as IEEE 754, as FP8-E4M3 (NaN at all ones, no infinity), or not at all. -/
inductive FpSpecials where
  | ieee | e4m3 | none
  deriving DecidableEq, Repr

/-- A binary floating-point format (R46). -/
structure FpFmt where
  ebits    : Nat
  mbits    : Nat
  bias     : Int
  specials : FpSpecials
  deriving DecidableEq, Repr

def fp32 : FpFmt := ⟨8, 23, 127, .ieee⟩
def bf16 : FpFmt := ⟨8, 7, 127, .ieee⟩
def fp16 : FpFmt := ⟨5, 10, 15, .ieee⟩
def fp8e4m3 : FpFmt := ⟨4, 3, 7, .e4m3⟩
def fp8e5m2 : FpFmt := ⟨5, 2, 15, .ieee⟩
def fp6e2m3 : FpFmt := ⟨2, 3, 1, .none⟩
def fp6e3m2 : FpFmt := ⟨3, 2, 3, .none⟩
def fp4e2m1 : FpFmt := ⟨2, 1, 1, .none⟩

/-- The width of an element. -/
def fpWidth (f : FpFmt) : Nat := 1 + f.ebits + f.mbits

/-- The magnitude bits of a canonical NaN (R47). -/
def fpNaN (f : FpFmt) : Nat :=
  match f.specials with
  | .ieee => (2 ^ f.ebits - 1) * 2 ^ f.mbits + 2 ^ (f.mbits - 1)
  | .e4m3 => 2 ^ (f.ebits + f.mbits) - 1
  | .none => 0

/-- The magnitude bits of infinity, in a format that has one. -/
def fpInf (f : FpFmt) : Nat := (2 ^ f.ebits - 1) * 2 ^ f.mbits

/-- The magnitude bits of the largest finite value (R46). -/
def fpMax (f : FpFmt) : Nat :=
  match f.specials with
  | .ieee => fpInf f - 1
  | .e4m3 => 2 ^ (f.ebits + f.mbits) - 2
  | .none => 2 ^ (f.ebits + f.mbits) - 1

/-- The sign bit of an encoding. -/
def fpSign (f : FpFmt) (w : Nat) : Bool := bitOf w (f.ebits + f.mbits)

/-- The exponent of the last place of subnormals. -/
def fpMinExp (f : FpFmt) : Int := 1 - f.bias - f.mbits

/-- The exact value of an encoding (R46). -/
def fpDecode (f : FpFmt) (w : Nat) : FpVal :=
  let mag := w % 2 ^ (f.ebits + f.mbits)
  let ex := mag / 2 ^ f.mbits
  let man := mag % 2 ^ f.mbits
  let neg := fpSign f w
  let sgn (m : Nat) : Int := if neg then -(m : Int) else m
  let finite : FpVal :=
    if ex = 0 then .fin ⟨sgn man, fpMinExp f⟩
    else .fin ⟨sgn (2 ^ f.mbits + man), (ex : Int) - f.bias - f.mbits⟩
  match f.specials with
  | .ieee => if ex = 2 ^ f.ebits - 1 then (if man = 0 then .inf neg else .nan) else finite
  | .e4m3 => if mag = 2 ^ (f.ebits + f.mbits) - 1 then .nan else finite
  | .none => finite

/-- True for a NaN whose quiet bit is clear. -/
def fpSignaling (f : FpFmt) (w : Nat) : Bool :=
  match fpDecode f w with
  | .nan => decide (f.specials = .ieee) && !bitOf w (f.mbits - 1)
  | _ => false

/-- `⌊log2 m⌋` for `m > 0`, by counting halvings up to `fuel`. -/
def log2Fuel : Nat → Nat → Nat
  | 0, _ => 0
  | fuel + 1, m => if m ≤ 1 then 0 else 1 + log2Fuel fuel (m / 2)

/-- `⌊log2 m⌋` for `m > 0`, and 0 for 0. -/
def log2n (m : Nat) : Nat := log2Fuel 4096 m

end Sys2Proof.Machine

namespace Sys2Proof

open Sys2Proof.Machine

/-- Dyadic arithmetic: sum. -/
def Dyadic.add (a b : Dyadic) : Dyadic :=
  if a.e ≤ b.e then ⟨a.m + b.m * 2 ^ (b.e - a.e).toNat, a.e⟩ else ⟨a.m * 2 ^ (a.e - b.e).toNat + b.m, b.e⟩

/-- Dyadic arithmetic: negation, product, scaling by a power of two. -/
def Dyadic.neg (a : Dyadic) : Dyadic := ⟨-a.m, a.e⟩
def Dyadic.mul (a b : Dyadic) : Dyadic := ⟨a.m * b.m, a.e + b.e⟩
def Dyadic.shift (a : Dyadic) (k : Int) : Dyadic := ⟨a.m, a.e + k⟩

/-- `a < b` of exact values. -/
def Dyadic.lt (a b : Dyadic) : Bool := decide ((a.add b.neg).m < 0)

/-- `⌊a / 2^u⌋` as an integer: truncation toward minus infinity (R57, R79). -/
def Dyadic.floorAt (a : Dyadic) (u : Int) : Int :=
  if u ≤ a.e then a.m * 2 ^ (a.e - u).toNat else a.m / (2 ^ (u - a.e).toNat : Int)

/-- `⌊log2 |a|⌋` of a nonzero value. -/
def Dyadic.log2 (a : Dyadic) : Int := (log2n a.m.natAbs : Int) + a.e

end Sys2Proof

namespace Sys2Proof.Machine

open Sys2Proof

/-- A magnitude to be rounded: `m × 2^e`, or, with `sticky`, some value strictly between that and
`(m + 1) × 2^e`. -/
structure Exact where
  neg    : Bool
  m      : Nat
  e      : Int
  sticky : Bool
  deriving DecidableEq, Repr

/-- A dyadic as a value to be rounded. -/
def exactOf (d : Dyadic) : Exact := ⟨decide (d.m < 0), d.m.natAbs, d.e, false⟩

/-- How a conversion rounds (R83): to nearest even, or stochastically with a generator word. -/
inductive Rounding where
  | nearest
  | stochastic (r : W32)
  deriving DecidableEq, Repr

/-- Sticky arithmetic flags in the order of VC_STATUS (R182, R209). -/
structure FpFlags where
  iov : Bool
  nv  : Bool
  dz  : Bool
  of  : Bool
  uf  : Bool
  nx  : Bool
  deriving DecidableEq, Repr

/-- No flag. -/
def FpFlags.none : FpFlags := ⟨false, false, false, false, false, false⟩

/-- The flags raised by either of two operations. -/
def FpFlags.or (a b : FpFlags) : FpFlags :=
  ⟨a.iov || b.iov, a.nv || b.nv, a.dz || b.dz, a.of || b.of, a.uf || b.uf, a.nx || b.nx⟩

/-- The six flags as VC_STATUS [5:0]. -/
def FpFlags.word (f : FpFlags) : BitVec 6 :=
  BitVec.ofNat 6 (32 * b2n f.iov + 16 * b2n f.nv + 8 * b2n f.dz + 4 * b2n f.of + 2 * b2n f.uf + b2n f.nx)

/-- A magnitude rounded at the unit `2^u`: the rounded count of units and whether anything was lost (R83, R84). -/
def roundUnits (x : Exact) (u : Int) (mode : Rounding) : Nat × Bool :=
  -- one bit below the value carries the sticky part
  let m := 2 * x.m + b2n x.sticky
  let e := x.e - 1
  if u ≤ e then (m * 2 ^ (e - u).toNat, false)
  else
    let k := (u - e).toNat
    let q := m / 2 ^ k
    let r := m % 2 ^ k
    let up :=
      match mode with
      | .nearest => decide (2 * r > 2 ^ k) || (decide (2 * r = 2 ^ k) && q % 2 == 1)
      | .stochastic w => decide (r * 2 ^ 32 / 2 ^ k + w.toNat ≥ 2 ^ 32)
    (if up then q + 1 else q, decide (r ≠ 0))

/-- What a conversion does with a result beyond the largest finite value (R85): infinity, or the largest finite. -/
inductive OverflowRule where
  | toInf | toMax
  deriving DecidableEq, Repr

/-- The overflow rule of a format (R85). -/
def overflowRule (f : FpFmt) : OverflowRule :=
  if f = fp8e4m3 ∨ f = fp8e5m2 ∨ f.specials = .none then .toMax else .toInf

/-- A value rounded into a format, with the flags it raises; a zero result is +0 (R49, R84, R85, R182). -/
def fpRoundWith (f : FpFmt) (rule : OverflowRule) (mode : Rounding) (x : Exact) : Nat × FpFlags :=
  if x.m = 0 ∧ x.sticky = false then (0, .none)
  else
    let top : Int := (log2n (2 * x.m + b2n x.sticky) : Int) + (x.e - 1)
    let qmin := fpMinExp f
    let u := max (top - f.mbits) qmin
    let (q, lost) := roundUnits x u mode
    let mag := (u - qmin).toNat * 2 ^ f.mbits + q
    let sign := if x.neg then 2 ^ (f.ebits + f.mbits) else 0
    if mag > fpMax f then
      (match rule with
        | .toInf => (sign + fpInf f, { FpFlags.none with of := true, nx := true })
        | .toMax => (sign + fpMax f, { FpFlags.none with of := true, nx := true }))
    else
      -- underflow is detected after rounding: the value rounded with no lower bound on its exponent
      let (q', _) := roundUnits x (top - f.mbits) mode
      let tiny := decide (top + 1 < 1 - f.bias) || (decide (top + 1 = 1 - f.bias) && decide (q' < 2 ^ (f.mbits + 1)))
      let fl : FpFlags := { FpFlags.none with uf := tiny && lost, nx := lost }
      (if mag = 0 then 0 else sign + mag, fl)

/-- A value rounded into a format under its own overflow rule. -/
def fpRound (f : FpFmt) (mode : Rounding) (x : Exact) : Nat × FpFlags := fpRoundWith f (overflowRule f) mode x

/-- The 32-bit canonical NaN. -/
def nan32 : W32 := 0x7FC0_0000

/-- An FP32 value rounded to nearest even. -/
def f32Round (x : Exact) : W32 × FpFlags := let (w, fl) := fpRound fp32 .nearest x; (BitVec.ofNat 32 w, fl)

/-- The value of FP32 bits. -/
def f32Val (w : W32) : FpVal := fpDecode fp32 w.toNat

/-- FP32 infinity of a sign. -/
def f32Inf (neg : Bool) : W32 := if neg then 0xFF80_0000 else 0x7F80_0000

/-- True where FP32 bits are a finite value. -/
def f32Finite (w : W32) : Bool := match f32Val w with | .fin _ => true | _ => false

/-- NaN with NV. -/
def f32Invalid : W32 × FpFlags := (nan32, { FpFlags.none with nv := true })

/-- NV for a signaling NaN among the operands. -/
def snanFlags (l : List W32) : FpFlags :=
  { FpFlags.none with nv := l.any (fun w => fpSignaling fp32 w.toNat) }

/-- a × b + c with one rounding (R176, R179). Infinity times zero raises NV also where the addend is a quiet NaN, which
IEEE 754 leaves to the implementation (R182, DESIGN CHOICE 92). -/
def f32Fma (a b c : W32) : W32 × FpFlags :=
  match f32Val a, f32Val b, f32Val c with
  | .fin x, .fin y, .fin z => f32Round (exactOf ((x.mul y).add z))
  | .fin _, .fin _, .inf n => (f32Inf n, .none)
  | .nan, _, _ => (nan32, snanFlags [a, b, c])
  | _, .nan, _ => (nan32, snanFlags [a, b, c])
  | .inf n, .fin y, z => infTimes n y z
  | .fin x, .inf n, z => infTimes n x z
  | .inf n, .inf n', z => addInf (n != n') z
  | .fin _, .fin _, .nan => (nan32, snanFlags [a, b, c])
where
  addInf (n : Bool) : FpVal → W32 × FpFlags
    | .nan => (nan32, snanFlags [a, b, c])
    | .inf n' => if n = n' then (f32Inf n, .none) else f32Invalid
    | .fin _ => (f32Inf n, .none)
  infTimes (n : Bool) (y : Dyadic) (z : FpVal) : W32 × FpFlags :=
    if y.m = 0 then f32Invalid else addInf (n != decide (y.m < 0)) z

/-- FP32 one. -/
def f32One : W32 := 0x3F80_0000

/-- Addition: 1 × a + b (R179). -/
def f32Add (a b : W32) : W32 × FpFlags := f32Fma f32One a b

/-- The sign of an FP32 word turned. -/
def f32Neg (a : W32) : W32 := a ^^^ 0x8000_0000

/-- Subtraction (R179). -/
def f32Sub (a b : W32) : W32 × FpFlags := f32Fma f32One a (f32Neg b)

/-- Multiplication: a × b + 0 (R179). -/
def f32Mul (a b : W32) : W32 × FpFlags := f32Fma a b 0

/-- An order on non-NaN values: true where a < b. -/
def fpLt : FpVal → FpVal → Bool
  | .inf true, .inf true => false
  | .inf true, .fin _ => true
  | .inf true, .inf false => true
  | .fin _, .inf false => true
  | .fin a, .fin b => a.lt b
  | _, _ => false

/-- A zero of either sign is written as +0 (R49). -/
def f32Plus0 (w : W32) : W32 := if w = 0x8000_0000 then 0 else w

/-- MIN and MAX (R180). -/
def f32Min (a b : W32) : W32 × FpFlags :=
  match f32Val a, f32Val b with
  | .nan, _ => (nan32, snanFlags [a, b])
  | _, .nan => (nan32, snanFlags [a, b])
  | x, y => (f32Plus0 (if fpLt y x then b else a), .none)

def f32Max (a b : W32) : W32 × FpFlags :=
  match f32Val a, f32Val b with
  | .nan, _ => (nan32, snanFlags [a, b])
  | _, .nan => (nan32, snanFlags [a, b])
  | x, y => (f32Plus0 (if fpLt x y then b else a), .none)

/-- |a| with the canonical NaN for NaN. -/
def f32Abs (a : W32) : W32 := match f32Val a with | .nan => nan32 | _ => a &&& 0x7FFF_FFFF

/-- A comparison of FP32 values (R176); an ordered comparison with a NaN is false and raises NV. -/
def f32Cmp (c : CmpFn) (a b : W32) : Bool × FpFlags :=
  let x := f32Val a
  let y := f32Val b
  if x = .nan ∨ y = .nan then
    match c with
    | .ne => (true, snanFlags [a, b])
    | .eq => (false, snanFlags [a, b])
    | _ => (false, { FpFlags.none with nv := true })
  else
    match c with
    | .eq => (!fpLt x y && !fpLt y x, .none)
    | .ne => (fpLt x y || fpLt y x, .none)
    | .lt => (fpLt x y, .none)
    | .le => (!fpLt y x, .none)
    | .gt => (fpLt y x, .none)
    | .ge => (!fpLt x y, .none)

/-- The magnitude quotient of two nonzero values to more bits than FP32 holds. -/
def divExact (x y : Dyadic) : Exact :=
  let a := x.m.natAbs * 2 ^ 96
  let b := y.m.natAbs
  ⟨decide (x.m < 0) != decide (y.m < 0), a / b, x.e - y.e - 96, decide (a % b ≠ 0)⟩

/-- DIV (R181). -/
def f32Div (a b : W32) : W32 × FpFlags :=
  match f32Val a, f32Val b with
  | .nan, _ => (nan32, snanFlags [a, b])
  | _, .nan => (nan32, snanFlags [a, b])
  | .inf _, .inf _ => f32Invalid
  | .inf n, .fin y => (f32Inf (n != decide (y.m < 0)), .none)
  | .fin _, .inf _ => (0, .none)
  | .fin x, .fin y =>
    if y.m = 0 then
      (if x.m = 0 then f32Invalid else (f32Inf (decide (x.m < 0)), { FpFlags.none with dz := true }))
    else f32Round (divExact x y)

/-- RCP (R181). -/
def f32Rcp (a : W32) : W32 × FpFlags := f32Div f32One a

/-- The integer square root by bits: the largest `r` below `2^n + r0` with `r * r ≤ v`. -/
def isqrtFrom (v : Nat) : Nat → Nat → Nat
  | 0, r => r
  | n + 1, r => isqrtFrom v n (if (r + 2 ^ n) * (r + 2 ^ n) ≤ v then r + 2 ^ n else r)

/-- `⌊√v⌋`. -/
def isqrt (v : Nat) : Nat := isqrtFrom v (log2n v / 2 + 1) 0

/-- A positive value with an even exponent and `m × 2^96` as its integer. -/
def sqrtParts (x : Dyadic) : Nat × Int :=
  if x.e % 2 = 0 then (x.m.natAbs * 2 ^ 96, x.e - 96) else (x.m.natAbs * 2 ^ 97, x.e - 97)

/-- SQRT (R181). -/
def f32Sqrt (a : W32) : W32 × FpFlags :=
  match f32Val a with
  | .nan => (nan32, snanFlags [a])
  | .inf true => f32Invalid
  | .inf false => (f32Inf false, .none)
  | .fin x =>
    if x.m = 0 then (0, .none) else if x.m < 0 then f32Invalid
    else
      let (v, e) := sqrtParts x
      let r := isqrt v
      f32Round ⟨false, r, e / 2, decide (r * r ≠ v)⟩

/-- RSQRT (R181): the floor of `2^160 / √v`. -/
def f32Rsqrt (a : W32) : W32 × FpFlags :=
  match f32Val a with
  | .nan => (nan32, snanFlags [a])
  | .inf true => f32Invalid
  | .inf false => (0, .none)
  | .fin x =>
    if x.m = 0 then (f32Inf false, { FpFlags.none with dz := true }) else if x.m < 0 then f32Invalid
    else
      let (v, e) := sqrtParts x
      let r := isqrt (2 ^ 320 / v)
      f32Round ⟨false, r, -(e / 2) - 160, decide (r * r * v ≠ 2 ^ 320)⟩

/-- The working precision of the transcendental functions, in bits after the point. -/
def wp : Nat := 256

/-- `2 atanh (p / q)` at the working precision: the sum of `2 z^(2i+1) / (2i+1)`. -/
def atanhSeries : Nat → Nat → Nat → Nat → Nat
  | 0, _, _, _ => 0
  | fuel + 1, i, term, z2 => 2 * term / (2 * i + 1) + atanhSeries fuel (i + 1) (term * z2 / 2 ^ wp) z2

/-- `ln (a / b)` for `b ≤ a`, at the working precision. -/
def lnRatio (a b : Nat) : Nat :=
  let z := (a - b) * 2 ^ wp / (a + b)
  atanhSeries 90 0 z (z * z / 2 ^ wp)

/-- ln 2 at the working precision. -/
def ln2 : Nat := lnRatio 2 1

/-- `e^y` at the working precision for `0 ≤ y < 1`: the sum of `y^i / i!`. -/
def expSeries : Nat → Nat → Nat → Nat → Nat
  | 0, _, _, _ => 0
  | fuel + 1, i, term, y => term + expSeries fuel (i + 1) (term * y / 2 ^ wp / (i + 1)) y

/-- `2^f` at the working precision for a fraction `f` at the working precision. -/
def exp2Frac (f : Nat) : Nat := expSeries 80 0 (2 ^ wp) (f * ln2 / 2 ^ wp)

/-- EXP2 (R181). A value of 2^x for a fraction x is irrational, so the sticky bit is set. -/
def f32Exp2 (a : W32) : W32 × FpFlags :=
  match f32Val a with
  | .nan => (nan32, snanFlags [a])
  | .inf true => (0, .none)
  | .inf false => (f32Inf false, .none)
  | .fin x =>
    if x.lt ⟨-1, 10⟩ then f32Round ⟨false, 1, -1024, true⟩
    else if (Dyadic.mk 1 10).lt x then f32Round ⟨false, 1, 1024, true⟩
    else
      let n := x.floorAt 0
      let f := (x.add ⟨-n, 0⟩)
      if f.m = 0 then f32Round ⟨false, 1, n, false⟩
      else f32Round ⟨false, exp2Frac (f.floorAt (-wp)).toNat, n - wp, true⟩

/-- LOG2 (R181). -/
def f32Log2 (a : W32) : W32 × FpFlags :=
  match f32Val a with
  | .nan => (nan32, snanFlags [a])
  | .inf true => f32Invalid
  | .inf false => (f32Inf false, .none)
  | .fin x =>
    if x.m = 0 then (f32Inf true, { FpFlags.none with dz := true }) else if x.m < 0 then f32Invalid
    else
      let l := log2n x.m.natAbs
      let k : Int := (l : Int) + x.e
      if x.m.natAbs = 2 ^ l then f32Round (exactOf ⟨k, 0⟩)
      else
        let v : Int := k * 2 ^ wp + (lnRatio x.m.natAbs (2 ^ l) * 2 ^ wp / ln2 : Nat)
        if v < 0 then f32Round ⟨true, v.natAbs - 1, -wp, true⟩ else f32Round ⟨false, v.toNat, -wp, true⟩

/-- TANH (R181). Below 2^-13 the cube term is under a quarter of the last place; above 20 the result is within
2^-57 of 1. -/
def f32Tanh (a : W32) : W32 × FpFlags :=
  match f32Val a with
  | .nan => (nan32, snanFlags [a])
  | .inf n => (if n then 0xBF80_0000 else f32One, .none)
  | .fin x =>
    if x.m = 0 then (0, .none)
    else
      let neg := decide (x.m < 0)
      let mag : Dyadic := ⟨x.m.natAbs, x.e⟩
      if mag.lt ⟨1, -13⟩ then f32Round ⟨neg, x.m.natAbs * 2 ^ 200 - 1, x.e - 200, true⟩
      else if (Dyadic.mk 20 0).lt mag then f32Round ⟨neg, 2 ^ 200 - 1, -200, true⟩
      else
        let y := ((mag.shift 1).floorAt (-wp)).toNat
        let n := y / ln2
        -- e^-y = 2^-n × e^-r, formed as the reciprocal of e^r
        let er := expSeries 80 0 (2 ^ wp) (y % ln2)
        let ey := 2 ^ (2 * wp) / (er * 2 ^ n)
        f32Round ⟨neg, (2 ^ wp - ey) * 2 ^ wp / (2 ^ wp + ey), -wp, true⟩

/-- A special function of one or two operands (R181). -/
def f32Spec (fn : SpecFn) (a b : W32) : W32 × FpFlags :=
  match fn with
  | .rcp => f32Rcp a
  | .div => f32Div a b
  | .sqrt => f32Sqrt a
  | .rsqrt => f32Rsqrt a
  | .exp2 => f32Exp2 a
  | .log2 => f32Log2 a
  | .tanh => f32Tanh a

/-- The exact sum of finite values; none where some value is NaN, or infinities of both signs meet; an infinity
where they agree (R189 SUMX, R379 dot). -/
def exactSum (l : List FpVal) : FpVal :=
  l.foldl (fun acc v =>
    match acc, v with
    | .nan, _ => .nan
    | _, .nan => .nan
    | .inf n, .inf n' => if n = n' then .inf n else .nan
    | .inf n, .fin _ => .inf n
    | .fin _, .inf n => .inf n
    | .fin a, .fin b => .fin (a.add b)) (.fin ⟨0, 0⟩)

/-- An exact value rounded once to FP32. -/
def f32OfVal (v : FpVal) : W32 × FpFlags :=
  match v with
  | .nan => (nan32, .none)
  | .inf n => (f32Inf n, .none)
  | .fin d => f32Round (exactOf d)

/-- The exact product of two values (R69). -/
def fpMul : FpVal → FpVal → FpVal
  | .nan, _ => .nan
  | _, .nan => .nan
  | .inf n, .inf n' => .inf (n != n')
  | .inf n, .fin y => if y.m = 0 then .nan else .inf (n != decide (y.m < 0))
  | .fin x, .inf n => if x.m = 0 then .nan else .inf (n != decide (x.m < 0))
  | .fin x, .fin y => .fin (x.mul y)

/-- dot(u, v): the exact sum of the exact products, rounded once (R379). -/
def f32Dot (u v : List W32) : W32 := (f32OfVal (exactSum (List.zipWith (fun a b => fpMul (f32Val a) (f32Val b)) u v))).1

/-- A value converted to a non-MX format under R85; the format's NaN for a NaN, and for an infinity of FP8-E4M3. -/
def fpConvert (f : FpFmt) (mode : Rounding) (v : FpVal) : Nat × FpFlags :=
  match v with
  | .nan => (fpNaN f, .none)
  | .inf n =>
    match f.specials with
    | .ieee => ((if n then 2 ^ (f.ebits + f.mbits) else 0) + fpInf f, .none)
    | _ => (fpNaN f, .none)
  | .fin d => fpRound f mode (exactOf d)

/-! ### Operand formats (R46, R53, R112) -/

/-- The element format of a format code of R112, 0xA FP32 included; none where the code is reserved, fixed-64 or
raw. -/
def elemFmt (code : Nat) : Option FpFmt :=
  match code with
  | 0x0 => some bf16
  | 0x1 => some fp16
  | 0x2 => some fp8e4m3
  | 0x3 => some fp8e5m2
  | 0x4 => some fp8e4m3
  | 0x5 => some fp8e5m2
  | 0x6 => some fp6e2m3
  | 0x7 => some fp6e3m2
  | 0x8 => some fp4e2m1
  | 0xA => some fp32
  | _ => none

/-- True for the MX formats. -/
def isMx (code : Nat) : Bool := decide (4 ≤ code ∧ code ≤ 8)

/-- ρ of a format's class (R55, R89): 1, 2 or 4; 0 where the code is no operand format. -/
def rho (code : Nat) : Nat :=
  match code with
  | 0x0 => 1
  | 0x1 => 1
  | 0x2 => 2
  | 0x3 => 2
  | 0x4 => 2
  | 0x5 => 2
  | 0x6 => 4
  | 0x7 => 4
  | 0x8 => 4
  | _ => 0

/-- Bits of one element of a format code. -/
def elemBits (code : Nat) : Nat := match elemFmt code with | some f => fpWidth f | none => 0

/-- Bytes of one 64 x 64 operand block (R53, R90). -/
def blockBytes (code : Nat) : Nat := 4096 * elemBits code / 8 + (if isMx code then 128 else 0)

/-- Element `i` of packed elements of `w` bits (R52). -/
def packedElem (w : Nat) (l : List Byte) (i : Nat) : Nat :=
  let lo := i * w
  fieldN l (lo / 8) 4 / 2 ^ (lo % 8) % 2 ^ w

/-- Elements of `w` bits packed into bytes, lowest first (R52). -/
def packElems (w : Nat) (l : List Nat) : List Byte :=
  leBytes (l.length * w / 8) ((l.zipIdx.map (fun (x, i) => x % 2 ^ w * 2 ^ (w * i))).sum)

/-- A value with the scale of its MX block applied (R50): a scale of 0xFF makes it NaN. -/
def mxScale (x : Nat) (v : FpVal) : FpVal :=
  if x = 0xFF then .nan
  else match v with
    | .fin d => .fin (d.shift ((x : Int) - 127))
    | v => v

/-- The value of element (row, col) of a 64 x 64 operand block of a format (R52, R53, R88). -/
def blockVal (code : Nat) (blk : List Byte) (row col : Nat) : FpVal :=
  match elemFmt code with
  | none => .nan
  | some f =>
    let v := fpDecode f (packedElem (fpWidth f) blk (64 * row + col))
    if isMx code then mxScale (blk.getD (4096 * fpWidth f / 8 + 2 * row + col / 32) 0).toNat v else v

/-- The exponent tag of a block (R62, R221): the largest ⌊log2 |x|⌋ of its finite nonzero elements, 0x0FF where there
is none. -/
def blockTag (code : Nat) (blk : List Byte) : BitVec 9 :=
  let tags := (List.range 4096).filterMap (fun i =>
    match blockVal code blk (i / 64) (i % 64) with
    | .fin d => if d.m = 0 then none else some d.log2
    | _ => none)
  match tags with
  | [] => 0x0FF
  | t :: ts => BitVec.ofInt 9 (ts.foldl max t)

/-! ### MX conversion (R54) -/

/-- The exponent of the top binade of an MX element type (R54). -/
def mxTop (code : Nat) : Int :=
  match code with
  | 0x4 => 8
  | 0x5 => 15
  | 0x6 => 2
  | 0x7 => 4
  | _ => 2

/-- One block of 32 values converted to an MX format: its scale byte, and its elements with their flags. A block with a
NaN or an infinity gets scale 0xFF; its elements are not stated and are the free values given. -/
def mxBlock (code : Nat) (vals : List FpVal) (modes : List Rounding) (free : List Nat) : Nat × List (Nat × FpFlags) :=
  if vals.any (fun v => match v with | .fin _ => false | _ => true) then (0xFF, free.map (fun e => (e, .none)))
  else
    let ds := vals.map (fun v => match v with | .fin d => d | _ => ⟨0, 0⟩)
    match ds.filter (fun d => d.m ≠ 0) with
    | [] => (0, ds.map (fun _ => (0, .none)))
    | d :: rest =>
      let amax := (rest.map Dyadic.log2).foldl max d.log2
      let x := max 1 (min 254 (amax - mxTop code + 127))
      let f := (elemFmt code).getD fp4e2m1
      (x.toNat, List.zipWith (fun d m => fpRoundWith f .toMax m (exactOf (d.shift (127 - x)))) ds modes)

/-! ### Exact-128 (R78 to R82) -/

/-- The addend of an FP32 word to an area of scale T, or none where it sets the out-of-range flag (R79, R80). -/
def acc128Addend (t : Int) (w : W32) : Option Int :=
  match f32Val w with
  | .fin d => if (Dyadic.mk d.m.natAbs d.e).lt ⟨1, t⟩ then some (d.floorAt (t - 95)) else none
  | _ => none

/-- An exact-128 value as FP32 (R82); `lam` divides by the loss scale first (R398). -/
def acc128ToF32 (t lam : Int) (v : BitVec 128) : W32 := (f32Round (exactOf ⟨v.toInt, t - 95 - lam⟩)).1

/-! ### Philox4x32-10 (R425, R426) -/

/-- One round. -/
def philoxRound (c : W32 × W32 × W32 × W32) (k0 k1 : W32) : W32 × W32 × W32 × W32 :=
  let (c0, c1, c2, c3) := c
  let p := 0xD2511F53 * c0.toNat
  let q := 0xCD9E8D57 * c2.toNat
  (BitVec.ofNat 32 (q / 2 ^ 32) ^^^ c1 ^^^ k0, BitVec.ofNat 32 q, BitVec.ofNat 32 (p / 2 ^ 32) ^^^ c3 ^^^ k1,
    BitVec.ofNat 32 p)

/-- `n` rounds. -/
def philoxRounds : Nat → W32 × W32 × W32 × W32 → W32 → W32 → W32 × W32 × W32 × W32
  | 0, c, _, _ => c
  | n + 1, c, k0, k1 => philoxRounds n (philoxRound c k0 k1) (k0 + 0x9E3779B9) (k1 + 0xBB67AE85)

/-- The word for element `i` of tensor `t` in stream `sigma` under step field `u` (R426). -/
def philoxWord (seed : W64) (sigma t i : Nat) (u : W64) : W32 :=
  let c := philoxRounds 10
    (BitVec.ofNat 32 (i / 4), BitVec.ofNat 32 (sigma * 2 ^ 24 + t), u.extractLsb' 0 32, u.extractLsb' 32 32)
    (seed.extractLsb' 0 32) (seed.extractLsb' 32 32)
  match i % 4 with
  | 0 => c.1
  | 1 => c.2.1
  | 2 => c.2.2.1
  | _ => c.2.2.2

end Sys2Proof.Machine
end

