-- ==== Sys2Proof/Machine/WaferOps.lean ====
section
/-!
DEFINITION. The operations over the wafer that every engine shares: its tiles, fields and rims by number, faults
posted (15 R577), device addresses (00 R12, 06 R224, 09 R337), routes (07 R260, R261), packets in flight (R262 to
R264), and the updates of the sync blocks with the watches they fire (08 R293 to R301).
-/

namespace Sys2Proof.Machine

open Sys2Proof

/-! ### Parts by number -/

def tileAt (w : Wafer) (t : Nat) : Tile := mget .reset w.tiles t
def setTile (w : Wafer) (t : Nat) (x : Tile) : Wafer := { w with tiles := mput w.tiles t x }
def onTile (w : Wafer) (t : Nat) (f : Tile → Tile) : Wafer := setTile w t (f (tileAt w t))

def fieldAt (w : Wafer) (f : Nat) : Field := mget .reset w.fields f
def setField (w : Wafer) (f : Nat) (x : Field) : Wafer := { w with fields := mput w.fields f x }
def onField (w : Wafer) (f : Nat) (g : Field → Field) : Wafer := setField w f (g (fieldAt w f))

def rimAt (w : Wafer) (k : Nat) : Rim := mget .reset w.rims k
def setRim (w : Wafer) (k : Nat) (x : Rim) : Wafer := { w with rims := mput w.rims k x }
def onRim (w : Wafer) (k : Nat) (g : Rim → Rim) : Wafer := setRim w k (g (rimAt w k))

/-- The network changed. -/
def onNet (w : Wafer) (g : Net → Net) : Wafer := { w with net := g w.net }

/-- A tile's counter raised (R131). -/
def tileBump (w : Wafer) (t off n : Nat) : Wafer :=
  if n = 0 then w else onTile w t (fun x => { x with ctrs := bumpAt x.ctrs off n })

/-- A field's counter raised. -/
def fieldBump (w : Wafer) (f off n : Nat) : Wafer :=
  if n = 0 then w else onField w f (fun x => { x with ctrs := bumpAt x.ctrs off n })

/-- A rim's counter raised. -/
def rimBump (w : Wafer) (k off n : Nat) : Wafer :=
  if n = 0 then w else onRim w k (fun x => { x with ctrs := bumpAt x.ctrs off n })

/-- True where a field is powered and not on the failed list (R19, R594). -/
def fieldUp (w : Wafer) (f : Nat) : Bool := !w.off.getLsbD f && !w.repair.fields.any (fun p => p.1 == f)

/-- True where a tile is usable (R594). -/
def usable (w : Wafer) (t : Nat) : Bool := fieldUp w (t / 64) && !w.repair.retired.contains t

/-- All physical tiles. -/
def allTiles : List Nat := List.range 5376

/-- All powered, non-retired tiles (R17). -/
def liveTiles (w : Wafer) : List Nat := allTiles.filter (usable w)

/-! ### Faults -/

/-- A detection reported (R577). -/
def post (w : Wafer) (n : FaultNote) : Wafer := { w with posted := w.posted ++ [n] }

/-- A detection at a tile. -/
def postTile (w : Wafer) (t det sev code addr : Nat) (inj : Bool := false) : Wafer :=
  post w ⟨det, sev, inj, code, t / 64, t % 64, addr, (tileAt w t).cad.slot.toNat⟩

/-- A detection at a field. -/
def postField (w : Wafer) (f det sev code addr : Nat) (inj : Bool := false) : Wafer :=
  post w ⟨det, sev, inj, code, f, 0, addr, 0⟩

/-- A detection at a rim. -/
def postRim (w : Wafer) (k det sev code addr : Nat) (inj : Bool := false) : Wafer :=
  post w ⟨det, sev, inj, code, 96 + k, 0, addr, 0⟩

/-- One firing of an armed injection register at a qualifying event of one of the points `lo` to `hi`: the point that
fires and the register after it (R599, R600). A register of the reserved MODE 3 never fires. -/
def fiFire (r : FiReg) (lo hi : Nat) : Option (Nat × FiReg) :=
  if r.armed && decide (r.mode ≠ 3 ∧ lo ≤ r.point.toNat ∧ r.point.toNat ≤ hi) then
    let r' :=
      match r.mode.toNat with
      | 0 => { r with armed := false }
      | 1 => { r with count := if r.count = 0 then 0 else r.count - 1, armed := decide (r.count.toNat > 1) }
      | _ => r
    some (r.point.toNat, r')
  else none

/-- The injection of a tile fires for a point between `lo` and `hi`, counted in CNT_FI_FIRED (R608). -/
def tileInject (w : Wafer) (t lo hi : Nat) : Option Nat × Wafer :=
  match fiFire (tileAt w t).fi lo hi with
  | none => (none, w)
  | some (p, r) => (some p, onTile w t (fun x => { x with fi := r, ctrs := bumpAt x.ctrs 0x24128 1 }))

/-- The same at a field. -/
def fieldInject (w : Wafer) (f lo hi : Nat) : Option Nat × Wafer :=
  match fiFire (fieldAt w f).fi lo hi with
  | none => (none, w)
  | some (p, r) => (some p, onField w f (fun x => { x with fi := r, ctrs := bumpAt x.ctrs 0x9100 1 }))

/-- The same at a rim. -/
def rimInject (w : Wafer) (k lo hi : Nat) : Option Nat × Wafer :=
  match fiFire (rimAt w k).fi lo hi with
  | none => (none, w)
  | some (p, r) => (some p, onRim w k (fun x => { x with fi := r, ctrs := bumpAt x.ctrs 0x32118 1 }))

/-- The same for the points of FI_MOD_CTL, counted at rim0. -/
def modInject (w : Wafer) (lo hi : Nat) : Option Nat × Wafer :=
  match fiFire w.fiMod lo hi with
  | none => (none, w)
  | some (p, r) => (some p, rimBump { w with fiMod := r } 0 0x32118 1)

/-! ### Device addresses (R12 to R14, R224, R225, R337, R343) -/

/-- What a device address names. -/
inductive Place where
  | scratch (t off : Nat)
  | bds (t off : Nat)
  | hbm (k off : Nat)
  | acc (kind k area off : Nat)
  | comp (off : Nat)
  | unassigned
  | fault
  deriving DecidableEq, Repr

/-- The physical tile at a logical position under the repair map in force (R27, R598). -/
def logical (w : Wafer) (x y : Nat) : Option Nat :=
  if x < 80 ∧ y < w.repair.rows then mget none w.repair.map (80 * y + x) else none

/-- The first byte beyond a tile's scratchpad, 768 KiB (R213). -/
def spBytes : Nat := 786432

/-- The first byte beyond a slice, 256 MiB (R227). -/
def bdsBytes : Nat := 268435456

/-- A device address resolved for the tile `self` that issues it. -/
def place (w : Wafer) (self : Nat) (a : Nat) : Place :=
  let off := bits a 27 0
  let tile (mk : Nat → Nat → Place) (limit : Nat) : Place :=
    if bits a 55 41 ≠ 0 ∨ limit ≤ off then .fault
    else if bits a 40 34 = 127 then mk self off
    else match logical w (bits a 40 34) (bits a 33 28) with
      | some t => mk t off
      | none => .fault
  match bits a 63 56 with
  | 1 => tile .scratch spBytes
  | 2 => tile .bds bdsBytes
  | 3 =>
    if bits a 55 44 ≠ 0 then .fault
    else
      let kind := bits a 43 40
      if kind = 0 then .hbm (bits a 39 36) (bits a 35 0)
      else if 8 ≤ kind ∧ kind ≤ 10 then .acc kind (bits a 39 36) (bits a 35 28) off
      else .fault
  | 4 => if bits a 55 41 ≠ 0 then .fault else .comp (bits a 40 0)
  | _ => .unassigned

/-- True where a window covers `[off, off + n)` (R341). -/
def Window.covers (x : Window) (off n : Nat) : Bool := decide (x.limit ≠ 0 ∧ x.base ≤ off ∧ off + n ≤ x.limit)

/-- The first byte of a rim's reserved area (R736). -/
def rimReserved : Nat := 0xFFFC00000

/-- The first byte of the firmware's region of companion memory (R343). -/
def fwRegion : Nat := 0x1F000000000

/-- True where all 2 MiB blocks that `[off, off + n)` touches satisfy `p`. -/
def blocksAll (off n : Nat) (p : Nat → Bool) : Bool :=
  (List.range ((off + n - 1) / 2097152 + 1 - off / 2097152)).all (fun i => p (off / 2097152 + i))

/-- A block's state in a stack. -/
def Rim.block (r : Rim) (b : Nat) : BlockState := mget .zero r.blocks b

/-- A tile's write to `[off, off + n)` of a stack lands: wholly within one window, in JOB or ZERO blocks (R341,
R736). -/
def hbmWritable (r : Rim) (off n : Nat) : Bool :=
  decide (off + n ≤ rimReserved) && r.windows.any (fun p => p.2.covers off n) &&
    blocksAll off n (fun b => r.block b != .retained)

/-- A tile's write to companion memory lands (R343). -/
def compWritable (c : Comp) (off n : Nat) : Bool :=
  decide (off + n ≤ fwRegion) && c.windows.any (fun p => p.2.covers off n) &&
    blocksAll off n (fun b => mget .zero c.blocks b != .retained)

/-! ### The field map and routes (R24, R26, R260, R261) -/

/-- First column and number of fields of each row of the field map. -/
def fieldRow (r : Nat) : Nat × Nat :=
  match r with
  | 0 => (3, 4)
  | 1 => (1, 8)
  | 8 => (1, 8)
  | 9 => (3, 4)
  | _ => (0, 10)

/-- The number of the first field of a row. -/
def rowBase : Nat → Nat
  | 0 => 0
  | r + 1 => rowBase r + (fieldRow r).2

/-- The field at a place of the map. -/
def fieldNo (r c : Nat) : Option Nat :=
  let (c0, n) := fieldRow r
  if r < 10 ∧ c0 ≤ c ∧ c < c0 + n then some (rowBase r + (c - c0)) else none

/-- Row and column of a field. -/
def fieldPos (f : Nat) : Nat × Nat :=
  match (List.range 10).find? (fun r => decide (rowBase r ≤ f ∧ f < rowBase r + (fieldRow r).2)) with
  | some r => (r, (fieldRow r).1 + (f - rowBase r))
  | none => (0, 0)

/-- Fault-free express hops between two fields (R260). -/
def hops (f g : Nat) : Nat :=
  let (a, b) := fieldPos f
  let (c, d) := fieldPos g
  (a - c) + (c - a) + ((b - d) + (d - b))

/-- The places from `a` to `b` inclusive, in order. -/
def walk (a b : Nat) : List Nat :=
  if a ≤ b then (List.range (b + 1 - a)).map (fun i => a + i) else (List.range (a + 1 - b)).map (fun i => a - i)

/-- The cells of a route: along the row first where `rowFirst` holds. -/
def routeCells (rowFirst : Bool) (p q : Nat × Nat) : List (Nat × Nat) :=
  if rowFirst then (walk p.2 q.2).map (fun c => (p.1, c)) ++ (walk p.1 q.1).tail.map (fun r => (r, q.2))
  else (walk p.1 q.1).map (fun r => (r, p.2)) ++ (walk p.2 q.2).tail.map (fun c => (q.1, c))

/-- The hubs crossed between two fields on the fault-free set (R260). -/
def routeHubs (f g : Nat) : List Nat :=
  let p := fieldPos f
  let q := fieldPos g
  (routeCells (fieldNo p.1 q.2).isSome p q).filterMap (fun c => fieldNo c.1 c.2)

/-- The three cells that replace a dark cell `x` between `a` and `b` on a straight run (R282): west to east by the
north, north to south by the west, east to west by the south, south to north by the east. Row 0 is the northern one. -/
def around (a x b : Nat × Nat) : List (Nat × Nat) :=
  if a.1 = b.1 then
    (if a.2 < b.2 then [(x.1 - 1, a.2), (x.1 - 1, x.2), (x.1 - 1, b.2)] else [(x.1 + 1, a.2), (x.1 + 1, x.2), (x.1 + 1, b.2)])
  else
    (if a.1 < b.1 then [(a.1, x.2 - 1), (x.1, x.2 - 1), (b.1, x.2 - 1)] else [(a.1, x.2 + 1), (x.1, x.2 + 1), (b.1, x.2 + 1)])

/-- A list of cells as fields; none where a cell has no field. -/
def cellFields : List (Nat × Nat) → Option (List Nat)
  | [] => some []
  | c :: l => match fieldNo c.1 c.2, cellFields l with
    | some f, some r => some (f :: r)
    | _, _ => none

/-- The route with one dark field `n` (R282, R283): unchanged where it does not cross `n`, around `n` where it passes
straight through, by the other corner where it turns there. None where R283 leaves the route to the set. -/
def routeAround (n f g : Nat) : Option (List Nat) :=
  let p := fieldPos f
  let q := fieldPos g
  let x := fieldPos n
  let rf := (fieldNo p.1 q.2).isSome
  let l := routeCells rf p q
  if !l.contains x then cellFields l
  else
    let pre := l.takeWhile (fun c => c != x)
    let suf := (l.dropWhile (fun c => c != x)).tail
    match pre.getLast?, suf.head? with
    | some a, some b =>
      if a.1 = b.1 ∨ a.2 = b.2 then
        (if x.1 = 0 ∧ a.1 = b.1 ∧ a.2 < b.2 then none
          else if x.2 = 0 ∧ a.2 = b.2 ∧ a.1 < b.1 then none
          else cellFields (pre ++ around a x b ++ suf))
      else cellFields (routeCells (!rf) p q)
    | _, _ => none

/-- The fields whose outer edge a rim joins (R26). -/
def rimFields (k : Nat) : List Nat :=
  match k with
  | 0 => [1, 2] | 1 => [3] | 2 => [10, 11] | 3 => [21, 31] | 4 => [41, 51] | 5 => [61, 71] | 6 => [78, 79]
  | 7 => [83] | 8 => [81, 82] | 9 => [80] | 10 => [72, 73] | 11 => [52, 62] | 12 => [32, 42] | 13 => [12, 22]
  | 14 => [4, 5] | 15 => [0] | _ => []

/-- The fields by which a rim is reached: those it is listed with that are not dark, and, where there is none, those of
the two rims beside it, over the rim ring (R284). -/
def rimDoors (dark : BitVec 84) (k : Nat) : List Nat :=
  match (rimFields k).filter (fun f => !dark.getLsbD f) with
  | [] => (rimFields ((k + 15) % 16) ++ rimFields ((k + 1) % 16)).filter (fun f => !dark.getLsbD f)
  | l => l

/-- True where a rim is reached over the rim ring (R284). -/
def overRing (dark : BitVec 84) (k : Nat) : Bool := (rimFields k).all (fun f => dark.getLsbD f)

/-- The field nearest to `f` among some, the lower number on ties. -/
def nearest (f : Nat) (l : List Nat) : Nat :=
  match l with
  | [] => 0
  | a :: l => l.foldl (fun a b => if hops f b < hops f a ∨ (hops f b = hops f a ∧ b < a) then b else a) a

/-- The field through which a packet between field `f` and a rim passes (R261, R284); with dark fields a rim of two fields
uses the other one, and over the ring the nearer of the neighbours' fields is taken (DEDUCED 94). -/
def rimEntryIn (dark : BitVec 84) (f k : Nat) : Nat := nearest f (rimDoors dark k)

/-- The same on the fault-free set. -/
def rimEntry (f k : Nat) : Nat := rimEntryIn 0 f k

/-- The rim that carries region 0x04 traffic of a tile (R261). -/
def compRim (t : Nat) : Nat := if (fieldPos (t / 64)).1 < 5 then 0 else 8

/-- The field at which an end of a route meets the hubs, given the other end's field. -/
def endField (w : Wafer) (e : Endpoint) (other : Nat) : Nat :=
  match e with
  | .tile t => t / 64
  | .unit f => f
  | .fru f => f
  | .rim k => rimEntryIn w.net.dark other k
  | .comp => rimEntryIn w.net.dark other 0

/-- The fields beside a field that are not dark, over its express bundles (R257). -/
def liveNeighbours (dark : BitVec 84) (f : Nat) : List Nat :=
  let (r, c) := fieldPos f
  ([(r, c + 1), (r + 1, c), (r - 1, c), (r, c - 1)].filterMap (fun p => fieldNo p.1 p.2)).filter
    (fun g => decide (hops f g = 1) && !dark.getLsbD g)

/-- Breadth-first search among the fields that are not dark: the routes found, each with its last field first. -/
def bfs (dark : BitVec 84) : Nat → List (List Nat) → List Nat → List (List Nat)
  | 0, _, _ => []
  | fuel + 1, front, seen =>
    let step := front.foldl (fun (acc : List (List Nat) × List Nat) p =>
      (liveNeighbours dark (p.headD 0)).foldl (fun acc g =>
        if acc.2.contains g then acc else (acc.1 ++ [g :: p], acc.2 ++ [g])) acc) ([], seen)
    front ++ (match step.1 with
      | [] => []
      | next => bfs dark fuel next step.2)

/-- A shortest route from `f` to `g` among the fields that are not dark. -/
def shortest (dark : BitVec 84) (f g : Nat) : Option (List Nat) :=
  ((bfs dark 84 [[f]] [f]).find? (fun p => p.headD 84 == g)).map List.reverse

/-- True where a list of hubs is a route from `f` to `g` of at most `n` express hops that avoids the dark fields (R283). -/
def routeOk (dark : BitVec 84) (f g n : Nat) (l : List Nat) : Bool :=
  decide (l.head? = some f) && decide (l.getLast? = some g) && decide (l.length ≤ n + 1) &&
    l.all (fun x => decide (x < 84) && !dark.getLsbD x) && (l.zip l.tail).all (fun p => decide (hops p.1 p.2 = 1))

/-- A route that the set in force fixes and the spec does not (R283, R286): some route that avoids the dark fields, within
four hops beyond the fault-free count where it is a single field's set. -/
def openRoute (dark : BitVec 84) (single : Bool) (f g : Nat) : List Nat :=
  let l := Config.detour dark f g
  if routeOk dark f g (if single then hops f g + 4 else 83) l then l else (shortest dark f g).getD []

/-- The hubs of the route between two fields in the set for some dark fields (R280 to R286): the fault-free ones, those
of the one dark field's set, or those of set 85. -/
def hubRoute (dark : BitVec 84) (f g : Nat) : List Nat :=
  match (List.range 84).filter (fun x => dark.getLsbD x) with
  | [] => routeHubs f g
  | [n] => (routeAround n f g).getD (openRoute dark true f g)
  | _ => openRoute dark false f g

/-- The hubs a packet crosses in the route set in force. -/
def packetHubs (w : Wafer) (src dst : Endpoint) : List Nat :=
  let f := endField w src (endField w dst 0)
  let g := endField w dst f
  hubRoute w.net.dark f g

/-- The express hops of every route of set 85, between fields and to the rims, each with its fault-free count (R286). -/
def routeHops (dark : BitVec 84) : List (Nat × Nat) :=
  let live := (List.range 84).filter (fun f => !dark.getLsbD f)
  (live.map (fun f =>
    live.map (fun g => ((hubRoute dark f g).length - 1, hops f g)) ++
      (List.range 16).map (fun k =>
        ((hubRoute dark f (rimEntryIn dark f k)).length - 1, hops f (rimEntryIn 0 f k))))).flatten

/-- NET_BOUND's fields in their places (R291). -/
def boundWord (vc0 data ring extra rate : Nat) : W64 :=
  BitVec.ofNat 64 (vc0 % 2 ^ 16 * 2 ^ 32 + data % 2 ^ 16 * 2 ^ 16 + ring * 2 ^ 12 + extra * 2 ^ 8 + rate)

/-- NET_BOUND of a set of dark fields (R285, R286, R291): fixed for none and for one; for more, computed from the routes of
set 85, with the load multiple of its channels, which is open (log 43) and at least the 2 that a dark field brings. -/
def boundOf (dark : BitVec 84) : W64 :=
  match (List.range 84).filter (fun f => dark.getLsbD f) with
  | [] => 0x0000_00C5_0197_0020
  | [f] => if [0, 3, 80, 83].contains f then boundWord 262 542 1 4 16 else boundWord 249 515 0 4 16
  | _ =>
    let l := routeHops dark
    let hmax := (l.map Prod.fst).foldl max 0
    let extra := min 15 ((l.map (fun p => p.1 - p.2)).foldl max 0)
    let ring := b2n ((List.range 16).any (overRing dark))
    boundWord (15 + 13 * hmax + 13 * ring) (29 + 27 * hmax + 27 * ring) ring extra (32 / max 2 (Config.loadMultiple dark))

/-- The route set for a set of dark fields (R280, R286). -/
def routeSetOf (dark : BitVec 84) : BitVec 7 :=
  match (List.range 84).filter (fun f => dark.getLsbD f) with
  | [] => 0
  | [f] => BitVec.ofNat 7 (f + 1)
  | _ => 85

/-- The distinct outputs that the copies of a multicast from `e` to some tiles take at each hub (R276). -/
def mcastEdges (w : Wafer) (e : Endpoint) (ts : List Nat) : List (Nat × HubOut) :=
  (ts.map (fun t =>
    let hs := packetHubs w e (.tile t)
    hs.zip (hs.tail.map HubOut.express ++ [HubOut.tap t]))).flatten.eraseDups

/-- Copies of `n` flits that leave the hubs by some outputs, counted: CNT_HUB_FLITS on every output and CNT_HUB_COPIES
beyond the first (R276, R292). -/
def countCopies (w : Wafer) (es : List (Nat × HubOut)) (n : Nat) : Wafer :=
  (es.map Prod.fst).eraseDups.foldl (fun w h =>
    let c := (es.filter (fun e => e.1 == h)).length
    fieldBump (fieldBump w h 0xE100 (c * n)) h 0xE108 ((c - 1) * n)) w

/-- The hubs' tables for some groups (R276, R280): the outputs at each hub on the routes in force from the rims that send
the group to the group's tiles. `groups` names a group, such a rim and the tiles. -/
def hubEntries (w : Wafer) (groups : List (Nat × Nat × List Nat)) : SMap (List HubOut) :=
  ((groups.map (fun g => (mcastEdges w (.rim g.2.1) g.2.2).map (fun e => (1024 * e.1 + g.1, e.2)))).flatten).foldl
    (fun m e => mput m e.1 ((mget [] m e.1 ++ [e.2]).eraseDups)) []

/-- The rims' tables for some groups: the hubs by which a rim sends a group. -/
def rimEntries (w : Wafer) (groups : List (Nat × Nat × List Nat)) : SMap (List Nat) :=
  groups.foldl (fun m g => mput m (1024 * g.2.1 + g.1) ((g.2.2.map (fun t => rimEntryIn w.net.dark (t / 64) g.2.1)).eraseDups)) []

/-- The groups that the rims' schedules name, each with its rim and its tiles. -/
def streamGroups (w : Wafer) : List (Nat × Nat × List Nat) :=
  ((List.range 16).map (fun k =>
    (((rimAt w k).stream.schedule.map (fun e => e.group)).eraseDups).map (fun g => (g, k, mget [] w.net.mcast g)))).flatten

/-- The tables of the hubs and rims brought up to date with the groups and the route set in force (R276, R279, R280). -/
def loadTables (w : Wafer) : Wafer :=
  { w with net := { w.net with hubTable := hubEntries w (streamGroups w), rimTable := rimEntries w (streamGroups w) } }

/-- The copies of a packet of group `g` from some hubs on: every hub sends one to each output of its entry (R276). -/
def copiesFrom (n : Net) (g : Nat) : Nat → List Nat → List (Nat × HubOut)
  | 0, _ => []
  | _, [] => []
  | fuel + 1, hs =>
    let es := (hs.map (fun h => (mget [] n.hubTable (1024 * h + g)).map (fun o => (h, o)))).flatten
    es ++ copiesFrom n g fuel (es.filterMap (fun e => match e.2 with | .express f => some f | _ => none))

/-- The copies of a packet that rim `k` sends to group `g`. -/
def streamCopies (w : Wafer) (k g : Nat) : List (Nat × HubOut) :=
  (copiesFrom w.net g 84 (mget [] w.net.rimTable (1024 * k + g))).eraseDups

/-- The usable tiles that some copies reach. -/
def copyTiles (w : Wafer) (es : List (Nat × HubOut)) : List Nat :=
  (es.filterMap (fun e => match e.2 with | .tap t => some t | _ => none)).filter (usable w)

/-! ### Packets -/

/-- Flits of a packet (R264). -/
def flits : PktKind → Nat
  | .rdResp _ b => max 1 ((b.length + 63) / 64)
  | .wr _ b => max 1 ((b.length + 63) / 64)
  | .stream _ _ b => max 1 ((b.length + 63) / 64)
  | .acc _ b => max 1 ((b.length + 63) / 64)
  | _ => 1

/-- A response of the network: it answers a request and frees its tag (R263). -/
def PktKind.answers : PktKind → Bool
  | .rdResp _ _ => true
  | .nrdResp _ _ => true
  | .wrAck _ => true
  | _ => false

/-- A flit (R263): 64 bytes of payload and the 128-bit sideband. -/
structure Flit where
  payload  : BitVec 512
  sideband : BitVec 128
  deriving DecidableEq, Repr

/-- The TYPE code of a packet (R264). -/
def PktKind.code : PktKind → Nat
  | .rdReq _ _ => 0x1 | .rdResp _ _ => 0x2 | .wr _ _ => 0x3 | .wrAck _ => 0x4 | .nrd _ => 0x5 | .nrdResp _ _ => 0x6
  | .nwr _ _ => 0x7 | .stream _ _ _ => 0x8 | .acc _ _ => 0x9 | .sync _ => 0xA

/-- Field and tile of an end of a route, as the sideband names it (R16, R263). -/
def Endpoint.name : Endpoint → Nat × Nat
  | .tile t => (t / 64, t % 64) | .rim k => (96 + k, 0) | .unit f => (f, 0) | .fru f => (f, 0) | .comp => (96, 0)

/-- The payload bytes of a packet; a SYNC message's layout is open (R296, log 95). -/
def PktKind.payload : PktKind → List Byte
  | .rdResp _ b => b | .wr _ b => b | .nrdResp _ b => b | .nwr _ b => b | .stream _ _ b => b | .acc _ b => b | _ => []

/-- The REGION and OFFSET of a packet's device address, or of a STREAM's region (R263). -/
def PktKind.region : PktKind → Nat × Nat
  | .rdReq a _ => (bits a 59 56, bits a 43 0) | .wr a _ => (bits a 59 56, bits a 43 0) | .nrd a => (bits a 59 56, bits a 43 0)
  | .nwr a _ => (bits a 59 56, bits a 43 0) | .acc a _ => (bits a 59 56, bits a 43 0) | .stream r o _ => (r, o) | _ => (0, 0)

/-- The INFO field (R263): the multicast group of a STREAM, the byte enables of a narrow access, the status of a response. -/
def PktKind.info (group : Nat) : PktKind → Nat
  | .stream _ _ _ => group * 2 ^ 8
  | .nrd _ => 0xFF
  | .nwr _ b => 2 ^ b.length - 1
  | .rdResp st _ => st % 16 | .nrdResp st _ => st % 16 | .wrAck st => st % 16
  | _ => 0

/-- TYPE to INFO of a head flit, sideband bits [122:16] (R263). -/
def headBits (code : Nat) (dst src : Endpoint) (tag len : Nat) (place : Nat × Nat) (info : Nat) : Nat :=
  fld code 103 + fld dst.name.1 96 + fld dst.name.2 90 + fld src.name.1 83 + fld src.name.2 77 + fld (tag % 256) 69 +
    fld (len % 8) 66 + fld place.1 62 + fld place.2 18 + info

/-- Sideband bits [127:16] of flit `i` of `n` of a packet (R263): VC, HEAD and TAIL in every flit, the rest in the head. -/
def sidebandBits (p : Packet) (group i n : Nat) : BitVec 112 :=
  let mark := fld p.vc 109 + fld (b2n (i == 0)) 108 + fld (b2n (i + 1 == n)) 107
  let len := match p.kind with | .rdReq _ l => (l + 63) / 64 - 1 | _ => n - 1
  let head := headBits p.kind.code p.dst p.src p.tag len p.kind.region (p.kind.info group)
  BitVec.ofNat 112 (mark + if i = 0 then head else 0)

/-- The flits of a packet (R263, R264), the first payload in the head flit, each with its CRC. -/
def flitsOf (p : Packet) (group : Nat) : List Flit :=
  let n := flits p.kind
  (List.range n).map (fun i =>
    let pay := BitVec.ofNat 512 (leNat (slice p.kind.payload (64 * i) 64))
    let side := sidebandBits p group i n
    ⟨pay, side ++ Config.crc16 pay side⟩)

/-- The flit of a config access on its way to a target, or of its answer (R264, R279): CFG is type 0xB and CFG_RESP 0xC, one flit
each over VC1. The spec gives the payload no layout: the value stands in its low 64 bits and the offset in OFFSET (log 95). -/
def cfgFlit (resp : Bool) (dst src : Endpoint) (off status : Nat) (v : W64) : Flit :=
  let pay : BitVec 512 := v.setWidth 512
  let side := BitVec.ofNat 112 (fld 1 109 + fld 1 108 + fld 1 107 +
    headBits (if resp then 0xC else 0xB) dst src 0 0 (0, off) status)
  ⟨pay, side ++ Config.crc16 pay side⟩

/-- A receiver's check of a flit (R266); one that fails is replayed and does not pass on. -/
def flitOk (f : Flit) : Bool := f.sideband.extractLsb' 0 16 == Config.crc16 f.payload (f.sideband.extractLsb' 16 112)

/-- A packet put into the network without counting it: the copies of a multicast. -/
def inject (w : Wafer) (p : Packet) : Wafer := onNet w (fun n => { n with inflight := n.inflight ++ [p] })

/-- The counter of a packet's injection at its source tile: CNT_NET_VC0 or CNT_NET_TX_FLITS (R288). -/
def countSource (w : Wafer) (p : Packet) : Wafer :=
  match p.src with
  | .tile t => if p.vc = 0 then tileBump w t 0x21018 1 else if p.vc ≥ 2 then tileBump w t 0x21000 (flits p.kind) else w
  | _ => w

/-- The tiles of the mesh between two tiles of a field, both ends included (R259): along the row to the destination's
column, then along the column. Tile `t` of a field stands in row `t / 8`, column `t % 8` (00_scope "Names"). -/
def meshRoute (a b : Nat) : List Nat :=
  (walk (a % 8) (b % 8)).map (fun c => a / 64 * 64 + a % 64 / 8 * 8 + c) ++
    (walk (a % 64 / 8) (b % 64 / 8)).tail.map (fun r => a / 64 * 64 + r * 8 + b % 8)

/-- A packet on VC0 or VC1 within a field stays on the mesh (R258). -/
def onMesh (p : Packet) : Bool :=
  match p.src, p.dst with
  | .tile a, .tile b => decide (p.vc < 2 ∧ a / 64 = b / 64)
  | .tile a, .unit f => decide (a / 64 = f)
  | .unit f, .tile a => decide (a / 64 = f)
  | _, _ => false

/-- The counters of a packet's injection: its source's, and CNT_HUB_FLITS at every hub it crosses (R292). -/
def countSend (w : Wafer) (p : Packet) : Wafer :=
  let w := countSource w p
  if onMesh p then w else (packetHubs w p.src p.dst).foldl (fun w h => fieldBump w h 0xE100 (flits p.kind)) w

/-- A packet injected (R262). -/
def send (w : Wafer) (p : Packet) : Wafer :=
  onNet (countSend w p) (fun n => { n with inflight := n.inflight ++ [p] })

/-- A packet made and injected; `tag` is that of the request it answers. -/
def sendPkt (w : Wafer) (src dst : Endpoint) (vc : Nat) (kind : PktKind) (owner : Owner) (addr : Nat) (tag : Nat := 0) :
    Wafer :=
  send w ⟨src, dst, vc, kind, tag, owner, addr, 0, none⟩

/-- The lowest free request tag of a tile's interface (R263, R273). -/
def freeTag (w : Wafer) (t : Nat) : Option Nat := (List.range 256).find? (fun i => !(tileAt w t).netTags.getLsbD i)

/-- True where a tile's interface has a free tag. -/
def tagFree (w : Wafer) (t : Nat) : Bool := (freeTag w t).isSome

/-- A tile's request made and injected under the lowest free tag, which it holds until its answer. -/
def requestWith (w : Wafer) (t : Nat) (p : Packet) : Wafer :=
  let tag := (freeTag w t).getD 0
  send (onTile w t (fun x => { x with netTags := x.netTags ||| (1#256 <<< tag) })) { p with tag := tag }

/-- The same, of a packet's parts. -/
def request (w : Wafer) (t : Nat) (dst : Endpoint) (vc : Nat) (kind : PktKind) (owner : Owner) (addr : Nat) : Wafer :=
  requestWith w t ⟨.tile t, dst, vc, kind, 0, owner, addr, 0, none⟩

/-- Packet `n` in flight, if it may arrive: no earlier packet of its source, destination and channel is still in
flight (R262). -/
def arriving (w : Wafer) (n : Nat) : Option Packet :=
  match w.net.inflight[n]? with
  | none => none
  | some p =>
    if (w.net.inflight.take n).any (fun q => decide (q.src = p.src ∧ q.dst = p.dst ∧ q.vc = p.vc)) then none
    else some p

/-- Packet `n` taken from the network. A tile counts the flits it ejects on VC2 to VC7 (R288), and an answer frees its
request's tag. -/
def takePkt (w : Wafer) (n : Nat) (p : Packet) : Wafer :=
  let w := onNet w (fun x => { x with inflight := dropAt x.inflight n })
  match p.dst with
  | .tile t =>
    let w := if p.vc ≥ 2 then tileBump w t 0x21008 (flits p.kind) else w
    if p.kind.answers then onTile w t (fun x => { x with netTags := x.netTags &&& ~~~(1#256 <<< p.tag) }) else w
  | _ => w

/-- `n` bytes that units outside the tiles move within one command: counted at the hubs they pass, and arrived at the
command's end (R267, R292). -/
def carry (w : Wafer) (src dst : Endpoint) (n : Nat) : Wafer :=
  (packetHubs w src dst).foldl (fun w h => fieldBump w h 0xE100 (max 1 ((n + 63) / 64))) w

/-- The rim over which the companion die meets a rim's traffic (R261). -/
def compRimOf (k : Nat) : Nat := if (fieldPos ((rimFields k).headD 0)).1 < 5 then 0 else 8

/-- The same between a rim and the companion die: what its own UCIe port carries passes no hub. -/
def carryComp (w : Wafer) (k n : Nat) : Wafer :=
  if compRimOf k = k then w else carry w (.rim k) (.rim (compRimOf k)) n

/-! ### Sync blocks and watches (R293 to R301) -/

/-- A flag of a tile. -/
def flagOf (w : Wafer) (t id : Nat) : Bool := (tileAt w t).sync.flags.getLsbD id

/-- A counter of a tile. -/
def ctrOf (w : Wafer) (t id : Nat) : W32 := mget 0 (tileAt w t).sync.ctrs id

/-- The value a watch of field `f` tests: its object's value, and whether the object is a flag. -/
def watchValue (w : Wafer) (f : Nat) (o : WatchObj) : W32 :=
  match o with
  | .flag t id => if flagOf w t id then 1 else 0
  | .ctr t id => ctrOf w t id
  | .gen l => mget 0 (fieldAt w f).banGen l

/-- The condition of a watch (R299). -/
def watchTrue (w : Wafer) (f : Nat) (x : Watch) : Bool :=
  let v := watchValue w f x.obj
  match x.cond, x.obj with
  | .ge, _ => reaches v x.operand
  | .eq, _ => v == x.operand
  | .bitset, .flag _ _ => v == 1
  | .bitset, _ => decide (v &&& x.operand = x.operand)
  | .genchg, _ => v != x.operand

/-- The message of a fired watch goes out (R301). -/
def deliver (w : Wafer) (f slot : Nat) (d : WatchDest) : Wafer :=
  match d with
  | .wake t =>
    if t / 64 = f then onTile w t (fun x => { x with vc := { x.vc with wakeDue := true } })
    else sendPkt w (.unit f) (.unit (t / 64)) 0 (.sync (.wake t)) .none 0
  | .set t id => sendPkt w (.unit f) (.tile t) 0 (.sync (.set t id true)) .none 0
  | .add t id n => sendPkt w (.unit f) (.tile t) 0 (.sync (.add t id (n.setWidth 32))) .none 0
  | .comp => onField w f (fun x => { x with comp := x.comp ||| (1#256 <<< slot) })

/-- Watch `slot` of field `f` evaluated: if its condition holds it fires, its slot becomes free, and its message goes
out (R300). -/
def evalSlot (w : Wafer) (f slot : Nat) : Wafer :=
  match mget none (fieldAt w f).watches slot with
  | none => w
  | some x =>
    if watchTrue w f x then
      deliver (onField w f (fun y =>
        { y with watches := mput y.watches slot none, ctrs := bumpAt y.ctrs 0xF200 1 })) f slot x.dest
    else w

/-- The watches of field `f` on an object evaluated, in slot order (R296, R302). -/
def evalWatches (w : Wafer) (f : Nat) (o : WatchObj) : Wafer :=
  let slots := (fieldAt w f).watches.filterMap (fun p =>
    match p.2 with
    | some x => if x.obj = o then some p.1 else none
    | none => none)
  slots.foldl (fun w s => evalSlot w f s) w

/-- A flag set or cleared, as one update (R296). -/
def setFlag (w : Wafer) (t id : Nat) (v : Bool) : Wafer :=
  let w := onTile w t (fun x => { x with sync := { x.sync with flags :=
    if v then x.sync.flags ||| (1#256 <<< id) else x.sync.flags &&& ~~~(1#256 <<< id) } })
  evalWatches w (t / 64) (.flag t id)

/-- A counter given a value, as one update (R296). -/
def setCtr (w : Wafer) (t id : Nat) (v : W32) : Wafer :=
  evalWatches (onTile w t (fun x => { x with sync := { x.sync with ctrs := mput x.sync.ctrs id v } })) (t / 64)
    (.ctr t id)

/-- A counter raised modulo 2^32 (R294, R296). -/
def addCtr (w : Wafer) (t id : Nat) (n : W32) : Wafer := setCtr w t id (ctrOf w t id + n)

/-- The lowest free watch slot of a field. -/
def freeSlot (x : Field) : Option Nat := (List.range 256).find? (fun i => (mget none x.watches i).isNone)

/-- A watch put into a free slot and evaluated once (R300); the slot, or none where no slot is free (R306 code 0x02,
CNT_WATCH_FULL). -/
def registerWatch (w : Wafer) (f : Nat) (x : Watch) : Option Nat × Wafer :=
  match freeSlot (fieldAt w f) with
  | none => (none, fieldBump w f 0xF208 1)
  | some i => (some i, evalSlot (onField w f (fun y => { y with watches := mput y.watches i (some x) })) f i)

/-! ### Scratchpad with exponent tags (R221, R222) -/

/-- A tag entry of a tile. -/
def tagAt (x : Tile) (g : Nat) : TagEntry := mget .reset x.tags g

/-- partial_write of R222 for one granule. -/
def partialTag (x : Tile) (g : Nat) : Tile :=
  let b := g - (tagAt x g).dist.toNat
  { x with tags := mput x.tags b { tagAt x b with tag := 0x100 } }

/-- The granules `[off, off + n)` touches. -/
def granules (off n : Nat) : List Nat :=
  if n = 0 then [] else (List.range ((off + n - 1) / 64 + 1 - off / 64)).map (fun i => off / 64 + i)

/-- A partial write to the scratchpad. -/
def spWrite (x : Tile) (off : Nat) (bs : List Byte) : Tile :=
  (granules off bs.length).foldl partialTag { x with sp := x.sp.writeN off bs }

/-- The tail loop of whole_block_write: older blocks begun inside. -/
def clearTail : Nat → Tile → Nat → Nat → Tile
  | 0, x, _, _ => x
  | fuel + 1, x, b, g =>
    let d := (tagAt x g).dist.toNat
    if g < 12288 ∧ d > 0 ∧ b ≤ g - d then clearTail fuel { x with tags := mput x.tags g ⟨0, 0x100⟩ } b (g + 1) else x

/-- whole_block_write of R222: `n` granules from granule `b` with tag `t`. -/
def blockTagWrite (x : Tile) (b n : Nat) (t : BitVec 9) : Tile :=
  let x := (List.range n).foldl (fun x i =>
    let g := b + i
    let d := (tagAt x g).dist.toNat
    if d > 0 ∧ g - d < b then { x with tags := mput x.tags (g - d) { tagAt x (g - d) with tag := 0x100 } } else x) x
  let x := clearTail 128 x b (b + n)
  let x := { x with tags := mput x.tags b ⟨0, t⟩ }
  (List.range (n - 1)).foldl (fun x i =>
    { x with tags := mput x.tags (b + i + 1) { tagAt x (b + i + 1) with dist := BitVec.ofNat 7 (i + 1) } }) x

/-- A whole block written to the scratchpad with its tag (R63, R222). -/
def spWriteBlock (x : Tile) (off : Nat) (bs : List Byte) (code : Nat) : Tile :=
  blockTagWrite { x with sp := x.sp.writeN off bs } (off / 64) ((bs.length + 63) / 64) (blockTag code bs)

/-- The tag the array reads for the block at a granule (R223): unknown where DIST is not 0. -/
def readTag (x : Tile) (g : Nat) : BitVec 9 := let e := tagAt x g; if e.dist = 0 then e.tag else 0x100

end Sys2Proof.Machine
end

