-- ==== Sys2Proof/Machine/TileMem.lean ====
section
/-!
DEFINITION. Reads and writes of a tile's scratchpad and slice by its engines and by the network, with the error
marks of chapter 15 (R580 to R585), and the bank groups of the slices (R227 to R235).
-/

namespace Sys2Proof.Machine

open Sys2Proof

/-- The 8-byte words `[off, off + n)` touches. -/
def words8 (off n : Nat) : List Nat :=
  if n = 0 then [] else (List.range ((off + n - 1) / 8 + 1 - off / 8)).map (fun i => off / 8 + i)

/-- A scratchpad read by a unit of tile `t` or a remote one: the bytes, or none where a word is uncorrectable; the
counters of the read follow (R581, R608). -/
def spLoad (w : Wafer) (t off n : Nat) : Option (List Byte) × Wafer :=
  let x := tileAt w t
  let ws := words8 off n
  let ce := (ws.filter (fun i => x.spCor.contains i)).length
  let w := if ce = 0 then w else postTile (tileBump w t 0x24100 ce) t 0x0101 0 0 off
  match ws.find? (fun i => x.spUnc.contains i) with
  | some i => (none, postTile (tileBump w t 0x24108 1) t 0x0102 1 0 (8 * i))
  | none => (some (x.sp.readN off n), w)

/-- The bytes of a write that land: a word that is uncorrectable and not wholly covered keeps its content (R582). -/
def landing (bad : List Nat) (g off : Nat) (bs : List Byte) : List (Nat × Byte) :=
  (bs.zipIdx.map (fun (b, i) => (off + i, b))).filter (fun p =>
    !(bad.contains (p.1 / g) && decide (p.1 / g * g < off ∨ off + bs.length < p.1 / g * g + g)))

/-- The marks a write leaves: wholly covered words are valid again (R582). -/
def cleared (bad : List Nat) (g off n : Nat) : List Nat :=
  bad.filter (fun i => !decide (off ≤ i * g ∧ i * g + g ≤ off + n))

/-- Marks of an armed injection of the next scratchpad write (R602, points 0x0101 and 0x0102). -/
def injectSp (w : Wafer) (t off : Nat) : Wafer :=
  match tileInject w t 0x0101 0x0102 with
  | (some 0x0101, w) => onTile w t (fun x => { x with spCor := x.spCor ++ [off / 8] })
  | (some _, w) => onTile w t (fun x => { x with spUnc := x.spUnc ++ [off / 8] })
  | (none, w) => w

/-- A partial write to the scratchpad of tile `t` (R222), with the rules of R582 and a report where a part of it is
discarded. -/
def spStore (w : Wafer) (t off : Nat) (bs : List Byte) : Wafer :=
  let x := tileAt w t
  if x.spUnc = [] then
    injectSp (setTile w t { spWrite x off bs with spCor := cleared x.spCor 8 off bs.length }) t off
  else
    let land := landing x.spUnc 8 off bs
    let x' := (granules off bs.length).foldl partialTag
      { x with sp := land.foldl (fun m p => m.write p.1 p.2) x.sp
               spUnc := cleared x.spUnc 8 off bs.length
               spCor := cleared x.spCor 8 off bs.length }
    let w := injectSp (setTile w t x') t off
    if land.length = bs.length then w else postTile (tileBump w t 0x24108 1) t 0x0102 1 0 off

/-- A whole operand block written to the scratchpad with its tag (R222); point 0x0105 spoils the tag's parity. -/
def spStoreBlock (w : Wafer) (t off : Nat) (bs : List Byte) (code : Nat) : Wafer :=
  let x := tileAt w t
  let x := { spWriteBlock x off bs code with
               spUnc := cleared x.spUnc 8 off bs.length
               spCor := cleared x.spCor 8 off bs.length
               tagBad := cleared x.tagBad 1 (off / 64) ((bs.length + 63) / 64) }
  let w := injectSp (setTile w t x) t off
  match tileInject w t 0x0105 0x0105 with
  | (some _, w) => onTile w t (fun x => { x with tagBad := x.tagBad ++ [off / 64] })
  | (none, w) => w

/-- A read of a slice (R229, R585). -/
def bdsLoad (w : Wafer) (t off n : Nat) : Option (List Byte) × Wafer :=
  let x := tileAt w t
  let gs := granules off n
  let ce := (gs.filter (fun i => x.bdsCor.contains i)).length
  let w := if ce = 0 then w else postTile (tileBump w t 0x24110 ce) t 0x0103 0 0 off
  match gs.find? (fun i => x.bdsUnc.contains i) with
  | some i => (none, postTile (tileBump w t 0x24118 1) t 0x0104 1 0 (64 * i))
  | none => (some (x.bds.mem.readN off n), w)

/-- A write to a slice (R229, R582), with the injections 0x0103 and 0x0104. -/
def bdsStore (w : Wafer) (t off : Nat) (bs : List Byte) : Wafer :=
  let x := tileAt w t
  let land := if x.bdsUnc = [] then bs.zipIdx.map (fun (b, i) => (off + i, b)) else landing x.bdsUnc 64 off bs
  let w := setTile w t
    { x with bds := { x.bds with mem := land.foldl (fun m p => m.write p.1 p.2) x.bds.mem }
             bdsUnc := cleared x.bdsUnc 64 off bs.length
             bdsCor := cleared x.bdsCor 64 off bs.length }
  let w := if land.length = bs.length then w else postTile (tileBump w t 0x24118 1) t 0x0104 1 0 off
  match tileInject w t 0x0103 0x0104 with
  | (some 0x0103, w) => onTile w t (fun x => { x with bdsCor := x.bdsCor ++ [off / 64] })
  | (some _, w) => onTile w t (fun x => { x with bdsUnc := x.bdsUnc ++ [off / 64] })
  | (none, w) => w

/-! ### Bank groups (R227 to R235) -/

def groupOf (b : Bds) (g : Nat) : BdsGroup := match g with | 0 => b.g0 | 1 => b.g1 | 2 => b.g2 | _ => b.g3
def setGroup (b : Bds) (g : Nat) (x : BdsGroup) : Bds :=
  match g with
  | 0 => { b with g0 := x } | 1 => { b with g1 := x } | 2 => { b with g2 := x } | _ => { b with g3 := x }
def onGroup (w : Wafer) (t g : Nat) (f : BdsGroup → BdsGroup) : Wafer :=
  onTile w t (fun x => { x with bds := setGroup x.bds g (f (groupOf x.bds g)) })

/-- The bank groups that `[off, off + n)` touches (R227). -/
def groupsOf (off n : Nat) : List Nat :=
  (List.range 4).filter (fun g => decide (off < 0x4000000 * (g + 1) ∧ 0x4000000 * g < off + n))

/-- The bank of a slice that holds an offset (R227): four per group, rows of 2 KiB in turn. -/
def bankOf (off : Nat) : Nat := 4 * (off / 0x4000000) + bits off 12 11

/-- The banks that `[off, off + n)` touches. -/
def banksOf (off n : Nat) : List Nat :=
  if n = 0 then []
  else ((List.range (min 5 ((off + n - 1) / 2048 + 1 - off / 2048))).map (fun i => bankOf (max off ((off / 2048 + i) * 2048)))) ++
    [bankOf (off + n - 1)]

/-- A group that serves accesses: awake, or still fencing (R232). -/
def groupUp (x : BdsGroup) : Bool := decide (x.state = .awake ∨ x.state = .fencing)

/-- True where every group a slice access touches serves it. -/
def bdsAwake (w : Wafer) (t off n : Nat) : Bool := (groupsOf off n).all (fun g => groupUp (groupOf (tileAt w t).bds g))

/-- True where no bank a slice access touches refreshes (R231). -/
def bdsFresh (w : Wafer) (t off n : Nat) : Bool := (banksOf off n).all (fun b => !(tileAt w t).bds.refreshing.getLsbD b)

/-- True where a slice access is served now. -/
def bdsReady (w : Wafer) (t off n : Nat) : Bool := bdsAwake w t off n && bdsFresh w t off n

/-- The place of a slice that a packet reaches: tile, offset and length. -/
def bdsTarget (p : Packet) : Option (Nat × Nat × Nat) :=
  match p.dst with
  | .tile u =>
    (match p.kind with
      | .rdReq a n => if bits a 63 56 = 2 then some (u, bits a 27 0, n) else none
      | .nrd a => if bits a 63 56 = 2 then some (u, bits a 27 0, 8) else none
      | .wr a bs => if bits a 63 56 = 2 then some (u, bits a 27 0, bs.length) else none
      | .nwr a bs => if bits a 63 56 = 2 then some (u, bits a 27 0, bs.length) else none
      | .stream r off bs => if r = 2 then some (u, off, bs.length) else none
      | _ => none)
  | _ => none

/-- A late access wakes its groups: one event of CNT_BDS_LATE_WAKE for each wake that begins (R233). -/
def lateWake (w : Wafer) (t off n : Nat) : Wafer :=
  (groupsOf off n).foldl (fun w g =>
    let x := groupOf (tileAt w t).bds g
    if groupUp x || x.waking then w
    else tileBump (onGroup w t g (fun x => { x with waking := true })) t 0x20230 1) w

end Sys2Proof.Machine
end

