-- ==== Sys2Proof/Machine/Array.lean ====
section
/-!
DEFINITION. The matrix array and its cadence table (03 R88 to R131, 02 R55 to R77): the slot's fields, the checks at
slot load, the sets entering the array, the overflow verdict with its repeats, the capture and the drain. A set's
products are added at once when the set enters the array, and count as in flight until the tile's next set enters or its
capture (R97); the cycles that issue held are counted as the commands give them.
-/

namespace Sys2Proof.Machine

open Sys2Proof

/-- A cadence slot (R112). -/
structure Slot where
  kind     : Nat
  fmtA     : Nat
  fmtB     : Nat
  locked   : Bool
  sLock    : Int
  fp32     : Bool
  hold     : Bool
  reuse    : Bool
  mxoA     : Bool
  mxoB     : Bool
  gateEn   : Bool
  k        : Nat
  sets     : Nat
  rows     : Nat
  aBase    : Int
  aSet     : Int
  aIter    : Int
  bBase    : Int
  bSet     : Int
  bIter    : Int
  dBase    : Int
  dIter    : Int
  gateFlag : Nat
  deriving DecidableEq, Repr

/-- The 256 bits of slot `j` of a bank. -/
def slotBits (c : Cad) (bank : Bool) (j : Nat) : Nat :=
  let m := if bank then c.bank1 else c.bank0
  ((List.range 4).map (fun i => (mget (0 : W64) m (4 * j + i)).toNat * 2 ^ (64 * i))).sum

/-- The fields of a slot (R112). -/
def slotOf (v : Nat) : Slot :=
  { kind := bits v 1 0, fmtA := bits v 5 2, fmtB := bits v 9 6, locked := bitOf v 10, sLock := sint 10 (bits v 20 11),
    fp32 := bitOf v 21, hold := bitOf v 22, reuse := bitOf v 23, mxoA := bitOf v 24, mxoB := bitOf v 25,
    gateEn := bitOf v 26, k := bits v 47 32 + 1, sets := bits v 57 48 + 1, rows := bits v 63 58 + 1,
    aBase := bits v 77 64, aSet := sint 14 (bits v 91 78), aIter := sint 14 (bits v 173 160),
    bBase := bits v 109 96, bSet := sint 14 (bits v 123 110), bIter := sint 14 (bits v 187 174),
    dBase := bits v 141 128, dIter := sint 14 (bits v 205 192), gateFlag := bits v 159 152 }

/-- The slot at a position. -/
def slotAt (c : Cad) (p : CadPos) : Slot := slotOf (slotBits c p.bank p.slot)

/-- Length and iteration count of a bank (R128). -/
def cadLen (c : Cad) (bank : Bool) : Nat := ((if bank then c.hdr1 else c.hdr0).toNat) % 256 + 1
def cadIters (c : Cad) (bank : Bool) : Nat := bits (if bank then c.hdr1 else c.hdr0).toNat 31 16 + 1

/-- The next slot of the table, or none after the last slot of the last iteration (R111). -/
def nextSlot (c : Cad) (p : CadPos) : Option CadPos :=
  if p.slot + 1 < cadLen c p.bank then some { p with slot := p.slot + 1, set := 0 }
  else if p.iter + 1 < cadIters c p.bank then some { p with iter := p.iter + 1, slot := 0, set := 0 }
  else none

/-- The first non-idle slot from a position on, within `fuel` slots. -/
def findWork (c : Cad) : Nat → Option CadPos → Option CadPos
  | 0, _ => none
  | _ + 1, none => none
  | fuel + 1, some p => if (slotAt c p).kind ≠ 0 then some p else findWork c fuel (nextSlot c p)

/-- The next non-idle slot after a position; a table of `len` slots repeats, so a whole pass of idle slots means
there is none (R94). -/
def nextWork (c : Cad) (p : CadPos) : Option CadPos := findWork c 257 (nextSlot c p)

/-- The first non-idle slot of a bank. -/
def firstWork (c : Cad) (bank : Bool) : Option CadPos := findWork c 257 (some ⟨bank, 0, 0, 0⟩)

/-- The set after a position's set: the chain's next, else the first of the next non-idle slot, else, with ARM, the
first of the standby bank (R94). -/
def nextSet (c : Cad) (p : CadPos) : Option CadPos :=
  if p.set + 1 < (slotAt c p).sets then some { p with set := p.set + 1 }
  else match nextWork c p with
    | some q => some q
    | none => if c.arm then firstWork c (!c.active) else none

/-- Bytes of one set of a format (R90): ρ blocks. -/
def setBytes (code : Nat) : Nat := rho code * blockBytes code

/-- Byte addresses of an A set, a B set and the drain area at a position (R111, R112). -/
def aAddr (s : Slot) (p : CadPos) : Int := 64 * (s.aBase + p.iter * s.aIter + p.set * s.aSet)
def bAddr (s : Slot) (p : CadPos) : Int := 64 * (s.bBase + p.iter * s.bIter + p.set * s.bSet)
def dAddr (s : Slot) (p : CadPos) : Int := 64 * (s.dBase + p.iter * s.dIter)

/-- Bytes of a drain (R72, R74). -/
def drainBytes (s : Slot) : Nat := if s.fp32 then 16384 else 32832

/-- True where `[a, a + n)` lies in the scratchpad. -/
def inSp (a : Int) (n : Nat) : Bool := decide (0 ≤ a ∧ a + n ≤ (spBytes : Int))

/-- Check 0x04 of R120: every set and drain area of every iteration lies in the scratchpad. The addresses are linear
in iteration and set, so the corners decide. -/
def areasFit (c : Cad) (p : CadPos) : Bool :=
  let s := slotAt c p
  let is := [0, cadIters c p.bank - 1]
  let js := [0, s.sets - 1]
  is.all (fun i => js.all (fun j =>
    let q : CadPos := { p with iter := i, set := j }
    inSp (aAddr s q) (setBytes s.fmtA) && inSp (bAddr s q) (setBytes s.fmtB)) &&
    (s.hold || inSp (dAddr s { p with iter := i }) (drainBytes s)))

/-- The granules of one operand's blocks over a chain. -/
def chainGranules (s : Slot) (p : CadPos) (isA : Bool) : List Nat :=
  let code := if isA then s.fmtA else s.fmtB
  ((List.range s.sets).map (fun j =>
    let q : CadPos := { p with set := j }
    (List.range (rho code)).map (fun b =>
      (((if isA then aAddr s q else bAddr s q) + b * blockBytes code) / 64).toNat))).flatten

/-- The tags of one operand's blocks over a chain (R64). -/
def chainTags (x : Tile) (s : Slot) (p : CadPos) (isA : Bool) : List (BitVec 9) :=
  (chainGranules s p isA).map (readTag x)

/-- ⌈log2 k⌉. -/
def clog2 (k : Nat) : Nat := if k ≤ 1 then 0 else log2n (k - 1) + 1

/-- The largest of the tags that are exponents; none where every block is empty. -/
def maxTag (l : List (BitVec 9)) : Option Int :=
  match (l.filter (fun t => t != 0x0FF)).map BitVec.toInt with
  | [] => none
  | t :: ts => some (ts.foldl max t)

/-- The scale automatic selection gives (R64); none where a tag of the chain is unknown. -/
def autoScale (x : Tile) (s : Slot) (p : CadPos) : Option Int :=
  let ta := chainTags x s p true
  let tb := chainTags x s p false
  if ta.contains 0x100 || tb.contains 0x100 then none
  else match maxTag ta, maxTag tb with
    | some ea, some eb => some (ea + eb + clog2 s.k + 2)
    | _, _ => some 0

/-- The first slot of the held run that a slot at `p` continues, if it continues one: the tile in progress, when the
slot before it holds. -/
def runStart (x : Tile) (holding : Bool) : Option (CadPos × Nat) :=
  if holding then x.arr.tile.map (fun o => (o.start, o.k)) else none

/-- The checks at slot load (R120), lowest code first; `holding` says that the preceding non-idle slot has HOLD. -/
def loadCheck (x : Tile) (p : CadPos) (holding : Bool) : Option Nat :=
  let c := x.cad
  let s := slotAt c p
  let r := rho s.fmtA
  let first := runStart x holding
  if r = 0 ∨ r ≠ rho s.fmtB then some 1
  else if (s.mxoA ∧ isMx s.fmtA) ∨ (s.mxoB ∧ isMx s.fmtB) then some 2
  else if s.k > 64 * r * s.sets ∨ s.k ≤ 64 * r * (s.sets - 1) then some 3
  else if !areasFit c p then some 4
  else if (s.hold ∨ holding) ∧ !s.locked then some 5
  else if s.hold ∧ (nextWork c p).isNone then some 5
  else if (match first with
      | some (q, k) =>
        let f := slotAt c q
        decide (k + s.k > 65536) || decide (s.sLock ≠ f.sLock) || decide (rho s.fmtA ≠ rho f.fmtA)
      | none => false) then some 5
  else if !s.locked ∧ (autoScale x s p).isNone then some 6
  else if s.reuse && (decide (s.sets > 1) || (match x.arr.held with
      | some h => decide ((h.base : Int) ≠ bAddr s p) || decide (h.fmt ≠ s.fmtB)
      | none => true)) then some 7
  else none

/-- The slot at `p` loaded (R120, R121): a fault is recorded for when issue reaches the slot (R122), automatic
selection sets its scale. Points 0x0111 to 0x0117 force a fault; a tag of bad parity is detected at tile open (R585). -/
def loadSlot (w : Wafer) (t : Nat) (p : CadPos) (holding : Bool) : Wafer :=
  let (inj, w) := tileInject w t 0x0111 0x0117
  let x := tileAt w t
  let s := slotAt x.cad p
  let code := match inj with
    | some d => some (d - 0x0110)
    | none => loadCheck x p holding
  match code with
  | some c => onTile w t (fun x => { x with arr := { x.arr with loadFault := some (p, BitVec.ofNat 8 c) } })
  | none =>
    let scale := if s.locked then s.sLock else (autoScale x s p).getD 0
    let w := onTile w t (fun x => { x with arr := { x.arr with opened := some (p, scale), loadFault := none } })
    if slotBad x p then failLoad w t p 0x0106
    else if !s.locked && (chainGranules s p true ++ chainGranules s p false).any (fun g => x.tagBad.contains g) then
      failLoad w t p 0x0105
    else w
where
  /-- The slot's words in the bank that cannot be corrected (R585). -/
  slotBad (x : Tile) (p : CadPos) : Bool :=
    (List.range 4).any (fun i => x.cfgBad.contains (0x4000 + (if p.bank then 0x2000 else 0) + 32 * p.slot + 8 * i))
  /-- An uncorrectable word or tag at slot load: the step aborts, and the array does not issue the slot. -/
  failLoad (w : Wafer) (t : Nat) (p : CadPos) (det : Nat) : Wafer :=
    postTile (onTile w t (fun x => { x with arr := { x.arr with loadFault := some (p, 0) } })) t det 1 0 0

/-- True where the slot of the set at `p` failed its load. -/
def loadFailed (x : Tile) (p : CadPos) : Bool :=
  match x.arr.loadFault with
  | some (q, _) => decide (q.bank = p.bank ∧ q.iter = p.iter ∧ q.slot = p.slot)
  | none => false

/-- True where the set at `p` has been begun already: its reload is under way or complete, its slot failed its load, or
its slot has REUSE and is loaded. -/
def reloadBegun (x : Tile) (p : CadPos) : Bool :=
  (match x.arr.shadow with | some h => decide (h.pos = p) | none => false) || loadFailed x p ||
    ((slotAt x.cad p).reuse && (match x.arr.opened with | some (q, _) => decide (q = p) | none => false))

/-- The shadow buffer begins the reload of the set at `p`, loading its slot first where it is the slot's first set
(R94, R120); a REUSE slot is loaded and reloads nothing. What has been begun is not begun again. -/
def beginReload (w : Wafer) (t : Nat) (p : CadPos) (holding : Bool) : Wafer :=
  if reloadBegun (tileAt w t) p then w
  else
    let w := if p.set = 0 then loadSlot w t p holding else w
    onTile w t (fun x =>
      if loadFailed x p || (slotAt x.cad p).reuse then { x with arr := { x.arr with shadow := none } }
      else { x with arr := { x.arr with shadow := some ⟨p, false, []⟩ } })

/-- True where the entry of the set at the array's position needs no reload: a REUSE slot, or the repeat of a tile
of one set. The repeat of a longer tile reloads its first set, also where its first slot has REUSE (R106). -/
def noReload (x : Tile) : Bool :=
  match x.arr.tile with
  | some o =>
    if o.retries > 0 ∧ x.arr.pos = o.start then decide (o.sets = 1) else (slotAt x.cad x.arr.pos).reuse
  | none => (slotAt x.cad x.arr.pos).reuse

/-- True where the set at the array's position may enter: its reload is complete or not needed (R93). -/
def setReady (x : Tile) : Bool :=
  noReload x || (match x.arr.shadow with | some h => h.ready && decide (h.pos = x.arr.pos) | none => false)

/-- The array's Simmer (R316): it issues no product while a table runs or has stopped. -/
def simmering (x : Tile) : Bool :=
  match x.arr.phase with
  | .entry => !setReady x
  | .rest => x.arr.simmer || x.cad.phase != .stopped
  | _ => true

/-- The array's Simmer bit brought up to date. -/
def noteSimmer (w : Wafer) (t : Nat) : Wafer :=
  onTile w t (fun x => { x with arr := { x.arr with simmer := simmering x } })

/-- Issue reaches the slot at `p` (R110 to R122): CAD_STATUS follows; a slot that failed its load stops the array with
STATE 3, discarding a held run in progress; a gated slot waits for its gate, an idle one too; an idle slot runs. -/
def enterSlot (w : Wafer) (t : Nat) (p : CadPos) : Wafer :=
  let x := tileAt w t
  let s := slotAt x.cad p
  let cad := { x.cad with iterNo := BitVec.ofNat 16 p.iter, slot := BitVec.ofNat 8 p.slot }
  match x.arr.loadFault with
  | some (q, c) =>
    if q = p then
      let w := setTile w t
        { x with cad := { cad with phase := .faulted, fault := c, run := false }
                 arr := { x.arr with phase := .faulted, pos := p, tile := none, shadow := none, loadFault := none } }
      noteSimmer (if c = 0 then w else postTile w t (0x0110 + c.toNat) 2 c.toNat 0) t
    else noteSimmer (setTile w t (settled x cad s)) t
  | none => noteSimmer (setTile w t (settled x cad s)) t
where
  settled (x : Tile) (cad : Cad) (s : Slot) : Tile :=
    if s.gateEn then
      { x with cad := { cad with phase := .holding }, arr := { x.arr with phase := .gate, pos := p } }
    else if s.kind = 0 then
      { x with cad := { cad with phase := .issuing }, arr := { x.arr with phase := .idleSlot, pos := p } }
    else
      { x with cad := { cad with phase := .issuing }, arr := { x.arr with phase := .entry, pos := p } }

/-- Issue leaves the slot at the array's position: to the next slot, or to the end of the table (R124). -/
def leaveSlot (w : Wafer) (t : Nat) : Wafer :=
  let x := tileAt w t
  match nextSlot x.cad x.arr.pos with
  | some p => enterSlot w t p
  | none =>
    noteSimmer (setTile w t
      { x with cad := { x.cad with phase := .holding }, arr := { x.arr with phase := .tableEnd } }) t

/-- True where no array and no core of the wafer issues: a freeze (R540), a stopped job (R735) or DBG_HALT (R489). -/
def blocked (w : Wafer) : Bool := w.frozen || w.halted || w.dbgHalt

/-- True where the field of tile `t` stands at level 16, so that its arrays issue (R318). -/
def levelOk (w : Wafer) (t : Nat) : Bool := (fieldAt w (t / 64)).level == 16

/-- True where the core waits in WAIT for its watch (R178). -/
def coreWaiting (x : Tile) : Bool := decide (x.vc.phase = .waiting) && x.vc.watchOn

/-- The array's Simmer as it reads now (R316, R318): where a set waits to enter, a level below 16 and whatever stops issue keep
it in Simmer. Beside an array at rest, a core that waits keeps its tile in Simmer (R178; DEDUCED 102). -/
def inSimmer (w : Wafer) (t : Nat) : Bool :=
  let x := tileAt w t
  x.arr.simmer || (decide (x.arr.phase = .entry) && (!levelOk w t || blocked w)) ||
    (decide (x.arr.phase = .rest) && coreWaiting x)

/-- A release held below level 16 (R318). -/
def holdRelease (w : Wafer) (t : Nat) : Wafer :=
  if levelOk w t then w else onField w (t / 64) (fun f => { f with pending := true })

/-- The table that a tile starts noted for the landing record: that of logical tile (0,0) (R430, log 48). -/
def noteTable (w : Wafer) (t : Nat) (bank : Bool) : Wafer :=
  if logical w 0 0 = some t then
    { w with ran := w.ran ++ [((if bank then (tileAt w t).cad.hdr1 else (tileAt w t).cad.hdr0).extractLsb' 32 32)] }
  else w

/-- The active bank started at slot 0, iteration 0 (R127): the first non-idle slot is loaded and its first set begins
its reload. -/
def startTable (w : Wafer) (t : Nat) : Wafer :=
  let x := tileAt w t
  let c := x.cad
  let w := setTile w t
    { x with cad := { c with run := true }
             arr := { x.arr with tile := none, shadow := none, loadFault := none, opened := none } }
  let w := match firstWork c c.active with
    | some p => beginReload w t p false
    | none => w
  enterSlot (noteTable w t c.active) t ⟨c.active, 0, 0, 0⟩

/-! ### Products (R56 to R60, R69, R70) -/

/-- One product added to an element at scale `s`. -/
def addProduct (s : Int) (a : AccElem) (p : FpVal) : AccElem :=
  match p with
  | .nan => { a with nan := true }
  | .inf true => { a with ninf := true }
  | .inf false => { a with pinf := true }
  | .fin d =>
    let q := d.floorAt (s - 46)
    { a with sum := a.sum + q, ovf := a.ovf || decide (q.natAbs ≥ 2 ^ 63) }

/-- The products of element (row, col) with one set: K positions beyond the slot's K are not formed (R99). -/
def setProducts (s : Slot) (p : CadPos) (aBlk bBlk : List Byte) (row col : Nat) : List FpVal :=
  let r := rho s.fmtA
  ((List.range (64 * r)).filter (fun i => decide (p.set * 64 * r + i < s.k))).map (fun i =>
    fpMul (blockVal s.fmtA (aBlk.drop (i / 64 * blockBytes s.fmtA)) row (i % 64))
      (blockVal s.fmtB (bBlk.drop (i / 64 * blockBytes s.fmtB)) col (i % 64)))

/-- All accumulators after one set: rows beyond the slot's valid rows do not issue (R99). -/
def accumulate (s : Slot) (p : CadPos) (scale : Int) (aBlk bBlk : List Byte) (l : List AccElem) : List AccElem :=
  l.zipIdx.map (fun (e, i) =>
    if i / 64 < s.rows then (setProducts s p aBlk bBlk (i / 64) (i % 64)).foldl (addProduct scale) e else e)

/-- The Simmer record after `n` cycles issued out of `total` (R317). -/
def recordIssue (a : Arr) (cls n total : Nat) : Arr :=
  let segs := (if total > n then [(false, total - n)] else []) ++ (true, n) :: a.recWin
  { a with recClass := cls, recWin := trim 256 segs }
where
  trim : Nat → List (Bool × Nat) → List (Bool × Nat)
    | _, [] => []
    | 0, _ => []
    | n, (b, k) :: l => if k ≥ n then [(b, n)] else (b, k) :: trim (n - k) l

/-- Element bytes of an A row (`isA`), or of a whole B set, of a slot: no scales among them (R91, R95). -/
def rowBytes (s : Slot) : Nat := rho s.fmtA * 64 * elemBits s.fmtA / 8
def setElemBytes (s : Slot) : Nat := rho s.fmtB * 4096 * elemBits s.fmtB / 8

/-- The cycles that a set of a slot occupies issue (R95), where the next set reloads alongside it or does not. -/
def setCycles (s : Slot) (alongside : Bool) : Nat :=
  let a := rowBytes s
  let w := setElemBytes s
  if !alongside then s.rows
  else if a + w / 64 ≤ 256 then max s.rows 64
  else 64 + (s.rows - (16384 - w) / a)

/-- Products that a set of a slot forms (R89, R99): its valid rows by 64 columns by the K positions within the slot's
K. -/
def setCount (s : Slot) (p : CadPos) : Nat := s.rows * 64 * min (64 * rho s.fmtA) (s.k - p.set * 64 * rho s.fmtA)

/-- The in-flight count of a parity set (R97). -/
def Arr.setFlight (a : Arr) (parity : Bool) (n : Nat) : Arr :=
  if parity then { a with flight1 := n } else { a with flight0 := n }

/-- True where issue holds although a set may enter (R98, R104): a tile in progress beside a closing one whose capture
meets a busy drain buffer, or two closing tiles before a third. -/
def closingHolds (a : Arr) : Bool :=
  if a.tile.isSome then !a.closing.isEmpty && a.drain.isSome else decide (2 ≤ a.closing.length)

/-- The tile that opens at `p`: the scale automatic selection gave the slot at its load, or its lock; the other parity
than the tile before it (R97, R101). -/
def openTile (a : Arr) (s : Slot) (p : CadPos) : OutTile :=
  let scale := match a.opened with
    | some (q, e) => if q.bank = p.bank ∧ q.iter = p.iter ∧ q.slot = p.slot then e else s.sLock
    | none => s.sLock
  { start := p, s := scale, sInit := scale, locked := s.locked, retries := 0, k := 0, sets := 0, parity := !a.parity,
    forced := false, accs := List.replicate 4096 .zero }

/-- SET_ENTER (R93, R94, R98): the set at the array's position becomes the array's, its products are added, the next
reload begins, and after the chain's last set issue goes on as R100 to R102 and R116 say. `held` are the cycles in
Simmer that no other command of the array has carried: below level 16, at the end of a table, after a fault (R328). -/
def setEnter (w : Wafer) (t held : Nat) : Wafer :=
  let x := tileAt w t
  if blocked w || x.arr.phase != .entry || !setReady x || closingHolds x.arr then w
  else if !levelOk w t then holdRelease (tileBump w t 0x23100 held) t
  else
    let w := tileBump w t 0x23100 held
    let p := x.arr.pos
    let s := slotAt x.cad p
    let bBytes := match x.arr.shadow, noReload x with
      | some h, false => h.bytes
      | _, _ => match x.arr.held with | some h => h.bytes | none => []
    let (aBytes, w) := spLoad w t (aAddr s p).toNat (setBytes s.fmtA)
    match aBytes with
    | none =>
      -- an uncorrectable read: the array holds in Simmer with STATE 3 and FAULT 0x00 (R585)
      noteSimmer (onTile w t (fun x =>
        { x with cad := { x.cad with phase := .faulted, fault := 0 }, arr := { x.arr with phase := .faulted } })) t
    | some aBytes =>
      let x := tileAt w t
      let o := match x.arr.tile with
        | some o => o
        | none => openTile x.arr s p
      let o := { o with accs := accumulate s p o.s aBytes bBytes o.accs
                        k := if p.set = 0 then o.k + s.k else o.k
                        sets := if o.retries = 0 then o.sets + 1 else o.sets }
      let last := decide (p.set + 1 = s.sets)
      let arr := { x.arr with held := some ⟨s.fmtB, (bAddr s p).toNat, bBytes⟩, tile := some o, parity := o.parity
                              shadow := if noReload x then x.arr.shadow else none }
      let w := setTile w t { x with arr := arr.setFlight o.parity (setCount s p) }
      let w := if p.set = 0 then tileBump w t 0x8100 1 else w
      let w := match nextSet x.cad p with
        | some q => beginReload w t q (last && s.hold)
        | none => w
      let w := onTile w t (fun x =>
        { x with arr := recordIssue x.arr (rho s.fmtA) s.rows (setCycles s (match x.arr.shadow with | some h => !h.ready | none => false)) })
      if !last then noteSimmer (onTile w t (fun x => { x with arr := { x.arr with pos := { p with set := p.set + 1 } } })) t
      else if s.hold then leaveSlot w t
      else
        let w := onTile w t (fun x => { x with arr := { x.arr with tile := none, closing := x.arr.closing ++ [(o, p)] } })
        if o.locked then noteSimmer (onTile w t (fun x => { x with arr := { x.arr with phase := .verdict } })) t
        else leaveSlot w t

/-- SHADOW_RELOAD_COMPLETE (R92, R93): the shadow buffer holds its set; cycles that issue held for it count as reload
wait. -/
def shadowComplete (w : Wafer) (t held : Nat) : Wafer :=
  let x := tileAt w t
  match x.arr.shadow with
  | none => w
  | some h =>
    if h.ready then w
    else
      let s := slotAt x.cad h.pos
      let (bs, w) := spLoad w t (bAddr s h.pos).toNat (setBytes s.fmtB)
      match bs with
      | none =>
        noteSimmer (onTile w t (fun x =>
          { x with cad := { x.cad with phase := .faulted, fault := 0 }, arr := { x.arr with phase := .faulted } })) t
      | some bs =>
        let waits := if x.arr.phase = .entry ∧ x.arr.pos = h.pos then held else 0
        let w := tileBump (tileBump w t 0x8118 waits) t 0x23100 waits
        let w := onTile w t (fun x => { x with arr := { x.arr with shadow := some { h with ready := true, bytes := bs } } })
        noteSimmer (if x.arr.phase = .entry then holdRelease w t else w) t

/-- GATE_OPEN (R115, R318): a gated slot whose flag reads 1 issues, or records RELEASE_PENDING below level 16. A gated
idle slot issues no product, so no level holds it. -/
def gateOpen (w : Wafer) (t held : Nat) : Wafer :=
  let x := tileAt w t
  if x.arr.phase != .gate then w
  else
    let s := slotAt x.cad x.arr.pos
    if !flagOf w t s.gateFlag then w
    else if s.kind ≠ 0 ∧ !levelOk w t then holdRelease w t
    else if blocked w then w
    else
      let w := tileBump (tileBump w t 0x8138 held) t 0x23100 held
      noteSimmer (onTile w t (fun x =>
        { x with cad := { x.cad with phase := .issuing }
                 arr := { x.arr with phase := if s.kind = 0 then .idleSlot else .entry } })) t

/-- IDLE_SLOT_END (R114): the next slot follows an idle one. -/
def idleEnd (w : Wafer) (t : Nat) : Wafer :=
  let x := tileAt w t
  if x.arr.phase != .idleSlot || blocked w then w
  else leaveSlot (tileBump w t 0x23100 (slotAt x.cad x.arr.pos).k) t

/-! ### Verdict, repeat, capture (R66, R67, R100 to R109) -/

/-- The overflow test of R60: a product's, or a finite element's final sum. -/
def overflows (l : List AccElem) : Bool :=
  l.any (fun e => e.ovf || (!e.nan && !e.pinf && !e.ninf && decide (e.sum.natAbs ≥ 2 ^ 63)))

/-- True where an element is not finite (R70). -/
def elemNonfinite (e : AccElem) : Bool := e.nan || e.pinf || e.ninf

/-- An element in the FP32 form (R74). -/
def elemF32 (s : Int) (range : Bool) (e : AccElem) : W32 :=
  if range || e.nan || (e.pinf && e.ninf) then nan32
  else if e.pinf then f32Inf false
  else if e.ninf then f32Inf true
  else (f32Round (exactOf ⟨e.sum, s - 46⟩)).1

/-- The non-finite marker of R72. -/
def marker64 : Nat := 0x8000000000000000

/-- A fixed-64 scale header (R73). -/
def header64 (s : Int) (retries flags k : Nat) (sInit : Int) (slot : Nat) : List Byte :=
  leBytes 2 (uint 16 s) ++ leBytes 1 retries ++ leBytes 1 flags ++ leBytes 4 k ++ leBytes 2 (uint 16 sInit) ++
    leBytes 1 slot ++ List.replicate 53 0

/-- The bytes a capture hands to the drain (R72 to R74). -/
def drainOf (s : Slot) (o : OutTile) (slot : Nat) (range : Bool) : List Byte :=
  if s.fp32 then (o.accs.map (fun e => leBytes 4 (elemF32 o.s range e).toNat)).flatten
  else
    let nf := range || o.accs.any elemNonfinite
    header64 o.s o.retries (b2n nf + 2 * b2n range + 4 * b2n o.locked) o.k o.sInit slot ++
      (o.accs.map (fun e => leBytes 8 (if range || elemNonfinite e then marker64 else uint 64 e.sum))).flatten

/-- A drain log entry (R130). -/
def logEntry (s : Slot) (p : CadPos) (o : OutTile) (range nf : Bool) : W64 :=
  BitVec.ofNat 64 (p.iter % 2 ^ 16 * 2 ^ 48 + p.slot * 2 ^ 40 + s.kind * 2 ^ 38 + b2n s.fp32 * 2 ^ 37 + b2n range * 2 ^ 36 +
    b2n nf * 2 ^ 35 + b2n o.locked * 2 ^ 34 + o.retries * 2 ^ 32 + uint 10 o.sInit * 2 ^ 16 + uint 10 o.s)

/-- The slots of the held run of a tile that ended at `p`, with the tile's own slot, in order. -/
def runSlots (c : Cad) (p : CadPos) : Nat → CadPos → List CadPos
  | 0, q => [q]
  | fuel + 1, q =>
    if q.slot = p.slot ∧ q.iter = p.iter then [q]
    else match nextWork c q with
      | some r => q :: runSlots c p fuel r
      | none => [q]

/-- A repeat at S + 8 (R66, R106, R109): C4 rises, the gates of a held run are cleared, and the tile starts again from
its first set. A tile of more than one set reloads that set, and every later one in the chain's order, so the slot
loaded for after the tile is loaded anew (R108). -/
def repeatTile (w : Wafer) (t : Nat) (o : OutTile) (p : CadPos) : Wafer :=
  let x := tileAt w t
  let run := runSlots x.cad p 65536 o.start
  let w := tileBump w t 0x8128 1
  let w := addCtr w t 4 1
  let w := if run.length > 1 then
      run.foldl (fun w q => let s := slotAt x.cad q; if s.gateEn then setFlag w t s.gateFlag false else w) w
    else w
  let o := { o with s := o.s + 8, retries := o.retries + 1, k := 0, accs := List.replicate 4096 .zero }
  let w := onTile w t (fun x =>
    { x with arr := if o.sets = 1 then { x.arr with tile := some o }
                    else { x.arr with tile := some o, shadow := some ⟨o.start, false, []⟩, opened := none, loadFault := none } })
  enterSlot w t o.start

/-- The verdict's injection (R599): point 0x0118, sampled at the first verdict of a locked tile, holds for each of its
attempts. -/
def forceOverflow (w : Wafer) (t : Nat) (o : OutTile) : OutTile × Wafer :=
  if o.locked && decide (o.retries = 0) then
    match tileInject w t 0x0118 0x0118 with
    | (some _, w) => ({ o with forced := true }, w)
    | (none, w) => (o, w)
  else (o, w)

/-- TILE_CAPTURE (R100 to R104, R122, R130): the products of the oldest closing tile have all landed; the verdict of a
locked tile, and its capture into a free drain buffer. -/
def tileCapture (w : Wafer) (t busy : Nat) : Wafer :=
  let x := tileAt w t
  match x.arr.closing with
  | [] => w
  | (o, p) :: rest =>
    let s := slotAt x.cad p
    let (o, w') := forceOverflow w t o
    let ovf := o.locked && (o.forced || overflows o.accs)
    let pop (w : Wafer) : Wafer := onTile w t (fun x => { x with arr := { x.arr with closing := rest }.setFlight o.parity 0 })
    if ovf ∧ o.retries < 3 ∧ o.s + 8 ≤ 511 then
      repeatTile (tileBump (tileBump (pop w') t 0x8110 9) t 0x23100 9) t o p
    else if x.arr.drain.isSome then w
    else
      let range := ovf
      let nf := range || o.accs.any elemNonfinite
      let w := onTile (pop w') t (fun x =>
        { x with cad := { x.cad with log := mput x.cad.log x.cad.logIdx.toNat (logEntry s p o range nf)
                                     logIdx := x.cad.logIdx + 1 }
                 arr := { x.arr with drain := some ⟨(dAddr s p).toNat, drainOf s o p.slot range⟩ } })
      let w := tileBump (tileBump (tileBump w t 0x8108 1) t 0x8120 busy) t 0x23100 busy
      let w := if range then postTile (tileBump w t 0x8130 1) t 0x0118 1 0 0 o.forced else w
      if o.locked then
        let w := tileBump (tileBump w t 0x8110 9) t 0x23100 9
        if x.arr.phase = .verdict then leaveSlot w t else w
      else w

/-- DRAIN_WRITE_COMPLETE (R103, R295): the captured tile is visible in scratchpad, then C0 rises. Point 0x0107 makes
the drain buffer's content uncorrectable, which the write leaves in the scratchpad. -/
def drainComplete (w : Wafer) (t : Nat) : Wafer :=
  match (tileAt w t).arr.drain with
  | none => w
  | some d =>
    let w := onTile w t (fun x => { x with arr := { x.arr with drain := none } })
    let w := spStore w t d.addr d.bytes
    let w := match tileInject w t 0x0107 0x0107 with
      | (some _, w) => postTile (onTile w t (fun x => { x with spUnc := x.spUnc ++ [d.addr / 8] })) t 0x0107 1 0 d.addr true
      | (none, w) => w
    addCtr w t 0 1

/-- TABLE_COMPLETE (R124): the swap to an armed standby bank, else RUN clears and the array holds in Simmer. -/
def tableComplete (w : Wafer) (t : Nat) : Wafer :=
  let x := tileAt w t
  if x.arr.phase != .tableEnd then w
  else if x.cad.arm then
    let b := !x.cad.active
    let w := setTile w t { x with cad := { x.cad with active := b, arm := false } }
    let w := match firstWork x.cad b with
      | some p => beginReload w t p false
      | none => w
    enterSlot (noteTable w t b) t ⟨b, 0, 0, 0⟩
  else
    noteSimmer (setTile w t
      { x with cad := { x.cad with run := false, phase := .holding }, arr := { x.arr with phase := .rest } }) t

/-- A write of CAD_CTRL (R127): the ARM bit takes effect, RUN starts a table that is not running. Disarming discards a
reload begun under ARM, and the load of a slot that failed under it (R94). False where the write asks RUN of a running table. -/
def writeCadCtrl (w : Wafer) (t : Nat) (v : W64) : Bool × Wafer :=
  let x := tileAt w t
  let arm := v.getLsbD 2
  let drop := x.cad.arm && !arm
  let shadow := match x.arr.shadow with
    | some h => if drop && decide (h.pos.bank ≠ x.cad.active) then none else some h
    | none => none
  let loadFault := match x.arr.loadFault with
    | some (q, c) => if drop && decide (q.bank ≠ x.cad.active) then none else some (q, c)
    | none => none
  let w := setTile w t
    { x with cad := { x.cad with arm := arm }, arr := { x.arr with shadow := shadow, loadFault := loadFault } }
  if v.getLsbD 0 then (if x.cad.run then (false, w) else (true, startTable w t)) else (true, w)

end Sys2Proof.Machine
end

