-- ==== Sys2Proof/Machine/Operands.lean ====
section
/-!
DEFINITION. The instruction word and the operand forms of the vector and scalar core (05 R162 to R174): registers,
window lines, scalar broadcasts and tagged immediates, read and written, with the faults of R203 that an operand can
raise.
-/

namespace Sys2Proof.Machine

open Sys2Proof

/-! ### The instruction word (R172) -/

def wCls (v : Nat) : Nat := bits v 63 59
def wFunc (v : Nat) : Nat := bits v 58 53
def wDst (v : Nat) : Nat := bits v 52 44
def wSrc1 (v : Nat) : Nat := bits v 43 34
def wSrc2 (v : Nat) : Nat := bits v 33 24
def wRnd (v : Nat) : Bool := bitOf v 23
def wPred (v : Nat) : Bool := bitOf v 22
def wImm (v : Nat) : Nat := bits v 21 0

/-- A source specifier that R174 refuses: a reserved file, or reserved bits nonzero. -/
def badSrc (s : Nat) : Bool :=
  match bits s 9 8 with
  | 0 => decide (bits s 7 5 > 4)
  | 2 => decide (bits s 7 5 ≠ 0)
  | 3 => decide (bits s 7 0 ≠ 0)
  | _ => false

/-- An illegal word (R174), as far as its fields decide: a reserved class, a reserved FUNC of class 0x0C, a reserved
file, two immediates, or reserved bits of an immediate or of a conversion's extension field. -/
def illegalWord (v : Nat) : Bool :=
  let imm1 := bits (wSrc1 v) 9 8 == 3
  let imm2 := bits (wSrc2 v) 9 8 == 3
  let tag := bits v 21 20
  decide (wCls v > 13) || (decide (wCls v = 12) && decide (wFunc v > 8)) ||
    (!bitOf (wDst v) 8 && decide (bits (wDst v) 7 5 > 4)) || badSrc (wSrc1 v) || badSrc (wSrc2 v) || (imm1 && imm2) ||
    ((imm1 || imm2) && ((decide (tag = 2) && decide (bits v 19 17 ≠ 0)) || (decide (tag = 3) && decide (bits v 19 8 ≠ 0)))) ||
    (decide (wCls v = 6) && !(imm1 || imm2) && decide (bits v 21 12 ≠ 0))

/-! ### Registers -/

/-- Lane `i` of v*r* (R162). -/
def lane (c : Vc) (r i : Nat) : W32 := mget 0 c.v (64 * r + i)

/-- The 64 lanes of v*r*. -/
def lanes (c : Vc) (r : Nat) : List W32 := (List.range 64).map (lane c r)

/-- s*n* (R165). -/
def sreg (c : Vc) (n : Nat) : W64 := mget 0 c.s n

/-- Lanes of v*r* written where the mask has a 1 (R166). -/
def putLanes (c : Vc) (r : Nat) (mask : W64) (vals : List W32) : Vc :=
  { c with v := (vals.zipIdx).foldl (fun m p => if mask.getLsbD p.2 then mput m (64 * r + p.2) p.1 else m) c.v }

/-- s*n* written. -/
def putS (c : Vc) (n : Nat) (v : W64) : Vc := { c with s := mput c.s n v }

/-- The 64 values of p*k* (R164). -/
def pairVals (c : Vc) (k : Nat) : List W64 :=
  (List.range 64).map (fun i => (lane c (2 * k + 1) i) ++ (lane c (2 * k) i))

/-- Values written to p*k* under a mask. -/
def putPair (c : Vc) (k : Nat) (mask : W64) (vals : List W64) : Vc :=
  putLanes (putLanes c (2 * k) mask (vals.map (·.setWidth 32))) (2 * k + 1) mask (vals.map (fun v => v.extractLsb' 32 32))

/-- The lanes an instruction writes (R166). -/
def laneMask (c : Vc) (wd : Nat) : W64 := if wPred wd then c.lm else BitVec.allOnes 64

/-- The vector core of a tile changed. -/
def onVc (w : Wafer) (t : Nat) (f : Vc → Vc) : Wafer := onTile w t (fun x => { x with vc := f x.vc })

/-! ### Faults of the core (R203) -/

/-- The core stops at the faulting instruction with a code and a detail, and the fault is posted. Code 0x07 is an
uncorrectable read (R585). -/
def vcFault (w : Wafer) (t code : Nat) (detail : Nat) (inj : Bool := false) : Wafer :=
  let w := onVc w t (fun c =>
    { c with phase := .faulted, run := false, fault := BitVec.ofNat 8 code, detail := BitVec.ofNat 64 detail })
  postTile w t (0x0120 + code) (if code = 7 then 1 else 2) code (detail % 2 ^ 40) inj

/-- A refused sync operation (R306): fault 0x09, LAST_FAULT and CNT_SYNC_REFUSED. -/
def syncRefuse (w : Wafer) (t code : Nat) (inj : Bool := false) : Wafer :=
  let w := onTile w t (fun x =>
    { x with sync := { x.sync with lastFault := BitVec.ofNat 8 code }, ctrs := bumpAt x.ctrs 0x23110 1 })
  vcFault (postTile w t (0x0140 + code) 2 code 0 inj) t 9 code

/-! ### Sources -/

/-- The scratchpad offset of a window line (R167, R168). -/
def lineOff (c : Vc) (l : Nat) : Nat := 0x60000 + 0x10000 * c.winPos.toNat + 256 * l

/-- 64 lanes of 256 bytes. -/
def bytesToLanes (bs : List Byte) : List W32 := (List.range 64).map (fun i => BitVec.ofNat 32 (fieldN bs (4 * i) 4))

/-- The 256 bytes of 64 lanes. -/
def lanesToBytes (l : List W32) : List Byte := (l.map (fun v => leBytes 4 v.toNat)).flatten

/-- A line read over the window port, with fault 0x02 while WIN_EN is 0 and 0x07 for an uncorrectable word. -/
def readLine (w : Wafer) (t l : Nat) : Option (List Byte) × Wafer :=
  let c := (tileAt w t).vc
  if !c.winEn then (none, vcFault w t 2 l)
  else match spLoad w t (lineOff c l) 256 with
    | (some bs, w) => (some bs, w)
    | (none, w) => (none, vcFault w t 7 (lineOff c l))

/-- The lane value of an immediate (R173): even and odd lanes. -/
def immLanes (c : Vc) (v : Nat) : W32 × W32 :=
  let val := bits v 19 0
  match bits v 21 20 with
  | 0 => (BitVec.ofInt 32 (sint 20 val), BitVec.ofInt 32 (sint 20 val))
  | 1 => (BitVec.ofNat 32 (val * 4096), BitVec.ofNat 32 (val * 4096))
  | 2 =>
    let f := if bitOf val 16 then fp8e5m2 else fp8e4m3
    ((f32OfVal (fpDecode f (bits val 7 0))).1, (f32OfVal (fpDecode f (bits val 15 8))).1)
  | _ => (mget 0 c.consts (bits val 7 0), mget 0 c.consts (bits val 7 0))

/-- The 64-bit value of an immediate in a scalar operation: int20 is sign-extended to 64 bits (R173). The other tags
give 32 bits, which R173 does not widen: they are zero-extended, those of the even lanes (DESIGN CHOICE 92). -/
def immScalar (c : Vc) (v : Nat) : W64 :=
  match bits v 21 20 with
  | 0 => BitVec.ofInt 64 (sint 20 (bits v 19 0))
  | _ => (immLanes c v).1.setWidth 64

/-- The word of an illegal instruction is its fault's detail (R203). -/
def illegal (w : Wafer) (t wd : Nat) : Wafer := vcFault w t 1 wd

/-- A source as 64 lanes (R172): a vector register, a window line, a scalar broadcast or an immediate. A register of
another file is no lane source and makes the instruction illegal. The core has faulted where there is no value. -/
def srcLanes (w : Wafer) (t wd src : Nat) : Option (List W32) × Wafer :=
  let c := (tileAt w t).vc
  match bits src 9 8 with
  | 0 => if bits src 7 5 = 0 then (some (lanes c (bits src 4 0)), w) else (none, illegal w t wd)
  | 1 => match readLine w t (bits src 7 0) with
    | (some bs, w) => (some (bytesToLanes bs), w)
    | (none, w) => (none, w)
  | 2 => (some (List.replicate 64 ((sreg c (bits src 4 0)).setWidth 32)), w)
  | _ =>
    let (a, b) := immLanes c wd
    (some ((List.range 64).map (fun i => if i % 2 = 0 then a else b)), w)

/-- A source as a 64-bit scalar: a scalar register, lm, a scalar broadcast or an immediate. A broadcast gives a scalar
operation the whole register; R172 speaks of its 32-bit value for lanes only (DESIGN CHOICE 92). -/
def srcScalar (w : Wafer) (t wd src : Nat) : Option W64 × Wafer :=
  let c := (tileAt w t).vc
  match bits src 9 8, bits src 7 5 with
  | 0, 1 => (some (sreg c (bits src 4 0)), w)
  | 0, 4 => (some c.lm, w)
  | 2, _ => (some (sreg c (bits src 4 0)), w)
  | 3, _ => (some (immScalar c wd), w)
  | _, _ => (none, illegal w t wd)

/-- A source as a pair register (R164). -/
def srcPair (w : Wafer) (t wd src : Nat) : Option (List W64) × Wafer :=
  if bits src 9 8 = 0 ∧ bits src 7 5 = 3 ∧ bits src 4 0 < 16 then
    (some (pairVals (tileAt w t).vc (bits src 4 0)), w)
  else (none, illegal w t wd)

/-- A source as the eight rows of a tile register (R163). -/
def srcTile (w : Wafer) (t wd src : Nat) : Option (List (List W32)) × Wafer :=
  if bits src 9 8 = 0 ∧ bits src 7 5 = 2 ∧ bits src 4 0 < 4 then
    (some ((List.range 8).map (fun i => lanes (tileAt w t).vc (8 * bits src 4 0 + i))), w)
  else (none, illegal w t wd)

/-! ### Destinations -/

/-- A destination that an instruction names. -/
inductive Dest where
  | v (r : Nat) | s (n : Nat) | tile (j : Nat) | pair (k : Nat) | lm | line (l : Nat)
  deriving DecidableEq, Repr

/-- The destination field (R172); none where its index names no register. -/
def destOf (d : Nat) : Option Dest :=
  if bitOf d 8 then some (.line (bits d 7 0))
  else match bits d 7 5 with
    | 0 => some (.v (bits d 4 0))
    | 1 => some (.s (bits d 4 0))
    | 2 => if bits d 4 0 < 4 then some (.tile (bits d 4 0)) else none
    | 3 => if bits d 4 0 < 16 then some (.pair (bits d 4 0)) else none
    | 4 => some .lm
    | _ => none

/-- A destination for 64 lanes: a vector register or a window line; the core has faulted where there is none. -/
def laneDest (w : Wafer) (t wd : Nat) : Option Dest × Wafer :=
  match destOf (wDst wd) with
  | some (.v r) => (some (.v r), w)
  | some (.line l) => if (tileAt w t).vc.winEn then (some (.line l), w) else (none, vcFault w t 2 l)
  | _ => (none, illegal w t wd)

/-- The 256 bytes a lane destination holds now. -/
def destBytes (w : Wafer) (t : Nat) (d : Dest) : List Byte :=
  let x := tileAt w t
  match d with
  | .v r => lanesToBytes (lanes x.vc r)
  | .line l => x.sp.readN (lineOff x.vc l) 256
  | _ => List.replicate 256 0

/-- The lanes a destination holds, read by an instruction that adds to them: a window line is read over its port, with
the faults of a read (R203). -/
def destLanes (w : Wafer) (t : Nat) (d : Dest) : Option (List W32) × Wafer :=
  match d with
  | .v r => (some (lanes (tileAt w t).vc r), w)
  | .line l => match readLine w t l with
    | (some bs, w) => (some (bytesToLanes bs), w)
    | (none, w) => (none, w)
  | _ => (some (List.replicate 64 0), w)

/-- 256 bytes written to a lane destination; a window line is a partial write of the scratchpad (R222). -/
def putBytes (w : Wafer) (t : Nat) (d : Dest) (bs : List Byte) : Wafer :=
  match d with
  | .v r => onVc w t (fun c => putLanes c r (BitVec.allOnes 64) (bytesToLanes bs))
  | .line l => spStore w t (lineOff (tileAt w t).vc l) bs
  | _ => w

/-- 64 lanes written under a mask. -/
def writeLanes (w : Wafer) (t : Nat) (d : Dest) (mask : W64) (vals : List W32) : Wafer :=
  match d with
  | .v r => onVc w t (fun c => putLanes c r mask vals)
  | .line l =>
    let old := bytesToLanes (destBytes w t d)
    let new := (List.range 64).map (fun i => if mask.getLsbD i then vals.getD i 0 else old.getD i 0)
    spStore w t (lineOff (tileAt w t).vc l) (lanesToBytes new)
  | _ => w

/-- A scalar destination: a scalar register or lm; the core has faulted where there is none. -/
def scalarDest (w : Wafer) (t wd : Nat) : Option Dest × Wafer :=
  match destOf (wDst wd) with
  | some (.s n) => (some (.s n), w)
  | some .lm => (some .lm, w)
  | _ => (none, illegal w t wd)

/-- A scalar written. -/
def writeScalar (w : Wafer) (t : Nat) (d : Dest) (v : W64) : Wafer :=
  match d with
  | .s n => onVc w t (fun c => putS c n v)
  | .lm => onVc w t (fun c => { c with lm := v })
  | _ => w

/-- A comparison's 64 results written to lm under the mask (R166, R176). -/
def writeLm (w : Wafer) (t : Nat) (mask : W64) (rs : List Bool) : Wafer :=
  onVc w t (fun c =>
    { c with lm := (rs.zipIdx).foldl (fun m p =>
        if mask.getLsbD p.2 then (if p.1 then m ||| (1#64 <<< p.2) else m &&& ~~~(1#64 <<< p.2)) else m) c.lm })

end Sys2Proof.Machine
end

