-- ==== Sys2Proof/Machine/Flags.lean ====
section
/-!
DEFINITION. The sticky arithmetic flags of the vector core (05 R182, R209), the count of instructions with non-finite
results (R211), and the flag computations of the integer operations.
-/

namespace Sys2Proof.Machine

open Sys2Proof

/-- Flags raised by the lanes of a mask stay set until written 1 (R166, R182, R209). -/
def raiseFlags (w : Wafer) (t : Nat) (f : FpFlags) : Wafer :=
  onVc w t (fun c => { c with flags := c.flags ||| f.word })

/-- The flags of the enabled lanes together. -/
def maskedFlags (mask : W64) (l : List FpFlags) : FpFlags :=
  (l.zipIdx).foldl (fun a p => if mask.getLsbD p.2 then a.or p.1 else a) .none

/-- CNT_NONFINITE rises where an enabled lane is written non-finite (R211). -/
def noteNonfinite (w : Wafer) (t : Nat) (mask : W64) (vals : List W32) : Wafer :=
  if (vals.zipIdx).any (fun p => mask.getLsbD p.2 && !f32Finite p.1) then tileBump w t 0x19120 1 else w

/-- CNT_NONFINITE for an instruction whose results are not FP32 lanes (R211). -/
def noteIf (w : Wafer) (t : Nat) (nonfinite : Bool) : Wafer := if nonfinite then tileBump w t 0x19120 1 else w

/-- The same for values of a pair register: a lane with the non-finite marker (R72). -/
def notePairs (w : Wafer) (t : Nat) (mask : W64) (vals : List W64) : Wafer :=
  noteIf w t ((vals.zipIdx).any (fun p => mask.getLsbD p.2 && p.1 == 0x8000000000000000))

/-- A conversion's flags with NV for a signaling NaN among its inputs (R182): IEEE 754's rule for every operation. -/
def signaled {α : Type} (a : W32) (r : α × FpFlags) : α × FpFlags := (r.1, r.2.or (snanFlags [a]))

/-- IOV where an exact int32 result does not fit (R182). -/
def iovOf (i : Int) : FpFlags := { FpFlags.none with iov := decide (i < -(2 ^ 31) ∨ (2 ^ 31 : Int) ≤ i) }

end Sys2Proof.Machine
end

