-- ==== Sys2Proof/Machine/Vector.lean ====
section
/-!
DEFINITION. The vector and scalar core (05): fetch and retirement, control, scalar, vector, conversion, special
function, reduction, load, store and block store instructions. An instruction is the word at the program counter; its
operation within the class is the command's, since R172 and R176 give the FUNC codes of class 0x0C only.
-/

namespace Sys2Proof.Machine

open Sys2Proof

/-- Go on with the value, or keep the wafer in which the core has faulted. -/
def withO {α : Type} (p : Option α × Wafer) (k : α → Wafer → Wafer) : Wafer :=
  match p with
  | (some a, w) => k a w
  | (none, w) => w

/-- The word the core issues next. -/
def fetch (w : Wafer) (t : Nat) : Nat := let c := (tileAt w t).vc; (mget (0 : W64) c.istore c.pc).toNat

/-- True where a word takes a lane constant as its immediate (R173). -/
def usesConst (v : Nat) : Bool :=
  (bits (wSrc1 v) 9 8 == 3 || bits (wSrc2 v) 9 8 == 3) && bits v 21 20 == 3

/-- True where the core issues, and the word it issues next is of class `cls`. -/
def coreReady (w : Wafer) (t cls : Nat) : Bool :=
  let c := (tileAt w t).vc
  !(blocked w || !usable w t || c.phase != .running || c.waits != []) && decide (c.pc ≤ 4095) && wCls (fetch w t) == cls

/-- What the accesses of the instruction that issues next waited, counted (R211, R218, R219, R253): CNT_NARROW_WAIT,
CNT_SP_STARVE and CNT_WIN_WAIT. -/
def coreWaits (w : Wafer) (t cls : Nat) (c : CoreWaits) : Wafer :=
  if coreReady w t cls then
    tileBump (tileBump (tileBump w t 0x19108 c.narrow) t 0x20220 c.starved) t 0x19110 c.window
  else w

/-- The detail of an injected fault of the core (R203): the word or the program counter where the code's detail is one of
them; the operand of an access that has not been made is no value (DESIGN CHOICE 93: 0). -/
def injectedDetail (w : Wafer) (t code : Nat) : Nat :=
  if code = 1 ∨ code = 4 then fetch w t else if code = 6 then (tileAt w t).vc.pc else 0

/-- One instruction of class `cls` on tile `t` (R174, R175, R203): it does nothing where the core does not run, or
where the word at the program counter is of another class; it faults where the program counter is beyond the store or
the word is illegal; points 0x0121 to 0x012A force a fault; a store word that cannot be corrected is detected here
(R585). A scalar register still due from a remote read holds issue. -/
def coreStep (w : Wafer) (t cls : Nat) (f : Nat → Wafer → Wafer) : Wafer :=
  let c := (tileAt w t).vc
  if blocked w || !usable w t || c.phase != .running || c.waits != [] then w
  else if c.pc > 4095 then vcFault w t 6 c.pc
  else
    match tileInject w t 0x0121 0x012A with
    | (some p, w) => vcFault w t (p - 0x0120) (injectedDetail w t (p - 0x0120)) true
    | (none, w) =>
      let v := fetch w t
      let bad := (tileAt w t).cfgBad
      let k := 0x18000 + 8 * bits v 7 0
      if bad.contains (0x10000 + 8 * c.pc) then postTile w t 0x0106 1 0 (0x10000 + 8 * c.pc)
      else if usesConst v && bad.contains k then postTile w t 0x0106 1 0 k
      else
        if illegalWord v then illegal w t v
        else if wCls v ≠ cls then w
        else f v w

/-- The program counter after an instruction inside the innermost repeated block (R176). -/
def nextPc (c : Vc) : Vc :=
  match c.loops with
  | [] => { c with pc := c.pc + 1 }
  | l :: rest =>
    if c.pc ≠ l.last then { c with pc := c.pc + 1 }
    else if l.left > 1 then { c with pc := l.first, loops := { l with left := l.left - 1 } :: rest }
    else { c with pc := c.pc + 1, loops := rest }

/-- An instruction completes: the program counter moves on and CNT_VINSTR rises (R211). -/
def retire (w : Wafer) (t : Nat) : Wafer := tileBump (onVc w t nextPc) t 0x19100 1

/-- A write of VC_CTRL with RUN set starts a core that is not running at START_PC (R208). False where it runs. -/
def writeVcCtrl (w : Wafer) (t : Nat) (v : W64) : Bool × Wafer :=
  let start := bits v.toNat 27 16
  let w := onVc w t (fun c => { c with startPc := start })
  if v.getLsbD 0 then
    if (tileAt w t).vc.run then (false, w)
    else (true, onVc w t (fun c => { c with run := true, phase := .running, pc := start, fault := 0, loops := [] }))
  else (true, w)

/-- A write of VC_WIN (R207, R210): the error code, 0 where it takes effect. -/
def writeVcWin (w : Wafer) (t : Nat) (v : W64) : Nat × Wafer :=
  let pos := bits v.toNat 3 1
  if (tileAt w t).vc.run then (3, w)
  else if pos > 5 then (4, w)
  else (0, onVc w t (fun c => { c with winPos := BitVec.ofNat 3 pos, winEn := v.getLsbD 0 }))

/-! ### Control (class 0x00) -/

/-- HALT (R208, R209): RUN clears, the halt code is recorded, PC stays at the halting instruction. The all-zero word
is HALT with code 0 (R174). -/
def opHalt (w : Wafer) (t : Nat) : Wafer :=
  coreStep w t 0 (fun v w =>
    let code := if v = 0 then 0 else Config.haltCode (BitVec.ofNat 64 v)
    tileBump (onVc w t (fun c => { c with phase := .stopped, run := false, haltCode := code, loops := [] })) t 0x19100 1)

/-- BR: a taken branch continues at its target. R172 gives the classes but 0x0C no FUNC codes: of the words of class 0x00
only the all-zero one is kept for HALT alone, and every other word runs the command's operation (DESIGN CHOICE 92). -/
def opBr (w : Wafer) (t : Nat) (taken : Bool) (target : Nat) : Wafer :=
  coreStep w t 0 (fun v w =>
    if v = 0 then w
    else if taken then tileBump (onVc w t (fun c => { c with pc := target })) t 0x19100 1
    else retire w t)

/-- LOOP: the following block of `length` instructions runs `count` times; a count or a length of 0 skips it. -/
def opLoop (w : Wafer) (t count length : Nat) : Wafer :=
  coreStep w t 0 (fun v w =>
    if v = 0 then w
    else if count = 0 ∨ length = 0 then
      tileBump (onVc w t (fun c => { c with pc := c.pc + 1 + length })) t 0x19100 1
    else
      tileBump (onVc w t (fun c =>
        { c with pc := c.pc + 1, loops := ⟨c.pc + 1, c.pc + length, count⟩ :: c.loops })) t 0x19100 1)

/-- True where every earlier store of the core is visible: no store of it, narrow or to an area, is unacknowledged (R177,
R264). -/
def storesDone (w : Wafer) (t : Nat) : Bool :=
  !(w.net.inflight.any (fun p =>
    match p.owner with
    | .core _ => decide (p.src = .tile t ∨ p.dst = .tile t)
    | _ => false))

/-- FENCE (R177). -/
def opFence (w : Wafer) (t : Nat) : Wafer :=
  coreStep w t 0 (fun v w => if v = 0 ∨ !storesDone w t then w else retire w t)

/-- WINSET (R168, R171). -/
def opWinset (w : Wafer) (t pos : Nat) (en : Bool) : Wafer :=
  coreStep w t 0 (fun v w =>
    if v = 0 then w
    else if pos > 5 then illegal w t v
    else retire (onVc w t (fun c => { c with winPos := BitVec.ofNat 3 pos, winEn := en })) t)

/-! ### Scalar (classes 0x01 and 0x02) -/

/-- A 64-bit result of a scalar operation. A shift by 64 or more has no stated result and is a free value. -/
def scalarFn (fn : ScalarFn) (a b c : W64) : W64 × FpFlags :=
  let shift (r : W64) : W64 := if b.toNat < 64 then r else Config.freeDouble 0 a b
  let fp (r : W32 × FpFlags) : W64 × FpFlags := ((Config.freeDouble 1 a b).extractLsb' 32 32 ++ r.1, r.2)
  let a32 : W32 := a.setWidth 32
  let b32 : W32 := b.setWidth 32
  match fn with
  | .add => (a + b, .none)
  | .sub => (a - b, .none)
  | .mul => (a * b, .none)
  | .and => (a &&& b, .none)
  | .or => (a ||| b, .none)
  | .xor => (a ^^^ b, .none)
  | .not => (~~~a, .none)
  | .shl => (shift (a <<< (b.toNat % 64)), .none)
  | .shr => (shift (a >>> (b.toNat % 64)), .none)
  | .sar => (shift (a.sshiftRight (b.toNat % 64)), .none)
  | .cmpEq => (if a = b then 1 else 0, .none)
  | .cmpLt => (if a.slt b then 1 else 0, .none)
  | .cmpLtu => (if a.ult b then 1 else 0, .none)
  | .fadd => fp (f32Add a32 b32)
  | .fmul => fp (f32Mul a32 b32)
  | .ffma => fp (f32Fma a32 b32 (c.setWidth 32))

/-- The value a scalar destination holds now. -/
def destScalar (w : Wafer) (t : Nat) (d : Dest) : W64 :=
  match d with
  | .s n => sreg (tileAt w t).vc n
  | .lm => (tileAt w t).vc.lm
  | _ => 0

/-- SCALAR_OP (R176, R179): an FP32 operation uses bits [31:0] of its operands. -/
def opScalar (w : Wafer) (t : Nat) (fn : ScalarFn) : Wafer :=
  coreStep w t 1 (fun v w =>
    withO (srcScalar w t v (wSrc1 v)) (fun a w =>
      withO (srcScalar w t v (wSrc2 v)) (fun b w =>
        withO (scalarDest w t v) (fun d w =>
          let (r, fl) := scalarFn fn a b (destScalar w t d)
          let fp := match fn with | .fadd => true | .fmul => true | .ffma => true | _ => false
          let w := raiseFlags (writeScalar w t d r) t fl
          retire (if fp then noteNonfinite w t 1 [r.setWidth 32] else w) t))))

/-- An address fault of an access by tile `t` (R13, R225): point 0x0161 forces one. -/
def addressFault (w : Wafer) (t a : Nat) : Wafer := postTile w t 0x0161 0 0 (a % 2 ^ 40)

/-- A scalar address: region byte 0 is an offset of the own scratchpad, any other value a device address. -/
def scalarPlace (w : Wafer) (t a : Nat) : Place :=
  if bits a 63 56 = 0 then (if a + 8 ≤ spBytes then .scratch t a else .fault) else place w t a

/-- The place an access of a tile reaches: point 0x0161 makes the next access to region 0x01 or 0x02 an address fault
(R599). -/
def accessPlace (w : Wafer) (t a : Nat) : Place × Wafer :=
  let p := scalarPlace w t a
  if bits a 63 56 = 1 ∨ bits a 63 56 = 2 then
    (match tileInject w t 0x0161 0x0161 with
      | (some _, w) => (.fault, w)
      | (none, w) => (p, w))
  else (p, w)

/-- The end of the network that serves a place, and the sender's channel. -/
def placeEnd (t : Nat) (p : Place) : Endpoint :=
  match p with
  | .scratch u _ => .tile u
  | .bds u _ => .tile u
  | .hbm k _ => .rim k
  | .acc _ k _ _ => .rim k
  | .comp _ => .rim (compRim t)
  | _ => .comp

/-- True where an access to a place goes out over the network of its tile. -/
def leavesTile (p : Place) (t : Nat) : Bool :=
  match p with
  | .scratch u _ => u != t
  | .bds u _ => u != t
  | .unassigned => false
  | .fault => false
  | _ => true

/-- SCALAR_LOAD_STORE (R176, R203): 8 bytes of the own scratchpad at once, of the own slice at once, or remote over
VC6, or as an ACC packet over VC4 to an accumulation area (R357), a remote load holding the destination until its reply; an
access to a bank group of the own slice that is not up wakes it and waits (R233), one to a bank that refreshes waits (R231),
and so does a remote one while the interface has no free tag (R273). The load's address is SRC1; the store's value is SRC1 and
its address SRC2. An unassigned region reads zero and discards (R13). -/
def opScalarMem (w : Wafer) (t : Nat) (dir : MemDir) : Wafer :=
  coreStep w t 2 (fun v w =>
    withO (srcScalar w t v (if dir = .load then wSrc1 v else wSrc2 v)) (fun a w =>
      let a := a.toNat
      if a % 8 ≠ 0 then vcFault w t 3 a
      else if (match scalarPlace w t a with
          | .bds u off => decide (u = t) && !bdsReady w t off 8
          | _ => false) then lateWake w t (bits a 27 0) 8
      else if leavesTile (scalarPlace w t a) t && !tagFree w t then w
      else
        let (pl, w) := accessPlace w t a
        match dir with
        | .load =>
          withO (scalarDest w t v) (fun d w =>
            match pl with
            | .scratch u off =>
              if u = t then
                match spLoad w t off 8 with
                | (some bs, w) => retire (writeScalar w t d (BitVec.ofNat 64 (leNat bs))) t
                | (none, w) => vcFault w t 7 off
              else remoteLoad w d (.tile u) a
            | .bds u off =>
              if u = t then
                match bdsLoad w t off 8 with
                | (some bs, w) => retire (writeScalar w t d (BitVec.ofNat 64 (leNat bs))) t
                | (none, w) => vcFault w t 7 off
              else remoteLoad w d (.tile u) a
            | .unassigned => retire (addressFault (writeScalar w t d 0) t a) t
            | .fault =>
              if bits a 63 56 = 0 then vcFault w t 3 a else retire (addressFault (writeScalar w t d 0) t a) t
            | p => remoteLoad w d (placeEnd t p) a)
        | .store =>
          withO (srcScalar w t v (wSrc1 v)) (fun val w =>
            let bs := leBytes 8 val.toNat
            match pl with
            | .acc k r x o => toArea w (placeEnd t (.acc k r x o)) a bs
            | .scratch u off => if u = t then retire (spStore w t off bs) t else remoteStore w (.tile u) a bs
            | .bds u off => if u = t then retire (bdsStore w t off bs) t else remoteStore w (.tile u) a bs
            | .unassigned => retire (addressFault w t a) t
            | .fault => if bits a 63 56 = 0 then vcFault w t 3 a else retire (addressFault w t a) t
            | p => remoteStore w (placeEnd t p) a bs)))
where
  remoteLoad (w : Wafer) (d : Dest) (e : Endpoint) (a : Nat) : Wafer :=
    let n := match d with | .s n => n | _ => 32
    let w := onVc w t (fun c => { c with waits := c.waits ++ [⟨.load, n⟩] })
    request w t e 6 (.nrd a) (.core (tileAt w t).vc.pc) a
  remoteStore (w : Wafer) (e : Endpoint) (a : Nat) (bs : List Byte) : Wafer :=
    retire (request w t e 6 (.nwr a bs) (.core (tileAt w t).vc.pc) a) t
  toArea (w : Wafer) (e : Endpoint) (a : Nat) (bs : List Byte) : Wafer :=
    retire (request w t e 4 (.acc a bs) (.core (tileAt w t).vc.pc) a) t

/-! ### Vector arithmetic (classes 0x03 to 0x05) -/

/-- VECTOR_FP32 (R176, R179, R180). -/
def opFp32 (w : Wafer) (t : Nat) (fn : Fp32Fn) : Wafer :=
  coreStep w t 3 (fun v w =>
    withO (srcLanes w t v (wSrc1 v)) (fun a w =>
      withO (srcLanes w t v (wSrc2 v)) (fun b w =>
        let mask := laneMask (tileAt w t).vc v
        match fn with
        | .cmp c =>
          if destOf (wDst v) = some .lm then
            let rs := List.zipWith (f32Cmp c) a b
            retire (raiseFlags (writeLm w t mask (rs.map Prod.fst)) t (maskedFlags mask (rs.map Prod.snd))) t
          else illegal w t v
        | .fma =>
          withO (laneDest w t v) (fun d w =>
            withO (destLanes w t d) (fun old w =>
              finishFp w t d mask ((List.zip a b).zipIdx.map (fun p => f32Fma p.1.1 p.1.2 (old.getD p.2 0)))))
        | _ =>
          withO (laneDest w t v) (fun d w =>
            finishFp w t d mask (List.zipWith (fun x y =>
              match fn with
              | .add => f32Add x y
              | .sub => f32Sub x y
              | .mul => f32Mul x y
              | .min => f32Min x y
              | _ => f32Max x y) a b)))))
where
  finishFp (w : Wafer) (t : Nat) (d : Dest) (mask : W64) (rs : List (W32 × FpFlags)) : Wafer :=
    let w := writeLanes w t d mask (rs.map Prod.fst)
    let w := raiseFlags w t (maskedFlags mask (rs.map Prod.snd))
    retire (noteNonfinite w t mask (rs.map Prod.fst)) t

/-- One lane of an int32 operation (R176, R182). A shift by 32 or more has no stated result. -/
def intLane (fn : IntFn) (a b : W32) : W32 × FpFlags :=
  let shift (r : W32) : W32 := if b.toNat < 32 then r else Config.freeLane 0 a b
  match fn with
  | .add => (a + b, iovOf (a.toInt + b.toInt))
  | .sub => (a - b, iovOf (a.toInt - b.toInt))
  | .shl => (shift (a <<< (b.toNat % 32)), .none)
  | .shr => (shift (a >>> (b.toNat % 32)), .none)
  | .sar => (shift (a.sshiftRight (b.toNat % 32)), .none)
  | .and => (a &&& b, .none)
  | .or => (a ||| b, .none)
  | .xor => (a ^^^ b, .none)
  | _ => (~~~a, .none)

/-- An int32 comparison, signed. -/
def intCmp (c : CmpFn) (a b : Int) : Bool :=
  match c with
  | .eq => decide (a = b)
  | .ne => decide (a ≠ b)
  | .lt => decide (a < b)
  | .le => decide (a ≤ b)
  | .gt => decide (b < a)
  | .ge => decide (b ≤ a)

/-- Lanes rotated by `n`, in the direction the configuration fixes. -/
def rotateLanes (n : Nat) (l : List W32) : List W32 :=
  (List.range 64).map (fun i => l.getD ((if Config.rotateUp then i + 64 - n % 64 else i + n) % 64) 0)

/-- VECTOR_INTEGER (R176): the lane count of a rotate and the lane of a broadcast are lane 0 of SRC2 modulo 64. -/
def opInt (w : Wafer) (t : Nat) (fn : IntFn) : Wafer :=
  coreStep w t 4 (fun v w =>
    match fn with
    | .lmAnd => lmOp w v (fun a b => a &&& b)
    | .lmOr => lmOp w v (fun a b => a ||| b)
    | .lmXor => lmOp w v (fun a b => a ^^^ b)
    | .lmNot => lmOp w v (fun a _ => ~~~a)
    | _ =>
      withO (srcLanes w t v (wSrc1 v)) (fun a w =>
        withO (srcLanes w t v (wSrc2 v)) (fun b w =>
          let mask := laneMask (tileAt w t).vc v
          match fn with
          | .cmp c =>
            if destOf (wDst v) = some .lm then
              retire (writeLm w t mask (List.zipWith (fun x y => intCmp c x.toInt y.toInt) a b)) t
            else illegal w t v
          | .rotate =>
            withO (laneDest w t v) (fun d w => retire (writeLanes w t d mask (rotateLanes (b.getD 0 0).toNat a)) t)
          | .broadcast =>
            withO (laneDest w t v) (fun d w =>
              retire (writeLanes w t d mask (List.replicate 64 (a.getD ((b.getD 0 0).toNat % 64) 0))) t)
          | _ =>
            withO (laneDest w t v) (fun d w =>
              let rs := List.zipWith (intLane fn) a b
              let w := writeLanes w t d mask (rs.map Prod.fst)
              retire (raiseFlags w t (maskedFlags mask (rs.map Prod.snd))) t))))
where
  lmOp (w : Wafer) (v : Nat) (f : W64 → W64 → W64) : Wafer :=
    withO (srcScalar w t v (wSrc1 v)) (fun a w =>
      withO (srcScalar w t v (wSrc2 v)) (fun b w =>
        withO (scalarDest w t v) (fun d w => retire (writeScalar w t d (f a b)) t)))

/-- One value of a fixed-64 operation. A marker among the operands, a sum outside 64 bits and a shift by 64 or more
have no stated result. -/
def fix64 (fn : Fix64Fn) (a b : W64) : W64 :=
  let m : W64 := 0x8000000000000000
  let free := Config.freeDouble 2 a b
  let narrow (i : Int) : W64 :=
    if a = m ∨ b = m ∨ i ≤ -(2 ^ 63) ∨ (2 ^ 63 : Int) ≤ i then free else BitVec.ofInt 64 i
  match fn with
  | .add => narrow (a.toInt + b.toInt)
  | .sub => narrow (a.toInt - b.toInt)
  | .sar => if a = m ∨ b.toNat ≥ 64 then free else a.sshiftRight b.toNat
  | .cmp _ => a

/-- VECTOR_FIXED64 (R164, R176): pair registers; the count of a shift is SRC2's lane. A comparison compares the bits as
integers, the non-finite marker among them as -2^63: the spec does not say how a marker compares (DESIGN CHOICE 92). -/
def opFix64 (w : Wafer) (t : Nat) (fn : Fix64Fn) : Wafer :=
  coreStep w t 5 (fun v w =>
    withO (srcPair w t v (wSrc1 v)) (fun a w =>
      let second : Option (List W64) × Wafer :=
        if fn = .sar then
          match srcLanes w t v (wSrc2 v) with
          | (some l, w) => (some (l.map (·.setWidth 64)), w)
          | (none, w) => (none, w)
        else srcPair w t v (wSrc2 v)
      withO second (fun b w =>
        let mask := laneMask (tileAt w t).vc v
        match fn, destOf (wDst v) with
        | .cmp c, some .lm => retire (writeLm w t mask (List.zipWith (fun x y => intCmp c x.toInt y.toInt) a b)) t
        | .cmp _, _ => illegal w t v
        | _, some (.pair k) =>
          let rs := List.zipWith (fix64 fn) a b
          retire (notePairs (onVc w t (fun c => putPair c k mask rs)) t mask rs) t
        | _, _ => illegal w t v)))

/-! ### Conversions (class 0x06, R183 to R187) -/

/-- The extension field: format, part, scalar register. Where a source is of kind 11 the same bits of IMM are the
immediate's: the fields are read from them all the same (DESIGN CHOICE 92). -/
def cvFmt (v : Nat) : Nat := bits v 3 0
def cvPart (v : Nat) : Nat := bits v 6 4
def cvReg (v : Nat) : Nat := bits v 11 7

/-- The rounding of each lane: the generator words are the lanes of SRC2 under RND (R187). -/
def cvModes (w : Wafer) (t v : Nat) : Option (List Rounding) × Wafer :=
  if wRnd v then
    match srcLanes w t v (wSrc2 v) with
    | (some l, w) => (some (l.map .stochastic), w)
    | (none, w) => (none, w)
  else (some (List.replicate 64 .nearest), w)

/-- Packed elements of `wd` bits merged into 256 bytes from a byte offset on, where the lane's mask bit is 1. -/
def mergePacked (old : List Byte) (off wd : Nat) (mask : W64) (elems : List Nat) : List Byte :=
  let n := 64 * wd / 8
  let prev := slice old off n
  let new := packElems wd ((elems.zipIdx).map (fun p => if mask.getLsbD p.2 then p.1 else packedElem wd prev p.2))
  old.take off ++ new ++ old.drop (off + n)

/-- The elements of one non-MX conversion of exact values; a special value has no stated encoding in a format without
specials. -/
def cvElem (code : Nat) (m : Rounding) (x : FpVal) : Nat × FpFlags :=
  match elemFmt code with
  | none => (0, .none)
  | some f =>
    match f.specials, x with
    | .none, .fin d => fpRound f m (exactOf d)
    | .none, _ => ((Config.freeLane 3 (BitVec.ofNat 32 code) 0).toNat % 2 ^ fpWidth f, .none)
    | _, x => fpConvert f m x

/-- True where a packed element of a format is not finite. -/
def packedNonfinite (code e : Nat) : Bool :=
  match elemFmt code with
  | some f => (match fpDecode f e with | .fin _ => false | _ => true)
  | none => false

/-- Packed results written at the part of the destination; a part that would pass byte 255 is illegal (R183). -/
def putPacked (w : Wafer) (t v : Nat) (rs : List (Nat × FpFlags)) (after : Wafer → Wafer) : Wafer :=
  let wd := elemBits (cvFmt v)
  if 32 * cvPart v + 64 * wd / 8 > 256 then illegal w t v
  else
    withO (laneDest w t v) (fun d w =>
      let mask := laneMask (tileAt w t).vc v
      let w := putBytes w t d (mergePacked (destBytes w t d) (32 * cvPart v) wd mask (rs.map Prod.fst))
      let nf := (rs.zipIdx).any (fun p => mask.getLsbD p.2 && packedNonfinite (cvFmt v) p.1.1)
      retire (after (noteIf (raiseFlags w t (maskedFlags mask (rs.map Prod.snd))) t nf)) t)

/-- The two blocks of an MX conversion: elements with flags, and the two scale bytes (R184). -/
def mxPair (code : Nat) (vals : List FpVal) (ms : List Rounding) : List (Nat × FpFlags) × Nat :=
  let free := (List.range 32).map (fun i =>
    (Config.freeLane 4 (BitVec.ofNat 32 code) (BitVec.ofNat 32 i)).toNat % 2 ^ elemBits code)
  let (x0, e0) := mxBlock code (vals.take 32) (ms.take 32) free
  let (x1, e1) := mxBlock code (vals.drop 32) (ms.drop 32) free
  (e0 ++ e1, x0 + 256 * x1)

/-- True where an enabled lane lies in a block of scale 0xFF (R54): it is written non-finite. -/
def mxNonfinite (mask : W64) (sc : Nat) : Bool :=
  (decide (sc % 256 = 0xFF) && decide (mask.setWidth 32 ≠ 0#32)) || (decide (sc / 256 = 0xFF) && decide (mask.extractLsb' 32 32 ≠ 0#32))

/-- What an MX conversion leaves beside its elements: the scale bytes, and the count of a non-finite block. -/
def mxDone (w : Wafer) (t v sc : Nat) (put : Wafer → Wafer) : Wafer :=
  noteIf (put w) t (mxNonfinite (laneMask (tileAt w t).vc v) sc)

/-- Bits [15:0] of a scalar register replaced: an MX conversion's scale bytes (R184), and the final scale of CVTF64, for
which R186 leaves the other bits open (DESIGN CHOICE 92: they stay). -/
def putLow16 (w : Wafer) (t n v : Nat) : Wafer :=
  onVc w t (fun c => putS c n ((sreg c n).extractLsb' 16 48 ++ BitVec.ofNat 16 v))

/-- CVT_NARROW (R183). -/
def opCvtNarrow (w : Wafer) (t : Nat) : Wafer :=
  coreStep w t 6 (fun v w =>
    if cvFmt v > 8 then illegal w t v
    else
      withO (srcLanes w t v (wSrc1 v)) (fun a w =>
        withO (cvModes w t v) (fun ms w =>
          putPacked w t v (List.zipWith (fun x m => signaled x (cvElem (cvFmt v) m (f32Val x))) a ms) id)))

/-- CVT_WIDEN (R183): packed elements at the part of SRC1, widened to FP32; an MX element is scaled by its block's
scale byte in the named scalar register. -/
def opCvtWiden (w : Wafer) (t : Nat) : Wafer :=
  coreStep w t 6 (fun v w =>
    match elemFmt (cvFmt v) with
    | none => illegal w t v
    | some f =>
      if 32 * cvPart v + 64 * fpWidth f / 8 > 256 then illegal w t v
      else
        withO (srcLanes w t v (wSrc1 v)) (fun a w =>
          withO (laneDest w t v) (fun d w =>
            let bs := (lanesToBytes a).drop (32 * cvPart v)
            let sc := (sreg (tileAt w t).vc (cvReg v)).toNat
            let rs := (List.range 64).map (fun i =>
              let e := packedElem (fpWidth f) bs i
              let x := fpDecode f e
              let r := f32OfVal (if isMx (cvFmt v) then mxScale (bits sc (8 * (i / 32) + 7) (8 * (i / 32))) x else x)
              (r.1, r.2.or { FpFlags.none with nv := fpSignaling f e }))
            opFp32.finishFp w t d (laneMask (tileAt w t).vc v) rs)))

/-- CVT_MX (R54, R184). -/
def opCvtMx (w : Wafer) (t : Nat) : Wafer :=
  coreStep w t 6 (fun v w =>
    if !isMx (cvFmt v) then illegal w t v
    else
      withO (srcLanes w t v (wSrc1 v)) (fun a w =>
        withO (cvModes w t v) (fun ms w =>
          let (rs, sc) := mxPair (cvFmt v) (a.map f32Val) ms
          putPacked w t v (List.zipWith signaled a rs) (fun w => mxDone w t v sc (fun w => putLow16 w t (cvReg v) sc)))))

/-- The value of a fixed-64 integer at a scale; the marker is NaN (R72, R185). -/
def fix64Val (s : Int) (a : W64) : FpVal := if a.toNat = marker64 then .nan else .fin ⟨a.toInt, s - 46⟩

/-- The tile scale in bits [15:0] of the named scalar register (R185). -/
def cvScale (w : Wafer) (t v : Nat) : Int := sint 16 ((sreg (tileAt w t).vc (cvReg v)).toNat % 65536)

/-- CVT64F (R185). Its format field names the target, FP32, so another code is illegal; CVTF64, whose source and target have
none to choose, ignores the field (DESIGN CHOICE 92). -/
def opCvt64f (w : Wafer) (t : Nat) : Wafer :=
  coreStep w t 6 (fun v w =>
    if cvFmt v ≠ 0xA then illegal w t v
    else
      withO (srcPair w t v (wSrc1 v)) (fun a w =>
        withO (cvModes w t v) (fun ms w =>
          withO (laneDest w t v) (fun d w =>
            let s := cvScale w t v
            let rs := List.zipWith (fun x m => let (n, fl) := fpConvert fp32 m (fix64Val s x); (BitVec.ofNat 32 n, fl)) a ms
            opFp32.finishFp w t d (laneMask (tileAt w t).vc v) rs))))

/-- CVT64N (R185): directly to a narrower format, MX blocks formed as in R184. -/
def opCvt64n (w : Wafer) (t : Nat) : Wafer :=
  coreStep w t 6 (fun v w =>
    if cvFmt v > 8 then illegal w t v
    else
      withO (srcPair w t v (wSrc1 v)) (fun a w =>
        withO (cvModes w t v) (fun ms w =>
          let vals := a.map (fix64Val (cvScale w t v))
          if isMx (cvFmt v) then
            let (rs, sc) := mxPair (cvFmt v) vals ms
            putPacked w t v rs (fun w => mxDone w t v sc (fun w => putLow16 w t (cvReg v) sc))
          else putPacked w t v (List.zipWith (fun x m => cvElem (cvFmt v) m x) vals ms) id)))

/-- The least scale at or above `s` in steps of 8 at which every finite lane fits in 64 bits (R186). -/
def fitScale : Nat → Int → List FpVal → Int
  | 0, s, _ => s
  | fuel + 1, s, l =>
    if l.any (fun x => match x with | .fin d => decide ((d.floorAt (s - 46)).natAbs ≥ 2 ^ 63) | _ => false) then
      fitScale fuel (s + 8) l
    else s

/-- A lane of CVTF64 at a scale (R186): truncated toward minus infinity, with NX where that loses a bit (R49, R182); a
NaN or an infinity becomes the marker, a signaling NaN with NV. -/
def fixLane (s : Int) (a : W32) : W64 × FpFlags :=
  match f32Val a with
  | .fin d =>
    let q := d.floorAt (s - 46)
    (BitVec.ofInt 64 q, { FpFlags.none with nx := decide ((d.add ⟨-q, s - 46⟩).m ≠ 0) })
  | _ => (BitVec.ofNat 64 marker64, snanFlags [a])

/-- CVTF64 (R186). -/
def opCvtf64 (w : Wafer) (t : Nat) : Wafer :=
  coreStep w t 6 (fun v w =>
    withO (srcLanes w t v (wSrc1 v)) (fun a w =>
      match destOf (wDst v) with
      | some (.pair k) =>
        let s := fitScale 8192 (cvScale w t v) (a.map f32Val)
        let rs := a.map (fixLane s)
        let m := laneMask (tileAt w t).vc v
        let w := onVc w t (fun c => putPair c k m (rs.map Prod.fst))
        let w := notePairs (raiseFlags w t (maskedFlags m (rs.map Prod.snd))) t m (rs.map Prod.fst)
        retire (putLow16 w t (cvReg v) (uint 16 s)) t
      | _ => illegal w t v))

/-! ### Special functions and reductions (classes 0x07 and 0x08) -/

/-- SPECIAL_FUNCTION (R181). -/
def opSpecial (w : Wafer) (t : Nat) (fn : SpecFn) : Wafer :=
  coreStep w t 7 (fun v w =>
    withO (srcLanes w t v (wSrc1 v)) (fun a w =>
      withO (if fn = .div then srcLanes w t v (wSrc2 v) else (some a, w)) (fun b w =>
        withO (laneDest w t v) (fun d w =>
          opFp32.finishFp w t d (laneMask (tileAt w t).vc v) (List.zipWith (f32Spec fn) a b)))))

/-- The fixed tree of R190: adjacent pairs, level by level. -/
def sumTree : Nat → List (W32 × FpFlags) → W32 × FpFlags
  | 0, l => l.headD (0, .none)
  | fuel + 1, l =>
    match l with
    | [x] => x
    | l => sumTree fuel (pairs l)
where
  pairs : List (W32 × FpFlags) → List (W32 × FpFlags)
    | a :: b :: rest => (let r := f32Add a.1 b.1; (r.1, (a.2.or b.2).or r.2)) :: pairs rest
    | l => l

/-- The index of the largest value, the lowest on ties; of the first NaN if any (R189). -/
def argMax (l : List W32) : Nat :=
  match (l.zipIdx).find? (fun p => f32Val p.1 = .nan) with
  | some p => p.2
  | none => ((l.zipIdx).foldl (fun best p => if fpLt (f32Val best.1) (f32Val p.1) then p else best) (l.headD 0, 0)).2

/-- A fold of a two-operand operation over a list that is not empty. -/
def fold32 (f : W32 → W32 → W32 × FpFlags) (l : List W32) : W32 × FpFlags :=
  match l with
  | [] => (0, .none)
  | x :: xs => xs.foldl (fun a y => let r := f a.1 y; (r.1, a.2.or r.2)) (f x x)

/-- One reduction of a list of lanes (R189). The exact sum of SUMX is rounded once to nearest even, so that one above the
largest finite value by less than half a last place is that value, as R189 and the wording of R82 have it; R191 says
infinity of every sum beyond it (DESIGN CHOICE 92). -/
def reduce (fn : RedFn) (l : List W32) : W32 × FpFlags :=
  match fn with
  | .sumf => sumTree 64 (l.map (fun x => (x, .none)))
  | .sumx =>
    let s := exactSum (l.map f32Val)
    let r := f32OfVal s
    (r.1, r.2.or { snanFlags l with nv := (snanFlags l).nv || (decide (s = .nan) && !l.any (fun x => f32Val x = .nan)) })
  | .sumi => let s := (l.map BitVec.toInt).sum; (BitVec.ofInt 32 s, iovOf s)
  | .max => fold32 f32Max l
  | .min => fold32 f32Min l
  | .absmax => let r := fold32 f32Max (l.map f32Abs); (r.1, r.2.or (snanFlags l))
  | .argmax => (BitVec.ofNat 32 (argMax l), .none)
  | .or => (l.foldl (· ||| ·) 0, .none)

/-- TILE_REDUCTION (R189, R190). -/
def opReduce (w : Wafer) (t : Nat) (fn : RedFn) (axis : Nat) : Wafer :=
  coreStep w t 8 (fun v w =>
    withO (srcTile w t v (wSrc1 v)) (fun rows w =>
      withO (laneDest w t v) (fun d w =>
        let rs :=
          if axis = 0 then (List.range 64).map (fun i => reduce fn (rows.map (fun r => r.getD i 0)))
          else rows.map (reduce fn) ++ List.replicate 56 (0, .none)
        let mask := laneMask (tileAt w t).vc v
        match fn with
        | .sumi => plain w d mask rs
        | .argmax => plain w d mask rs
        | .or => plain w d mask rs
        | _ => opFp32.finishFp w t d mask rs)))
where
  plain (w : Wafer) (d : Dest) (mask : W64) (rs : List (W32 × FpFlags)) : Wafer :=
    retire (raiseFlags (writeLanes w t d mask (rs.map Prod.fst)) t (maskedFlags mask (rs.map Prod.snd))) t

/-! ### Vector loads and stores, block store (class 0x09) -/

/-- VLD (R176): 256 bytes at the own scratchpad offset in SRC1. -/
def opVld (w : Wafer) (t : Nat) : Wafer :=
  coreStep w t 9 (fun v w =>
    withO (srcScalar w t v (wSrc1 v)) (fun a w =>
      let a := a.toNat
      if a % 256 ≠ 0 ∨ a + 256 > spBytes then vcFault w t 3 a
      else
        withO (laneDest w t v) (fun d w =>
          match spLoad w t a 256 with
          | (none, w) => vcFault w t 7 a
          | (some bs, w) => retire (writeLanes w t d (laneMask (tileAt w t).vc v) (bytesToLanes bs)) t)))

/-- VST (R176): the lanes of SRC1 at the own scratchpad offset in SRC2; only enabled lanes are stored. -/
def opVst (w : Wafer) (t : Nat) : Wafer :=
  coreStep w t 9 (fun v w =>
    withO (srcLanes w t v (wSrc1 v)) (fun l w =>
      withO (srcScalar w t v (wSrc2 v)) (fun a w =>
        let a := a.toNat
        if a % 256 ≠ 0 ∨ a + 256 > spBytes then vcFault w t 3 a
        else
          let mask := laneMask (tileAt w t).vc v
          if mask = BitVec.allOnes 64 then retire (spStore w t a (lanesToBytes l)) t
          else
            retire ((l.zipIdx).foldl (fun w p =>
              if mask.getLsbD p.2 then spStore w t (a + 4 * p.2) (leBytes 4 p.1.toNat) else w) w) t)))

/-- BST (R188): the block in consecutive window lines from SRC1's line to the offset in SRC2. The spec names no place for
the format, which is read where a conversion has it, and does not say what follows window line 255: a block that would pass it
is illegal (DESIGN CHOICE 92). -/
def opBst (w : Wafer) (t : Nat) : Wafer :=
  coreStep w t 9 (fun v w =>
    if cvFmt v > 8 ∨ bits (wSrc1 v) 9 8 ≠ 1 then illegal w t v
    else
      withO (srcScalar w t v (wSrc2 v)) (fun a w =>
        let c := (tileAt w t).vc
        let a := a.toNat
        let n := blockBytes (cvFmt v)
        let l := bits (wSrc1 v) 7 0
        let src := lineOff c l
        let lines := (n + 255) / 256
        if !c.winEn then vcFault w t 2 l
        else if a % 64 ≠ 0 ∨ a + n > spBytes then vcFault w t 3 a
        else if l + lines > 256 ∨ (src < a + n ∧ a < src + 256 * lines) then illegal w t v
        else
          match spLoad w t src n with
          | (none, w) => vcFault w t 7 src
          | (some bs, w) => retire (spStoreBlock w t a bs (cvFmt v)) t))

end Sys2Proof.Machine
end

