-- ==== Sys2Proof/Machine/CoreOps.lean ====
section
/-!
DEFINITION. The join buffer (05 R191 to R195), PHX (11 R429), the sync instructions (08 R303 to R306), the posts to
the field reduction unit and the DMA engines (R196, R237), and what SYNC packets do where they arrive (R296).
-/

namespace Sys2Proof.Machine

open Sys2Proof

/-! ### Join buffer (class 0x0A) -/

/-- Bytes of a fixed-64 tile (R72). -/
def fix64Bytes : Nat := 32832

/-- A fixed-64 header's fields (R73). -/
structure Head64 where
  s       : Int
  retries : Nat
  flags   : Nat
  k       : Nat
  sInit   : Int
  slot    : Nat
  deriving DecidableEq, Repr

/-- The header of a fixed-64 tile. -/
def head64 (bs : List Byte) : Head64 :=
  { s := sint 16 (fieldN bs 0 2), retries := fieldN bs 2 1, flags := fieldN bs 3 1, k := fieldN bs 4 4,
    sInit := sint 16 (fieldN bs 8 2), slot := fieldN bs 10 1 }

/-- A header that a join accepts (R202, R203 code 0x05). -/
def headOk (bs : List Byte) : Bool :=
  let h := head64 bs
  decide (-512 ≤ h.s ∧ h.s ≤ 511 ∧ h.retries ≤ 3 ∧ h.k ≠ 0) && zeros bs 11 64

/-- The elements of a fixed-64 tile with their non-finite marks. -/
def elems64 (bs : List Byte) : List (Int × Bool) :=
  (List.range 4096).map (fun i =>
    let v := fieldN bs (64 + 8 * i) 8
    if v = marker64 then (0, true) else (sint 64 v, false))

/-- The tile at a scratchpad offset, its header checked; the core has faulted where there is none. -/
def joinTile (w : Wafer) (t a : Nat) : Option (List Byte) × Wafer :=
  if a % 64 ≠ 0 ∨ a + fix64Bytes > spBytes then (none, vcFault w t 3 a)
  else
    match spLoad w t a fix64Bytes with
    | (none, w) => (none, vcFault w t 7 a)
    | (some bs, w) => if headOk bs then (some bs, w) else (none, vcFault w t 5 a)

/-- The join buffer after a first partial (R192, R194). -/
def joinSet (bs : List Byte) : Join :=
  let h := head64 bs
  { phase := .open, elems := elems64 bs, sj := h.s, sInit := h.sInit, retries := h.retries, k := h.k, slot := h.slot,
    nonfin := bitOf h.flags 0, range := bitOf h.flags 1, locked := bitOf h.flags 2
    mismatch := bitOf h.flags 3 }

/-- A ⟌ 2^n, truncated toward minus infinity. -/
def ashr (a : Int) (n : Nat) : Int := a / (2 ^ n : Int)

/-- JACC (R193, R194): the partial added, the buffer rescaled where an element reaches 2^70. A part that has repeated sets
split mismatch, whatever scale it ended at (R87). -/
def joinAcc (j : Join) (bs : List Byte) : Join :=
  let h := head64 bs
  let up := decide (j.sj < h.s)
  let s := if up then h.s else j.sj
  let es := List.zipWith (fun (a : Int × Bool) (p : Int × Bool) =>
    ((if up then ashr a.1 (h.s - j.sj).toNat else a.1) + (if up then p.1 else ashr p.1 (j.sj - h.s).toNat), a.2 || p.2))
    j.elems (elems64 bs)
  let big := es.any (fun e => !e.2 && decide (e.1.natAbs ≥ 2 ^ 70))
  { phase := .open
    elems := if big then es.map (fun e => (ashr e.1 8, e.2)) else es
    sj := if big then s + 8 else s
    sInit := max j.sInit h.sInit
    retries := max j.retries h.retries
    k := min 0xFFFFFFFF (j.k + h.k)
    slot := h.slot
    nonfin := j.nonfin || bitOf h.flags 0
    range := j.range || bitOf h.flags 1
    locked := j.locked && bitOf h.flags 2
    mismatch := j.mismatch || bitOf h.flags 3 || decide (0 < max j.retries h.retries) || decide (h.s ≠ j.sj) || big }

/-- R76: shifts by 8 until every finite element fits in 64 bits; what does not fit at S ≤ 511 becomes non-finite. A buffer
whose S_J a rescale of JACC (R193) has carried past 511 is scaled back to 511, where the elements that fit stay finite: R76
does not speak of it (DESIGN CHOICE 92). -/
def joinFit : Nat → Join → Join
  | 0, j => j
  | fuel + 1, j =>
    if !(j.elems.any (fun e => !e.2 && decide (e.1.natAbs ≥ 2 ^ 63))) && decide (j.sj ≤ 511) then j
    else if j.sj + 8 > 511 then
      let es := j.elems.map (fun e =>
        let v := if j.sj > 511 then e.1 * 2 ^ (j.sj - 511).toNat else e.1
        if v.natAbs ≥ 2 ^ 63 then (0, true) else (v, e.2))
      { j with elems := es, sj := min j.sj 511 }
    else joinFit fuel { j with elems := j.elems.map (fun e => (ashr e.1 8, e.2)), sj := j.sj + 8, mismatch := true }

/-- JCLOSE: the buffer closed, its non-finite flag brought up to date. -/
def joinClose (j : Join) : Join :=
  let j := joinFit 200 j
  { j with phase := .closed, nonfin := j.nonfin || j.elems.any (fun e => e.2) }

/-- The buffer as a fixed-64 tile with its header (R194). -/
def joinBytes (j : Join) : List Byte :=
  header64 j.sj j.retries (b2n j.nonfin + 2 * b2n j.range + 4 * b2n j.locked + 8 * b2n j.mismatch) j.k j.sInit j.slot ++
    (j.elems.map (fun e => leBytes 8 (if e.2 then marker64 else uint 64 e.1))).flatten

/-- JSET (R192). -/
def opJset (w : Wafer) (t : Nat) : Wafer :=
  coreStep w t 10 (fun v w =>
    withO (srcScalar w t v (wSrc1 v)) (fun a w =>
      withO (joinTile w t a.toNat) (fun bs w => retire (onTile w t (fun x => { x with join := joinSet bs })) t)))

/-- JACC (R192, R193): state OPEN only. -/
def opJacc (w : Wafer) (t : Nat) : Wafer :=
  coreStep w t 10 (fun v w =>
    if (tileAt w t).join.phase ≠ .open then vcFault w t 4 v
    else
      withO (srcScalar w t v (wSrc1 v)) (fun a w =>
        withO (joinTile w t a.toNat) (fun bs w => retire (onTile w t (fun x => { x with join := joinAcc x.join bs })) t)))

/-- JCLOSE (R192, R211). The table gives it no wrong state but EMPTY, which has no tile to close. -/
def opJclose (w : Wafer) (t : Nat) : Wafer :=
  coreStep w t 10 (fun v w =>
    if (tileAt w t).join.phase = .empty then vcFault w t 4 v
    else
      withO (scalarDest w t v) (fun d w =>
        let j := joinClose (tileAt w t).join
        let w := onTile w t (fun x => { x with join := j })
        let w := if j.mismatch then tileBump w t 0x19118 1 else w
        retire (writeScalar w t d (BitVec.ofInt 64 j.sj)) t))

/-- JWR (R192): state CLOSED only. Point 0x0107 spoils the written words. -/
def opJwr (w : Wafer) (t : Nat) : Wafer :=
  coreStep w t 10 (fun v w =>
    if (tileAt w t).join.phase ≠ .closed then vcFault w t 4 v
    else
      withO (srcScalar w t v (wSrc1 v)) (fun a w =>
        let a := a.toNat
        if a % 64 ≠ 0 ∨ a + fix64Bytes > spBytes then vcFault w t 3 a
        else
          let w := spStore w t a (joinBytes (tileAt w t).join)
          match tileInject w t 0x0107 0x0107 with
          | (some _, w) => retire (postTile (onTile w t (fun x => { x with spUnc := x.spUnc ++ [a / 8] })) t 0x0107 1 0 a true) t
          | (none, w) => retire w t))

/-- JRD (R192): state CLOSED only. -/
def opJrd (w : Wafer) (t row : Nat) : Wafer :=
  coreStep w t 10 (fun v w =>
    let j := (tileAt w t).join
    if j.phase ≠ .closed then vcFault w t 4 v
    else
      match destOf (wDst v) with
      | some (.pair k) =>
        let vals := (List.range 64).map (fun i =>
          let e := j.elems.getD (64 * row + i) (0, false)
          BitVec.ofNat 64 (if e.2 then marker64 else uint 64 e.1))
        let m := laneMask (tileAt w t).vc v
        retire (notePairs (onVc w t (fun c => putPair c k m vals)) t m vals) t
      | _ => illegal w t v)

/-! ### PHX (class 0x0B) -/

/-- PHX (R429): σ and t, u and the base index from three scalar registers; the key is the job seed. -/
def opPhx (w : Wafer) (t : Nat) : Wafer :=
  coreStep w t 11 (fun v w =>
    let n := bits v 4 0
    let c := (tileAt w t).vc
    let a := (sreg c n).toNat
    let b := (sreg c (n + 2)).toNat
    if n > 29 ∨ bits a 63 32 ≠ 0 ∨ bits a 31 24 < 16 ∨ bits b 63 34 ≠ 0 then illegal w t v
    else
      withO (laneDest w t v) (fun d w =>
        let vals := (List.range 64).map (fun i =>
          philoxWord w.seed (bits a 31 24) (bits a 23 0) (b + i) (sreg c (n + 1)))
        retire (writeLanes w t d (laneMask c v) vals) t))

/-! ### Sync instructions (class 0x0C) -/

/-- A sync instruction of one FUNC (R304); points 0x0141 to 0x0146 force a refusal. -/
def syncStep (w : Wafer) (t func : Nat) (f : Nat → Wafer → Wafer) : Wafer :=
  coreStep w t 12 (fun v w =>
    if wFunc v ≠ func then w
    else
      match tileInject w t 0x0141 0x0146 with
      | (some p, w) => syncRefuse w t (p - 0x0140) true
      | (none, w) => f v w)

/-- The target tile a scalar names (R304): none with the refusal code where it cannot be (R306). -/
def syncTarget (w : Wafer) (t : Nat) (a : W64) : Nat ⊕ Nat :=
  let a := a.toNat
  if bits a 63 13 ≠ 0 then .inr 1
  else if bits a 12 6 = 127 then .inl t
  else match logical w (bits a 12 6) (bits a 5 0) with
    | some u => .inl u
    | none => .inr 5

/-- An update of a target's sync block: at once for the own tile, as a SYNC packet for another (R296, R302). -/
def syncSend (w : Wafer) (t u : Nat) (m : SyncMsg) (own : Wafer → Wafer) : Wafer :=
  if u = t then own w else sendPkt w (.tile t) (.tile u) 0 (.sync m) .none 0

/-- SETF (R177, R304). -/
def opSetf (w : Wafer) (t : Nat) : Wafer :=
  syncStep w t 0 (fun v w =>
    if !storesDone w t then w
    else
      withO (srcScalar w t v (wSrc1 v)) (fun a w =>
        match syncTarget w t a with
        | .inr c => syncRefuse w t c
        | .inl u =>
          retire (syncSend w t u (.set u (bits v 7 0) (bitOf v 8)) (fun w => setFlag w u (bits v 7 0) (bitOf v 8))) t))

/-- ADDC (R177, R304). -/
def opAddc (w : Wafer) (t : Nat) : Wafer :=
  syncStep w t 1 (fun v w =>
    if !storesDone w t then w
    else
      withO (srcScalar w t v (wSrc1 v)) (fun a w =>
        withO (srcScalar w t v (wSrc2 v)) (fun n w =>
          match syncTarget w t a with
          | .inr c => syncRefuse w t c
          | .inl u =>
            let n : W32 := n.setWidth 32
            retire (syncSend w t u (.add u (bits v 7 0) n) (fun w => addCtr w u (bits v 7 0) n)) t)))

/-- RDF (R304). -/
def opRdf (w : Wafer) (t : Nat) : Wafer :=
  syncStep w t 2 (fun v w =>
    withO (scalarDest w t v) (fun d w => retire (writeScalar w t d (if flagOf w t (bits v 7 0) then 1 else 0)) t))

/-- RDC (R304). -/
def opRdc (w : Wafer) (t : Nat) : Wafer :=
  syncStep w t 3 (fun v w =>
    withO (scalarDest w t v) (fun d w => retire (writeScalar w t d ((ctrOf w t (bits v 7 0)).setWidth 64)) t))

/-- A tile named by a descriptor's column and row: itself, a tile, or none. -/
def descTile (w : Wafer) (t x y : Nat) : Option Nat := if x = 127 then some t else logical w x y

/-- A watch descriptor (R303) as a watch of tile `t` and the field whose unit holds it; or the refusal code of R306.
`wake` replaces its destination (R305). -/
def parseWatch (w : Wafer) (t : Nat) (owner : Option Nat) (d0 d1 : Nat) (wake : Option WatchDest) :
    (Nat × Watch) ⊕ Nat :=
  let obj := bits d0 50 49
  let id := bits d0 48 41
  let cond := bits d0 40 38
  let dest := bits d0 37 35
  let o := bits d1 63 32
  if bits d0 13 0 ≠ 0 ∨ bits d1 15 0 ≠ 0 ∨ obj = 3 ∨ cond > 3 then .inr 1
  else if wake.isNone ∧ (dest = 0 ∨ dest > 3) then .inr 1
  else if (obj = 0 ∧ (cond = 0 ∨ (cond = 1 ∧ o > 1))) ∨ (obj ≠ 0 ∧ cond = 2 ∧ o = 0) ∨ (obj = 2 ∧ id > 15) then .inr 1
  else
    let c : WatchCond := match cond with | 0 => .ge | 1 => .eq | 2 => .bitset | _ => .genchg
    let dst : Option WatchDest :=
      match wake, dest with
      | some k, _ => some k
      | none, 3 => some .comp
      | none, 1 => (descTile w t (bits d0 34 28) (bits d0 27 22)).map (fun u => .set u (bits d0 21 14))
      | none, _ => (descTile w t (bits d0 34 28) (bits d0 27 22)).map (fun u =>
          .add u (bits d0 21 14) (BitVec.ofNat 16 (bits d1 31 16)))
    match dst, (if obj = 2 then some t else descTile w t (bits d0 63 57) (bits d0 56 51)) with
    | some k, some u =>
      let ob : WatchObj := match obj with | 0 => .flag u id | 1 => .ctr u id | _ => .gen id
      .inl (u / 64, ⟨owner, ob, c, k, BitVec.ofNat 32 o⟩)
    | _, _ => .inr 5

/-- A scalar register held until a reply comes (R303). -/
def holdCore (w : Wafer) (t : Nat) (kind : WaitKind) (dst : Nat) : Wafer :=
  onVc w t (fun c => { c with waits := c.waits ++ [⟨kind, dst⟩] })

/-- The value of a slot's name: field in [14:8], slot in [7:0] (R304). -/
def slotName (f s : Nat) : W64 := BitVec.ofNat 64 (256 * f + s)

/-- WATCH (R303, R304): in the own field at once, in another by a SYNC packet whose answer completes the
instruction. -/
def opWatch (w : Wafer) (t : Nat) : Wafer :=
  syncStep w t 4 (fun v w =>
    let c := (tileAt w t).vc
    let n := bits v 4 0
    if n > 30 then illegal w t v
    else
      match parseWatch w t (some t) (sreg c n).toNat (sreg c (n + 1)).toNat none with
      | .inr code => syncRefuse w t code
      | .inl (f, x) =>
        withO (scalarDest w t v) (fun d w =>
          if f = t / 64 then
            match registerWatch w f x with
            | (none, w) => syncRefuse w t 2
            | (some i, w) => retire (writeScalar w t d (slotName f i)) t
          else
            let r := match d with | .s n => n | _ => 32
            sendPkt (holdCore w t .sync r) (.tile t) (.unit f) 0 (.sync (.register x t (some r))) .none 0))

/-- WAIT (R178, R305): a watch whose WAKE goes to this core; issue holds until it comes. -/
def opWait (w : Wafer) (t : Nat) : Wafer :=
  coreStep w t 0 (fun v w =>
    let c := (tileAt w t).vc
    let n := bits v 4 0
    if v = 0 then w
    else if n > 30 then illegal w t v
    else
      match parseWatch w t (some t) (sreg c n).toNat (sreg c (n + 1)).toNat (some (.wake t)) with
      | .inr code => syncRefuse w t code
      | .inl (f, x) =>
        let wait (w : Wafer) : Wafer := onVc w t (fun c => { c with phase := .waiting, watchOn := true })
        if f = t / 64 then
          match registerWatch w f x with
          | (none, w) => syncRefuse w t 2
          | (some _, w) => wait w
        else sendPkt (wait w) (.tile t) (.unit f) 0 (.sync (.register x t none)) .none 0)

/-- A watch slot freed on behalf of a tile (R306 code 0x06). -/
def cancelSlot (w : Wafer) (f s t : Nat) : Option Wafer :=
  match mget none (fieldAt w f).watches s with
  | some x => if x.owner = some t then some (onField w f (fun y => { y with watches := mput y.watches s none })) else none
  | none => none

/-- WCANCEL (R304). -/
def opWcancel (w : Wafer) (t : Nat) : Wafer :=
  syncStep w t 5 (fun v w =>
    withO (srcScalar w t v (wSrc1 v)) (fun a w =>
      let a := a.toNat
      let f := bits a 14 8
      if bits a 63 15 ≠ 0 ∨ f > 83 then syncRefuse w t 1
      else if f = t / 64 then
        match cancelSlot w f (bits a 7 0) t with
        | some w => retire w t
        | none => syncRefuse w t 6
      else sendPkt (holdCore w t .sync 33) (.tile t) (.unit f) 0 (.sync (.cancel f (bits a 7 0) t)) .none 0))

/-- ARRIVE (R304, R306, R310): the arrival is recorded at the field's sync unit. -/
def opArrive (w : Wafer) (t : Nat) : Wafer :=
  syncStep w t 6 (fun v w =>
    let l := bits v 3 0
    let f := fieldAt w (t / 64)
    if !(mget 0 f.banMask l).getLsbD (t % 64) then syncRefuse w t 3
    else if (mget 0 f.arrived l).getLsbD (t % 64) then syncRefuse w t 4
    else
      withO (scalarDest w t v) (fun d w =>
        let w := onField w (t / 64) (fun f =>
          { f with arrived := mput f.arrived l (mget 0 f.arrived l ||| (1#64 <<< (t % 64))) })
        retire (writeScalar w t d ((mget 0 f.banGen l).setWidth 64)) t))

/-- RDGEN (R304). -/
def opRdgen (w : Wafer) (t : Nat) : Wafer :=
  syncStep w t 7 (fun v w =>
    withO (scalarDest w t v) (fun d w =>
      retire (writeScalar w t d ((mget 0 (fieldAt w (t / 64)).banGen (bits v 3 0)).setWidth 64)) t))

/-- FRU_POST (R177, R196, R197): a full queue holds issue. -/
def opFruPost (w : Wafer) (t : Nat) : Wafer :=
  syncStep w t 8 (fun v w =>
    let n := bits v 4 0
    let c := (tileAt w t).vc
    if n > 28 then illegal w t v
    else if !storesDone w t || decide ((fieldAt w (t / 64)).fru.queue.length ≥ 8) then w
    else
      let d := (List.range 4).map (fun i => sreg c (n + i))
      retire (onField w (t / 64) (fun f =>
        { f with fru := { f.fru with queue := f.fru.queue ++ [d]
                                     phase := if f.fru.phase = .idle then .waiting else f.fru.phase } })) t)

/-- A DMA engine of a tile. -/
def dmaOf (x : Tile) (e : Nat) : Dma := if e = 0 then x.dma0 else x.dma1
def setDma (x : Tile) (e : Nat) (d : Dma) : Tile := if e = 0 then { x with dma0 := d } else { x with dma1 := d }
def onDma (w : Wafer) (t e : Nat) (f : Dma → Dma) : Wafer := onTile w t (fun x => setDma x e (f (dmaOf x e)))

/-- DMA_POST_INSTRUCTION (R237): the descriptor waits for its acceptance, and the core with it. -/
def opDmaPost (w : Wafer) (t : Nat) : Wafer :=
  coreStep w t 13 (fun v w =>
    let n := bits v 4 0
    let c := (tileAt w t).vc
    if n > 24 then illegal w t v
    else
      let d := (List.range 8).map (fun i => sreg c (n + i))
      holdCore (onDma w t (bits v 5 5) (fun x => { x with posted := x.posted ++ [⟨d, true⟩] })) t .post 33)

/-! ### Replies to a held core, WAKE and SYNC packets -/

/-- The register a held core waits for, written; the instruction completes. Registers from 32 on are lm and none. -/
def completeHeld (w : Wafer) (t dst : Nat) (v : W64) : Wafer :=
  let w := onVc w t (fun c => { c with waits := c.waits.tail })
  let w := if dst < 32 then onVc w t (fun c => putS c dst v) else if dst = 32 then onVc w t (fun c => { c with lm := v }) else w
  retire w t

/-- WAKE (R301): a waiting core whose WAKE has come resumes; CNT_WAITS counts the completed WAIT. -/
def wakeCore (w : Wafer) (t : Nat) : Wafer :=
  let c := (tileAt w t).vc
  if c.phase = .waiting ∧ c.wakeDue ∧ !blocked w then
    tileBump (retire (onVc w t (fun c => { c with phase := .running, wakeDue := false, watchOn := false })) t) t 0x23108 1
  else w

/-- A SYNC message applied where it arrives (R296, R301, R303). -/
def applySync (w : Wafer) (src : Endpoint) (m : SyncMsg) : Wafer :=
  match m with
  | .set u id v => setFlag w u id v
  | .add u id n => addCtr w u id n
  | .wake u => onVc w u (fun c => { c with wakeDue := true })
  | .register x u dst =>
    let f := match x.obj with | .flag a _ => a / 64 | .ctr a _ => a / 64 | .gen _ => u / 64
    (match registerWatch w f x, dst with
      | (none, w), _ => sendPkt w (.unit f) (.tile u) 0 (.sync (.refused u 2)) .none 0
      | (some i, w), some r => sendPkt w (.unit f) (.tile u) 0 (.sync (.registered u r f i)) .none 0
      | (some _, w), none => w)
  | .registered u r f i => completeHeld w u r (slotName f i)
  | .refused u c => syncRefuse (onVc w u (fun x => { x with waits := x.waits.tail, phase := .running, watchOn := false })) u c.toNat
  | .cancel f s u =>
    (match cancelSlot w f s u with
      | some w => sendPkt w (.unit f) src 0 (.sync (.registered u 33 f s)) .none 0
      | none => sendPkt w (.unit f) src 0 (.sync (.refused u 6)) .none 0)

/-- SYNC_PACKET (R262, R296): packet `n` arrives and is applied. -/
def syncArrives (w : Wafer) (n : Nat) : Wafer :=
  match arriving w n with
  | some p =>
    (match p.kind with
      | .sync m => applySync (takePkt w n p) p.src m
      | _ => w)
  | none => w

end Sys2Proof.Machine
end

