-- ==== Sys2Proof/Machine/Dma.lean ====
section
/-!
DEFINITION. The DMA engines (06 R236 to R248, 04 R135 to R138), the bank-group power-down of the slices (R230 to
R235) and the field reduction unit (05 R196 to R202).
-/

namespace Sys2Proof.Machine

open Sys2Proof

/-- A descriptor's fields (R238). -/
structure DmaDesc where
  src      : Nat
  dst      : Nat
  x        : Nat
  y        : Nat
  z        : Nat
  srcY     : Int
  dstY     : Int
  srcZ     : Int
  dstZ     : Int
  idx      : Nat
  fmt      : Nat
  mode     : Nat
  doneKind : Nat
  doneId   : Nat
  doneAdd  : Nat
  rsvd     : Nat
  deriving DecidableEq, Repr

/-- A descriptor from its eight words (R238). -/
def descOf (ws : List W64) : DmaDesc :=
  let w (i : Nat) : Nat := (ws.getD i 0).toNat
  { src := w 0, dst := w 1, x := bits (w 2) 31 0, y := bits (w 2) 47 32, z := bits (w 2) 63 48,
    srcY := sint 32 (bits (w 3) 31 0), dstY := sint 32 (bits (w 3) 63 32),
    srcZ := sint 32 (bits (w 4) 31 0), dstZ := sint 32 (bits (w 4) 63 32), idx := w 5,
    fmt := bits (w 6) 7 0, mode := bits (w 6) 15 8, doneKind := bits (w 6) 23 16, doneId := bits (w 6) 31 24,
    doneAdd := bits (w 6) 47 32, rsvd := bits (w 6) 63 48 + w 7 }

def DmaDesc.transpose (d : DmaDesc) : Bool := bitOf d.mode 0
def DmaDesc.block (d : DmaDesc) : Bool := bitOf d.mode 1
def DmaDesc.gather (d : DmaDesc) : Bool := bitOf d.mode 2
def DmaDesc.scatter (d : DmaDesc) : Bool := bitOf d.mode 3
def DmaDesc.fence (d : DmaDesc) : Bool := bitOf d.mode 4

/-- Bytes of an element that a transposition moves (R137): 0 for a format it refuses. -/
def xposeSize (fmt : Nat) : Nat :=
  match fmt with
  | 0x0 => 2 | 0x1 => 2 | 0x2 => 1 | 0x3 => 1 | 0xA => 4 | _ => 0

/-- A device address plus a signed distance. -/
def addrPlus (a : Nat) (d : Int) : Nat := uint 64 ((a : Int) + d)

/-- Rows and planes of a descriptor. -/
def DmaDesc.planes (d : DmaDesc) : List Nat := List.range (d.z + 1)
def DmaDesc.rows (d : DmaDesc) : List Nat := List.range (d.y + 1)

/-- Entry `i` of the index list in the own scratchpad, which IDX names (R240). -/
def idxAt (w : Wafer) (t : Nat) (d : DmaDesc) (i : Nat) : Nat :=
  match place w t d.idx with
  | .scratch u off => leNat ((tileAt w u).sp.readN (off + 4 * i) 4)
  | _ => 0

/-- Source and destination address of row `i` of plane `z` (R239, R240, R242). A transposed row's destination is the
base of its block. -/
def rowSrc (w : Wafer) (t : Nat) (d : DmaDesc) (z i : Nat) : Nat :=
  addrPlus d.src (z * d.srcZ + (if d.gather then (idxAt w t d i : Int) else i) * d.srcY)
def rowDst (w : Wafer) (t : Nat) (d : DmaDesc) (z i : Nat) : Nat :=
  addrPlus d.dst (z * d.dstZ + (if d.scatter then (idxAt w t d i : Int) else i) * d.dstY)

/-- True where the `n` bytes from `a` lie in one memory (R13, R14, R225, R337). -/
def rangeOk (w : Wafer) (t a n : Nat) : Bool :=
  match place w t a with
  | .scratch _ off => decide (off + n ≤ spBytes)
  | .bds _ off => decide (off + n ≤ bdsBytes)
  | .hbm _ off => decide (off + n ≤ 2 ^ 36)
  | .acc _ _ _ off => decide (off + n ≤ 2 ^ 28)
  | .comp off => decide (off + n ≤ 2 ^ 41)
  | _ => false

/-- True where a tile's write of `n` bytes at `a` is to a tile-writable region, or to tile memory or an area. -/
def writableAt (w : Wafer) (t a n : Nat) : Bool :=
  match place w t a with
  | .hbm k off => hbmWritable (rimAt w k) off n
  | .comp off => compWritable w.comp off n
  | _ => true

/-- The rows a descriptor writes: for a transposition the 64 rows of each block. -/
def writeRows (w : Wafer) (t : Nat) (d : DmaDesc) : List Nat :=
  (d.planes.map (fun z => d.rows.map (fun i => rowDst w t d z i))).flatten

/-- The checks at acceptance (R247, R248), lowest code first. -/
def acceptCheck (w : Wafer) (t : Nat) (d : DmaDesc) : Option Nat :=
  let own (a : Nat) : Bool := match place w t a with | .scratch u _ => u == t | .bds u _ => u == t | _ => false
  let inSp (a : Nat) : Bool := match place w t a with | .scratch _ _ => true | _ => false
  let fmtOk := decide (d.fmt ≤ 8) || d.fmt == 0xA || d.fmt == 0xB || d.fmt == 0xF
  let sz := xposeSize d.fmt
  let lst := d.gather || d.scatter
  let srcs := if d.gather then d.planes.map (fun z => addrPlus d.src (z * d.srcZ))
    else (d.planes.map (fun z => d.rows.map (fun i => rowSrc w t d z i))).flatten
  let dsts := if d.scatter then d.planes.map (fun z => addrPlus d.dst (z * d.dstZ)) else writeRows w t d
  let n := d.x
  let nS := if d.gather then 8 else n
  let nD := if d.scatter then 8 else n
  if d.rsvd ≠ 0 ∨ bits d.mode 7 5 ≠ 0 ∨ !fmtOk ∨ d.doneKind > 2 ∨ (d.gather ∧ d.scatter) ∨ (d.idx ≠ 0 ∧ !lst) then some 1
  else if d.transpose ∧ (sz = 0 ∨ lst ∨ !dsts.all own ∨ d.x ≠ 64 * sz ∨ d.y ≠ 63) then some 2
  else if d.block ∧ (d.fmt > 8 ∨ d.x * (d.y + 1) ≠ blockBytes d.fmt ∨ d.dstY ≠ d.x ∨ d.dst % 64 ≠ 0 ∨ d.dstZ % 64 ≠ 0 ∨
      !dsts.all inSp) then some 3
  else if n = 0 ∨ n > 65536 ∨ n % 8 ≠ 0 ∨ d.src % 8 ≠ 0 ∨ d.dst % 8 ≠ 0 ∨ d.srcY % 8 ≠ 0 ∨ d.dstY % 8 ≠ 0 ∨ d.srcZ % 8 ≠ 0 ∨
      d.dstZ % 8 ≠ 0 ∨ !(srcs.all (fun a => rangeOk w t a nS)) ∨ !(dsts.all (fun a => rangeOk w t a nD)) ∨
      (lst ∧ !(match place w t d.idx with
        | .scratch u off => decide (u = t ∧ off + 4 * (d.y + 1) ≤ spBytes)
        | _ => false)) then some 4
  else if !(dsts.all (fun a => writableAt w t a nD)) then some 5
  else none

/-- A descriptor as its engine accepts it. -/
def DmaEntry.accepted (words : List W64) (seq : Nat) : DmaEntry :=
  { words := words, seq := seq, started := false, pieces := [], asked := 0, readsDue := 0, sent := false, issued := 0,
    acksDue := 0, landed := false, failed := none, failAddr := 0 }

/-- DESCRIPTOR_ACCEPT (R236, R237, R247, R248): the oldest post of an engine whose queue has room is accepted or
refused; points 0x0131 to 0x0135 force a refusal. A core's post completes its instruction or faults it. -/
def acceptPost (w : Wafer) (t e : Nat) : Wafer :=
  let x := dmaOf (tileAt w t) e
  match x.posted with
  | [] => w
  | p :: rest =>
    if x.queue.length ≥ 16 || !usable w t then w
    else
      let (inj, w) := tileInject w t 0x0131 0x0135
      let w := onDma w t e (fun y => { y with posted := rest })
      let code := match inj with | some q => some (q - 0x0130) | none => acceptCheck w t (descOf p.words)
      match code with
      | some c =>
        let w := postTile w t (0x0130 + c) 2 c (descOf p.words).dst inj.isSome
        if p.fromCore then vcFault (onVc w t (fun v => { v with waits := v.waits.tail })) t 8 c
        else onDma w t e (fun y => { y with refused := BitVec.ofNat 8 c })
      | none =>
        let s := (tileAt w t).dmaSeq
        let w := onDma w t e (fun y =>
          { y with queue := y.queue ++ [DmaEntry.accepted p.words s] })
        let w := onTile w t (fun y => { y with dmaSeq := s + 1 })
        if p.fromCore then completeHeld w t 33 0 else w

/-! ### Running a descriptor -/

/-- Chunks of at most 512 bytes (R273). -/
def chunks (n : Nat) : List (Nat × Nat) :=
  (List.range ((n + 511) / 512)).map (fun i => (512 * i, min 512 (n - 512 * i)))

/-- The reads of a descriptor in order, as pieces, and whether a gathered or scattered row fails its check (R247,
R248 code 0x06): the rows before it stand. -/
def planPieces (w : Wafer) (t : Nat) (d : DmaDesc) : List DmaPiece × Bool :=
  let rows := (d.planes.map (fun z => d.rows.map (fun i => (rowSrc w t d z i, rowDst w t d z i)))).flatten
  let ok (r : Nat × Nat) : Bool :=
    (!d.gather || rangeOk w t r.1 d.x) && (!d.scatter || (rangeOk w t r.2 d.x && writableAt w t r.2 d.x))
  let good := rows.takeWhile ok
  ((good.map (fun r => (chunks d.x).map (fun c => (⟨r.1 + c.1, r.2 + c.1, c.2, none⟩ : DmaPiece)))).flatten,
    decide (good.length < rows.length))

/-- The read of an entry's next piece: at once from the own tile, or as a read request over VC6. None where it waits: a bank
that refreshes, a group that wakes (R231, R233), 128 requests of the engine outstanding, or no free tag (R273). A piece that
cannot be read ends the reads (R248); an injected address fault reads zero (R13). -/
def askPiece (w : Wafer) (t e others : Nat) (q : DmaEntry) (p : DmaPiece) : Option (Wafer × DmaEntry) :=
  let got (w : Wafer) (bs : List Byte) : Option (Wafer × DmaEntry) :=
    some (w, { q with pieces := q.pieces.modify q.asked (fun p => { p with bytes := some bs }), asked := q.asked + 1 })
  let take (r : Option (List Byte) × Wafer) : Option (Wafer × DmaEntry) :=
    match r with
    | (some bs, w) => got w bs
    | (none, w) => some (w, { q with pieces := q.pieces.take q.asked, failed := some 7, failAddr := p.src })
  let ask (w : Wafer) (dst : Endpoint) : Option (Wafer × DmaEntry) :=
    if 128 ≤ others + q.readsDue ∨ !tagFree w t then none
    else
      let k : PktKind := if p.len ≤ 8 then .nrd p.src else .rdReq p.src p.len
      some (request w t dst 6 k (.dma e q.seq q.asked) p.src, { q with asked := q.asked + 1, readsDue := q.readsDue + 1 })
  let (pl, w') := accessPlace w t p.src
  match pl with
  | .fault => got (addressFault w' t p.src) (List.replicate p.len 0)
  | .scratch u off => if u = t then take (spLoad w' t off p.len) else ask w' (.tile u)
  | .bds u off => if u = t then (if bdsReady w t off p.len then take (bdsLoad w' t off p.len) else none) else ask w' (.tile u)
  | r => ask w' (placeEnd t r)

/-- The reads of an entry as far as they go now. -/
def askReads (t e others : Nat) : Nat → Wafer → DmaEntry → Wafer × DmaEntry
  | 0, w, q => (w, q)
  | fuel + 1, w, q =>
    match q.pieces[q.asked]? with
    | none => (w, q)
    | some p => match askPiece w t e others q p with
      | none => (w, q)
      | some (w, q) => askReads t e others fuel w q

/-- The bytes of the pieces that have been read, up to the first that has not. -/
def readPrefix (ps : List DmaPiece) : List DmaPiece := ps.takeWhile (fun p => p.bytes.isSome)

/-- A transposed block from its 64 rows of 64 elements (R242): row `k` of the result. -/
def xposeRow (sz : Nat) (rows : List (List Byte)) (k : Nat) : List Byte :=
  (rows.map (fun r => slice r (sz * k) sz)).flatten

/-- The writes of a descriptor as (device address, bytes), whole planes only for a transposition. -/
def planWrites (d : DmaDesc) (ps : List DmaPiece) : List (Nat × List Byte) :=
  let got := readPrefix ps
  if d.transpose then
    let sz := xposeSize d.fmt
    ((List.range (got.length / 64)).map (fun (z : Nat) =>
      let rows := ((got.drop (64 * z)).take 64).map (fun p => p.bytes.getD [])
      (List.range 64).map (fun (k : Nat) => (addrPlus d.dst ((z : Int) * d.dstZ + (k : Int) * d.dstY), xposeRow sz rows k)))).flatten
  else got.map (fun p => (p.dst, p.bytes.getD []))

/-- The address of a write in own memory: scratchpad (true) or slice, with its offset. -/
def ownPlace (w : Wafer) (t a : Nat) : Option (Bool × Nat) :=
  match place w t a with
  | .scratch u off => if u = t then some (true, off) else none
  | .bds u off => if u = t then some (false, off) else none
  | _ => none

/-- An entry of an engine's queue changed, by its sequence number. -/
def onEntry (w : Wafer) (t e seq : Nat) (f : DmaEntry → DmaEntry) : Wafer :=
  onDma w t e (fun x => { x with queue := x.queue.map (fun q => if q.seq = seq then f q else q) })

/-- Pieces of a row, and of a plane, of a descriptor. -/
def DmaDesc.rowPieces (d : DmaDesc) : Nat := if d.transpose then 64 else max 1 ((d.x + 511) / 512)
def DmaDesc.planePieces (d : DmaDesc) : Nat := if d.transpose then 64 else d.rowPieces * (d.y + 1)

/-- True where a descriptor's planes are whole-block writes (R222, R241, R242): under BLOCK, or a transposition that writes
contiguous blocks. The rows of a SCATTER go where its list says, also under BLOCK (log 96). -/
def DmaDesc.whole (d : DmaDesc) : Bool :=
  let sz := xposeSize d.fmt
  (d.block && !d.scatter) ||
    (d.transpose && decide (d.fmt ≤ 3) && decide (d.dstY = 64 * sz) && decide (d.dst % 64 = 0) && decide (d.dstZ % 64 = 0))

/-- The tag of the block that write `i` ends, where it is the last of a plane that BLOCK writes to another tile (R241): the
block's first granule, its granules and its tag. -/
def blockEnd (d : DmaDesc) (ws : List (Nat × List Byte)) (i : Nat) : Option (Nat × Nat × BitVec 9) :=
  let n := d.planePieces
  if d.block && d.whole && decide ((i + 1) % n = 0) then
    let plane := (ws.drop (i + 1 - n)).take n
    let bs := (plane.map Prod.snd).flatten
    some (bits (plane.headD (0, [])).1 27 0 / 64, (bs.length + 63) / 64, blockTag d.fmt bs)
  else none

/-- The next write of an entry whose reads are done: one into the own tile is held for its landing; a remote one goes out
over VC6, or as an ACC packet over VC4 (R264, R357). None where it waits: for the writes of the row before it, so that no
row is written after one that fails (R248), or for a tag (R273). -/
def issueWrite (w : Wafer) (t e : Nat) (d : DmaDesc) (ws : List (Nat × List Byte)) (q : DmaEntry) : Option (Wafer × DmaEntry) :=
  match ws[q.issued]? with
  | none => none
  | some p =>
    if q.issued % d.rowPieces = 0 ∧ q.acksDue ≠ 0 then none
    else if (ownPlace w t p.1).isSome then some (w, { q with issued := q.issued + 1 })
    else if !tagFree w t then none
    else
      let pl := place w t p.1
      let (vc, kind) : Nat × PktKind :=
        match pl with
        | .acc _ _ _ _ => (4, .acc p.1 p.2)
        | _ => (6, if p.2.length ≤ 8 then .nwr p.1 p.2 else .wr p.1 p.2)
      some (requestWith w t ⟨.tile t, placeEnd t pl, vc, kind, 0, .dma e q.seq q.issued, p.1, 0, blockEnd d ws q.issued⟩,
        { q with issued := q.issued + 1, acksDue := q.acksDue + 1 })

/-- The writes of an entry as far as they go now. -/
def issueWrites (t e : Nat) (d : DmaDesc) (ws : List (Nat × List Byte)) : Nat → Wafer → DmaEntry → Wafer × DmaEntry
  | 0, w, q => (w, q)
  | fuel + 1, w, q =>
    match issueWrite w t e d ws q with
    | none => (w, q)
    | some (w, q) => issueWrites t e d ws fuel w q

/-- Outstanding read requests of an engine's other entries. -/
def otherReads (x : Dma) (seq : Nat) : Nat := ((x.queue.filter (fun q => q.seq != seq)).map (fun q => q.readsDue)).sum

/-- A started entry carried on: its reads, then, once they are done, its writes. -/
def runEntry (w : Wafer) (t e : Nat) (q : DmaEntry) : Wafer :=
  let (w, q) := askReads t e (otherReads (dmaOf (tileAt w t) e) q.seq) q.pieces.length w q
  let q := { q with sent := q.sent || (decide (q.pieces.length ≤ q.asked) && decide (q.readsDue = 0)) }
  let d := descOf q.words
  let ws := planWrites d q.pieces
  let (w, q) := if q.sent then issueWrites t e d ws ws.length w q else (w, q)
  onEntry w t e q.seq (fun _ => q)

/-- The started entries of a tile's engines carried on, in their order. -/
def runEntries (w : Wafer) (t : Nat) : Wafer :=
  [0, 1].foldl (fun w e =>
    ((dmaOf (tileAt w t) e).queue.filter (fun q => q.started)).foldl (fun w q =>
      match (dmaOf (tileAt w t) e).queue.find? (fun p => p.seq == q.seq) with
      | some q => runEntry w t e q
      | none => w) w) w

/-- True where the own slice serves the reads that an entry makes there. -/
def readsReady (w : Wafer) (t : Nat) (ps : List DmaPiece) : Bool :=
  ps.all (fun p => match place w t p.src with
    | .bds u off => u != t || bdsReady w t off p.len
    | _ => true)

/-- The groups of the own slice that an entry's reads need are woken (R233). -/
def wakeForReads (w : Wafer) (t : Nat) (ps : List DmaPiece) : Wafer :=
  ps.foldl (fun w p => match place w t p.src with
    | .bds u off => if u = t then lateWake w t off p.len else w
    | _ => w) w

/-- The index list of a gathered or scattered descriptor read (R240): none where a word of it is uncorrectable (R248). -/
def readList (w : Wafer) (t : Nat) (d : DmaDesc) : Option (List Byte) × Wafer :=
  if d.gather || d.scatter then
    match place w t d.idx with
    | .scratch u off => spLoad w u off (4 * (d.y + 1))
    | _ => (some [], w)
  else (some [], w)

/-- True where entry `q` of an engine may begin (R244): the one before it has read, and with FENCE every earlier descriptor
of both engines is gone. -/
def mayStart (x : Tile) (dm : Dma) (q : DmaEntry) : Bool :=
  let before := dm.queue.filter (fun p => decide (p.seq < q.seq))
  let earlier := (x.dma0.queue ++ x.dma1.queue).any (fun p => decide (p.seq < q.seq))
  decide (dm.fault = 0) && !before.any (fun p => !p.sent || p.failed.isSome) && !((descOf q.words).fence && earlier)

/-- DESCRIPTOR_START (R244): the first descriptor that has not started begins, in order; one whose reads waited goes on.
Points 0x0136 to 0x0138 make it fault at its first row. -/
def startDesc (w : Wafer) (t e : Nat) : Wafer :=
  let x := tileAt w t
  let dm := dmaOf x e
  if w.halted || w.frozen then w
  else
    match dm.queue.find? (fun q => q.started && decide (q.asked < q.pieces.length)), dm.queue.find? (fun q => !q.started) with
    | some q, _ => runEntry (wakeForReads w t (q.pieces.drop q.asked)) t e q
    | none, none => w
    | none, some q =>
      if !mayStart x dm q then w
      else
        let d := descOf q.words
        let (ps, short) := planPieces w t d
        if !readsReady w t ps then wakeForReads w t ps
        else
          let (inj, w) := tileInject w t 0x0136 0x0138
          let (idx, w) := readList w t d
          let q : DmaEntry :=
            match inj, idx with
            | some p, _ => { q with started := true, failed := some (BitVec.ofNat 8 (p - 0x0130)), failAddr := d.src }
            | none, none => { q with started := true, failed := some 7, failAddr := d.idx }
            | none, some _ =>
              { q with started := true, pieces := ps, failed := if short then some 6 else none, failAddr := if short then d.src else 0 }
          runEntry w t e q

/-- A reply to a descriptor's read or write (R265). A status other than 0x0 is the entry's fault 0x08 with the address of
the request, and ends its reads before the piece, or its writes after those issued (R248). -/
def dmaReply (w : Wafer) (t e seq idx status addr : Nat) (bytes : Option (List Byte)) : Wafer :=
  match (dmaOf (tileAt w t) e).queue.find? (fun q => decide (q.seq = seq)) with
  | none => runEntries w t
  | some q =>
    let q : DmaEntry := if status ≠ 0 ∧ q.failed.isNone then { q with failed := some 8, failAddr := addr } else q
    let q : DmaEntry :=
      match bytes with
      | some bs =>
        { q with readsDue := q.readsDue - 1
                 pieces := if status = 0 then q.pieces.modify idx (fun p => { p with bytes := some bs }) else q.pieces.take idx
                 asked := if status = 0 then q.asked else min q.asked idx }
      | none =>
        { q with acksDue := q.acksDue - 1
                 pieces := if status = 0 then q.pieces else q.pieces.take q.issued
                 asked := if status = 0 then q.asked else min q.asked q.issued }
    runEntries (onEntry w t e seq (fun _ => q)) t

/-- The writes of an entry in the own tile land: whole blocks with their tags, partial writes otherwise (R222). A block that
a fault has cut short is a partial write. -/
def landOwn (w : Wafer) (t : Nat) (d : DmaDesc) (ws : List (Nat × List Byte)) : Wafer :=
  let put (w : Wafer) (p : Nat × List Byte) : Wafer :=
    match ownPlace w t p.1 with
    | some (true, off) => spStore w t off p.2
    | some (false, off) => bdsStore w t off p.2
    | none => w
  if d.whole then
    let n := d.planePieces
    (List.range ((ws.length + n - 1) / n)).foldl (fun w z =>
      let plane := (ws.drop (n * z)).take n
      let bs := (plane.map Prod.snd).flatten
      match ownPlace w t (plane.headD (0, [])).1 with
      | some (true, off) => if bs.length = blockBytes d.fmt then spStoreBlock w t off bs d.fmt else spStore w t off bs
      | _ => plane.foldl put w) w
  else ws.foldl put w

/-- The writes that an entry has issued. -/
def DmaEntry.writes (q : DmaEntry) : List (Nat × List Byte) := (planWrites (descOf q.words) q.pieces).take q.issued

/-- True where every own-slice write of an entry finds its groups up and its banks not refreshing. -/
def landReady (w : Wafer) (t : Nat) (ws : List (Nat × List Byte)) : Bool :=
  ws.all (fun p => match ownPlace w t p.1 with
    | some (false, off) => bdsReady w t off p.2.length
    | _ => true)

/-- The groups that the own-slice writes of an entry need are woken (R233). -/
def wakeForLand (w : Wafer) (t : Nat) (ws : List (Nat × List Byte)) : Wafer :=
  ws.foldl (fun w p => match ownPlace w t p.1 with
    | some (false, off) => lateWake w t off p.2.length
    | _ => w) w

/-- True where an entry has nothing left to read, to write or to wait for but its landing. -/
def DmaEntry.over (q : DmaEntry) : Bool :=
  q.sent && decide (q.acksDue = 0) && decide (q.readsDue = 0) && decide ((planWrites (descOf q.words) q.pieces).length ≤ q.issued)

/-- The byte counters of R253 for an entry's writes. -/
def countWrites (w : Wafer) (t e : Nat) (d : DmaDesc) (ws : List (Nat × List Byte)) : Wafer :=
  let n := (ws.map (fun p => p.2.length)).sum
  tileBump (tileBump w t (0x20200 + 8 * e) n) t 0x20210 (if d.transpose then n else 0)

/-- An entry's own writes landed and its bytes counted. -/
def land (w : Wafer) (t e : Nat) (q : DmaEntry) : Wafer :=
  countWrites (landOwn w t (descOf q.words) q.writes) t e (descOf q.words) q.writes

/-- DESCRIPTOR_COMPLETE (R245): every write of the head descriptor is visible, then its DONE operation takes effect.
`bankWait` are the engine-cycles in which a scratchpad slot was refused to it (R219). -/
def completeDesc (w : Wafer) (t e bankWait : Nat) : Wafer :=
  match (dmaOf (tileAt w t) e).queue with
  | [] => w
  | q :: rest =>
    let d := descOf q.words
    if !q.over || q.failed.isSome then w
    else if !landReady w t q.writes then wakeForLand w t q.writes
    else
      let w := tileBump (land w t e q) t 0x20218 bankWait
      let w := onDma w t e (fun x => { x with queue := rest, doneSeq := x.doneSeq + 1 })
      match d.doneKind with
      | 1 => setFlag w t d.doneId true
      | 2 => addCtr w t d.doneId (BitVec.ofNat 32 d.doneAdd)
      | _ => w

/-- DMA_RUNNING_FAULT (R248): once every write issued has landed or failed, FAULT is set; the engine holds until
CLEAR and no DONE operation is performed. The record names the address of the failing access (R265). -/
def faultDesc (w : Wafer) (t e : Nat) : Wafer :=
  let x := dmaOf (tileAt w t) e
  match x.queue, x.fault with
  | q :: _, 0 =>
    (match q.failed with
      | some c =>
        if !q.over then w
        else if !landReady w t q.writes then wakeForLand w t q.writes
        else
          let w := onEntry (land w t e q) t e q.seq (fun y => { y with landed := true })
          let w := onDma w t e (fun y => { y with fault := c })
          postTile w t (0x0130 + c.toNat) (if c = 7 then 1 else 2) c.toNat (q.failAddr % 2 ^ 40)
      | none => w)
  | _, _ => w

/-- A write of DMAn_CTL (R250): CLEAR first, then POST of the staging words. -/
def writeDmaCtl (w : Wafer) (t e : Nat) (v : W64) : Wafer :=
  let w := if v.getLsbD 1 then clear w else w
  if v.getLsbD 0 then
    onDma w t e (fun x =>
      { x with posted := x.posted ++ [⟨(List.range 8).map (fun i => mget 0 x.desc i), false⟩] })
  else w
where
  /-- The writes that an entry has issued into the own tile land, a sleeping group waking for them; those of a faulted entry
  have landed already. -/
  clear (w : Wafer) : Wafer :=
    let w := (dmaOf (tileAt w t) e).queue.foldl (fun w q =>
      if q.landed then w else land (wakeForLand w t q.writes) t e q) w
    onDma w t e (fun x => { x with queue := [], fault := 0, refused := 0 })

/-! ### Power-down of bank groups (R232 to R235, R254) -/

def ctlGroup (b : BdsCtl) (g : Nat) : GState := match g with | 0 => b.g0 | 1 => b.g1 | 2 => b.g2 | _ => b.g3
def setCtlGroup (b : BdsCtl) (g : Nat) (x : GState) : BdsCtl :=
  match g with
  | 0 => { b with g0 := x } | 1 => { b with g1 := x } | 2 => { b with g2 := x } | _ => { b with g3 := x }
def onCtl (w : Wafer) (f : Nat) (h : BdsCtl → BdsCtl) : Wafer := onField w f (fun x => { x with bds := h x.bds })

/-- A field's tiles. -/
def fieldTiles (f : Nat) : List Nat := (List.range 64).map (fun i => 64 * f + i)

/-- A group of every slice of a field given a state. -/
def allSlices (w : Wafer) (f g : Nat) (h : BdsGroup → BdsGroup) : Wafer :=
  (fieldTiles f).foldl (fun w t => onGroup w t g h) w

/-- The descriptors accepted by the engines of a field and not yet gone (R232). -/
def fieldDescs (w : Wafer) (f : Nat) : List (Nat × Nat × Nat) :=
  ((fieldTiles f).map (fun t =>
    let x := tileAt w t
    x.dma0.queue.map (fun q => (t, 0, q.seq)) ++ x.dma1.queue.map (fun q => (t, 1, q.seq)))).flatten

/-- The DMA fence of a group begins, or begins again (R232, R235). -/
def startFence (w : Wafer) (f g : Nat) : Wafer :=
  let w := onCtl w f (fun b => { setCtlGroup b g .fencing with fence := mput b.fence g (fieldDescs w f) })
  allSlices w f g (fun _ => ⟨.fencing, false⟩)

/-- A PD_REQ bit written from 0 to 1 (R232, R235): the fence begins; during an entry whose clear is due, once that clear
has taken effect. -/
def pdSet (w : Wafer) (f g : Nat) : Wafer :=
  if ctlGroup (fieldAt w f).bds g = .entering then onCtl w f (fun b => { b with again := b.again ||| (1#4 <<< g) })
  else startFence w f g

/-- A PD_REQ bit cleared: the group wakes in every slice without a late-wake count; during entry, when the entry
completes (R235). -/
def pdClear (w : Wafer) (f g : Nat) : Wafer :=
  if ctlGroup (fieldAt w f).bds g = .entering then
    onCtl w f (fun b => { b with clear := b.clear ||| (1#4 <<< g), again := b.again &&& ~~~(1#4 <<< g) })
  else
    allSlices (onCtl w f (fun b => { setCtlGroup b g .awake with fence := mput b.fence g [] })) f g
      (fun _ => BdsGroup.reset)

/-- A write of BDS_PD: the bits that rise in `v` begin their fences; the bits that fall wake their groups. -/
def writePd (w : Wafer) (f : Nat) (v : W64) : Wafer :=
  let old := (fieldAt w f).bds.pdReq
  let new : BitVec 4 := v.setWidth 4
  let w := onCtl w f (fun b => { b with pdReq := new })
  (List.range 4).foldl (fun w g =>
    if new.getLsbD g && !old.getLsbD g then pdSet w f g
    else if old.getLsbD g && !new.getLsbD g then pdClear w f g
    else w) w

/-- BDS_FENCE_DONE (R232): every descriptor of the fence is gone, and the entry into self-refresh begins. -/
def fenceDone (w : Wafer) (f g : Nat) : Wafer :=
  let b := (fieldAt w f).bds
  let live := fieldDescs w f
  if ctlGroup b g = .fencing ∧ !((mget [] b.fence g).any (fun d => live.contains d)) then
    allSlices (onCtl w f (fun b => { setCtlGroup b g .entering with fence := mput b.fence g [] })) f g
      (fun x => { x with state := .entering })
  else w

/-- BDS_ENTRY_DONE (R232, R235): the group is down, or wakes where its bit was cleared meanwhile, and its fence begins again
where the bit has been set since. -/
def entryDone (w : Wafer) (f g : Nat) : Wafer :=
  let b := (fieldAt w f).bds
  if ctlGroup b g = .entering then
    if b.clear.getLsbD g then
      let w := allSlices (onCtl w f (fun b =>
        { setCtlGroup b g .awake with clear := b.clear &&& ~~~(1#4 <<< g), again := b.again &&& ~~~(1#4 <<< g) })) f g
        (fun _ => BdsGroup.reset)
      if b.again.getLsbD g then startFence w f g else w
    else
      allSlices (onCtl w f (fun b => setCtlGroup b g .down)) f g (fun x => { x with state := .down })
  else w

/-- BDS_REFRESH (R230): at most one bank of a slice refreshes at a time, two while the field is hot; a group in
self-refresh is not refreshed by the controller. -/
def refreshBank (w : Wafer) (t bank : Nat) : Wafer :=
  let b := (tileAt w t).bds
  let busy := (List.range 16).filter (fun i => b.refreshing.getLsbD i)
  if busy.contains bank || decide (busy.length ≥ (if (fieldAt w (t / 64)).bds.hot then 2 else 1)) || !groupUp (groupOf b (bank / 4)) then w
  else onTile w t (fun x => { x with bds := { x.bds with refreshing := x.bds.refreshing ||| (1#16 <<< bank) } })

/-- True where an access waits for a bank of a slice: a packet that may arrive, a descriptor of the tile's engines, or the
scalar access that the core issues next (R228, R231). -/
def bankWanted (w : Wafer) (t bank : Nat) : Bool :=
  let hits (off n : Nat) : Bool := (banksOf off n).contains bank
  let own (a n : Nat) : Bool := match place w t a with | .bds u off => u == t && hits off n | _ => false
  let c := (tileAt w t).vc
  let v := fetch w t
  let x := tileAt w t
  w.net.inflight.any (fun p => match bdsTarget p with | some (u, off, n) => u == t && hits off n | none => false) ||
    (x.dma0.queue ++ x.dma1.queue).any (fun q =>
      (q.pieces.drop q.asked).any (fun p => own p.src p.len) || q.writes.any (fun p => own p.1 p.2.length) ||
        (!q.started && (planPieces w t (descOf q.words)).1.any (fun p => own p.src p.len))) ||
    (coreReady w t 2 && [wSrc1 v, wSrc2 v].any (fun s => own (sreg c (bits s 4 0)).toNat 8))

/-- BDS_REFRESH_END (R231): the cycles that accesses to the bank waited are counted. -/
def refreshEnd (w : Wafer) (t bank waited : Nat) : Wafer :=
  if (tileAt w t).bds.refreshing.getLsbD bank then
    tileBump (onTile w t (fun x =>
      { x with bds := { x.bds with refreshing := x.bds.refreshing &&& ~~~(1#16 <<< bank) } })) t 0x20228
      (if bankWanted w t bank then waited else 0)
  else w

/-- BDS_WAKE_DONE (R233, R234): the group is awake in this slice alone; the late accesses it held may complete, in the
order of their arrival. -/
def wakeDone (w : Wafer) (t g : Nat) : Wafer :=
  let x := groupOf (tileAt w t).bds g
  if x.waking && decide (x.state ≠ .entering) then onGroup w t g (fun _ => ⟨.awake, false⟩) else w

/-! ### Field reduction unit (R196 to R202) -/

/-- A reduction descriptor (R196). -/
structure FruDesc where
  mode  : Nat
  dest  : Nat
  count : Nat
  ready : Nat
  done  : Nat
  mask  : Nat
  src   : Nat
  dst   : Nat
  rsvd  : Nat
  deriving DecidableEq, Repr

/-- A descriptor from its four words. -/
def fruDesc (ws : List W64) : FruDesc :=
  let w (i : Nat) : Nat := (ws.getD i 0).toNat
  { mode := bits (w 0) 7 0, dest := bits (w 0) 15 8, count := bits (w 0) 31 16, ready := bits (w 0) 39 32,
    done := bits (w 0) 47 40, mask := w 1, src := bits (w 2) 31 0, dst := bits (w 2) 63 32,
    rsvd := bits (w 0) 63 48 + w 3 }

/-- The participants of a descriptor in a field, in ascending tile index. -/
def fruTiles (f : Nat) (d : FruDesc) : List Nat := ((List.range 64).filter (fun i => bitOf d.mask i)).map (fun i => 64 * f + i)

/-- Bytes of a participant's region and of the result. -/
def fruBytes (d : FruDesc) : Nat :=
  if d.mode = 0 then fix64Bytes else 4 * (d.count + 1) * (if d.mode = 4 then 2 else 1)

/-- The checks of R202 that need no data, as the code of R212. -/
def fruCheck (w : Wafer) (f : Nat) (d : FruDesc) : Option Nat :=
  if d.mode > 5 ∨ d.rsvd ≠ 0 ∨ (d.mode = 0 ∧ d.count ≠ 0) ∨ d.count > 8191 then some 1
  else if d.dest > 63 ∨ !(fruTiles f d).all (usable w) ∨ !usable w (64 * f + d.dest) then some 2
  else if d.src % 64 ≠ 0 ∨ d.dst % 64 ≠ 0 ∨ d.src + fruBytes d > spBytes ∨ d.dst + fruBytes d > spBytes then some 3
  else none

/-- A FRU descriptor refused (R202): it is discarded, DONE_CTR rises and nothing is written. -/
def fruFault (w : Wafer) (f : Nat) (d : FruDesc) (code : Nat) (inj : Bool) : Wafer :=
  let w := onField w f (fun x =>
    let q := x.fru.queue.tail
    { x with fru := { x.fru with queue := q, fault := BitVec.ofNat 8 code, result := none, pulled := []
                                 phase := if q = [] then .idle else .waiting }
             ctrs := bumpAt x.ctrs 0xC010 1 })
  addCtr (postField w f (0x0210 + code) 2 code 0 inj) (64 * f + d.dest % 64) d.done 1

/-- JOIN64 over all participants (R75 to R77, R87, R194, R198, R199). -/
def fruJoin (l : List (List Byte)) : List Byte :=
  let hs := l.map head64
  let smax := (hs.map (fun h => h.s)).foldl max (-512)
  let es := (List.range 4096).map (fun i =>
    l.foldl (fun (a : Int × Bool) bs =>
      let v := fieldN bs (64 + 8 * i) 8
      let s := (head64 bs).s
      if v = marker64 then (a.1, true) else (a.1 + ashr (sint 64 v) (smax - s).toNat, a.2)) ((0 : Int), false))
  let last := hs.getLast?.getD ⟨0, 0, 0, 0, 0, 0⟩
  let j : Join :=
    { phase := .open, elems := es, sj := smax
      sInit := (hs.map (fun h => h.sInit)).foldl max (-512)
      retries := (hs.map (fun h => h.retries)).foldl max 0
      k := min 0xFFFFFFFF (hs.map (fun h => h.k)).sum
      slot := last.slot
      nonfin := hs.any (fun h => bitOf h.flags 0)
      range := hs.any (fun h => bitOf h.flags 1)
      locked := hs.all (fun h => bitOf h.flags 2)
      mismatch := hs.any (fun h => bitOf h.flags 3) || hs.any (fun h => decide (h.s ≠ smax)) ||
        (decide (1 < hs.length) && hs.any (fun h => decide (0 < h.retries))) }
  joinBytes (joinClose j)

/-- One element of a 32-bit mode over the participants (R199). -/
def fruElem (mode : Nat) (vals : List W32) : W32 :=
  match mode with
  | 1 => (reduce .max vals).1
  | 2 => (reduce .min vals).1
  | 3 => (reduce .absmax vals).1
  | _ => (reduce .or vals).1

/-- The result of a 32-bit mode. The values of ARGMAX are results too: a zero is +0, a NaN the canonical one (R47, R49). -/
def fru32 (d : FruDesc) (l : List (List Byte)) : List Byte :=
  let n := d.count + 1
  let val (bs : List Byte) (i : Nat) : W32 := BitVec.ofNat 32 (fieldN bs (4 * i) 4)
  if d.mode = 4 then
    let win (i : Nat) : Nat := argMax (l.map (fun bs => val bs i))
    let top (i : Nat) : W32 := let v := val (l.getD (win i) []) i; (f32Max v v).1
    ((List.range n).map (fun i => leBytes 4 (top i).toNat)).flatten ++
      ((List.range n).map (fun i => leBytes 4 (val (l.getD (win i) []) (n + i)).toNat)).flatten
  else ((List.range n).map (fun i => leBytes 4 (fruElem d.mode (l.map (fun bs => val bs i))).toNat)).flatten

/-- The pulls of a descriptor's regions (R198, R201): reads over VC6 through the hub, 512 bytes at a time. -/
def fruPull (w : Wafer) (f : Nat) (d : FruDesc) : Wafer :=
  ((fruTiles f d).zipIdx).foldl (fun w p =>
    ((chunks (fruBytes d)).zipIdx).foldl (fun w c =>
      let a := 2 ^ 56 + d.src + c.1.1
      sendPkt w (.fru f) (.tile p.1) 6 (.rdReq a c.1.2) (.fru p.2 c.2) a) w) w

/-- FRU_READY (R198): the head descriptor is checked; with every READY_FLAG at 1 the unit reads the participants'
regions. -/
def fruReady (w : Wafer) (f : Nat) : Wafer :=
  let x := (fieldAt w f).fru
  match x.queue, x.phase with
  | q :: _, .waiting =>
    let d := fruDesc q
    (match fieldInject w f 0x0211 0x0214 with
      | (some p, w) => fruFault w f d (p - 0x0210) true
      | (none, w) =>
        match fruCheck w f d with
        | some c => fruFault w f d c false
        | none =>
          let ts := fruTiles f d
          if w.halted || w.frozen || !ts.all (fun t => flagOf w t d.ready) then w
          else
            let w := onField w f (fun y =>
              { y with fru := { y.fru with phase := .reading, pulled := ts.map (fun _ => (chunks (fruBytes d)).map (fun _ => none)) } })
            fruCombine (fruPull w f d) f)
  | _, _ => w
where
  /-- Once every pull has come the regions are joined (R198). A region that could not be read, or a header that is invalid,
  is reported with code 0x04. -/
  fruCombine (w : Wafer) (f : Nat) : Wafer :=
    let x := (fieldAt w f).fru
    match x.queue with
    | [] => w
    | q :: _ =>
      let d := fruDesc q
      if x.pulled.any (fun l => l.any Option.isNone) then w
      else
        let datas := x.pulled.map (fun l => (l.map (fun c => c.getD [])).flatten)
        if datas.any (fun b => decide (b.length ≠ fruBytes d)) ∨ (d.mode = 0 ∧ !datas.all headOk) then fruFault w f d 4 false
        else
          let r := if d.mode = 0 then fruJoin datas else fru32 d datas
          onField w f (fun y => { y with fru := { y.fru with phase := .writing, result := some r, pulled := [] } })

/-- The answer to a pull arrives. -/
def fruPulled (w : Wafer) (f part chunk : Nat) (bs : List Byte) : Wafer :=
  if (fieldAt w f).fru.phase = .reading then
    fruReady.fruCombine (onField w f (fun y =>
      { y with fru := { y.fru with pulled := y.fru.pulled.modify part (fun l => l.set chunk (some bs)) } })) f
  else w

/-- FRU_COMPLETE (R198): the result goes to the destination by the hub, the ready flags are cleared, DONE_CTR rises. -/
def fruComplete (w : Wafer) (f : Nat) : Wafer :=
  let x := (fieldAt w f).fru
  match x.queue, x.result with
  | q :: rest, some r =>
    let d := fruDesc q
    let n := (r.length + 63) / 64
    let w := tileBump (fieldBump (spStore w (64 * f + d.dest) d.dst r) f 0xE100 n) (64 * f + d.dest) 0x21008 n
    let w := onField w f (fun y =>
      { y with fru := { y.fru with queue := rest, result := none, phase := if rest = [] then .idle else .waiting }
               ctrs := bumpAt y.ctrs 0xC008 1 })
    let w := (fruTiles f d).foldl (fun w t => setFlag w t d.ready false) w
    addCtr w (64 * f + d.dest) d.done 1
  | _, _ => w

end Sys2Proof.Machine
end

