-- ==== Sys2Proof/Machine/StateModule.lean ====
section
/-!
DEFINITION. The state of the module outside the wafer and the job: the field ports and the module tree (13), power,
clocks and heat (14), reliability bookkeeping (15), security (16), the Demitasse and the module's side of it (17).
-/

namespace Sys2Proof.Machine

open Sys2Proof

/-! ### Field ports and the tree (13) -/

/-- PORT_STATUS.STATE (R526). -/
inductive PortState where
  | off | training | up | degraded | down | mismatch
  deriving DecidableEq, Repr

/-- A link block held for replay (R498): its sequence number and the packet its flits carry. -/
structure LinkBlock where
  seq  : BitVec 16
  body : LinkMsg
  deriving DecidableEq, Repr

/-- A field port (R493 to R506, R526, R527). `bad` lists retired positions by direction as 18-bit masks, `sent` the
blocks not yet acknowledged, oldest first, `credits` the flit credits held for each VC. -/
structure Port where
  state    : PortState
  moduleId : BitVec 32
  bundle   : BitVec 4
  index    : BitVec 3
  mismatch : BitVec 4
  txPos    : BitVec 18
  rxPos    : BitVec 18
  swapped  : BitVec 18
  crossed  : Nat
  badTx    : BitVec 18
  badRx    : BitVec 18
  identity : Bool
  nextSeq  : BitVec 16
  lastAck  : BitVec 16
  sent     : List LinkBlock
  credits  : SMap Nat
  ctrs     : SMap Ctr
  deriving DecidableEq, Repr

/-- The module's place in the tree (R507), kept in the non-volatile store (R676). `parent` and `children` are bundles. -/
structure TreeConfig where
  set      : Bool
  moduleId : BitVec 32
  role     : Nat
  parent   : Option Nat
  children : List Nat
  treeId   : W64
  deriving DecidableEq, Repr

/-- A verdict carried by CTRL VERDICT (R520). -/
structure TreeVerdict where
  v     : Nat
  cause : Nat
  norm  : W32
  deriving DecidableEq, Repr

/-- The step's exchange over the tree (R510 to R524), by child bundle: JOINs with their JOB_ID and
IMAGE_SM3, ARRIVEs by line, amax values by
group, PREPAREDs, what came down, and what this module has sent. `met` says that this module meets R38. By `256 * rim +
area`: `twinIn` the local areas added into their twins, `twinSent` the twins whose declaration has gone out, `globals` the
twin lines that hold global values. `stopDue` is a stop that waits for COMMIT or ABORT (R735). -/
structure TreeStep where
  joins     : List (Nat × BitVec 16 × BitVec 256)
  joinSent  : Bool
  arrives   : SMap (List Nat)
  amaxFrom  : SMap (SMap W32)
  amaxSent  : Bool
  amaxFinal : SMap W32
  verdict   : Option TreeVerdict
  met       : Bool
  prepFrom  : List Nat
  prepSent  : Bool
  committed : Bool
  twinIn    : List Nat
  twinSent  : List Nat
  globals   : SMap (List Nat)
  stopDue   : Bool
  deriving DecidableEq, Repr

/-- The tree side of the module; `held` is the traffic of bundles that are down or out of credits, oldest first (R524). -/
structure Tree where
  cfg    : TreeConfig
  ports  : SMap Port
  lasers : BitVec 12
  step   : TreeStep
  held   : List (Nat × LinkMsg)
  deriving DecidableEq, Repr

/-! ### Power, clocks and heat (14) -/

/-- The power states that the module holds itself (R535); Simmer-hold and Partial are read from the rest (R631). -/
inductive PowerPhase where
  | off | standby | retention | active
  deriving DecidableEq, Repr

/-- A feed (R529 to R532, R542). -/
structure FeedState where
  present  : Bool
  reversed : Bool
  lost     : Bool
  isolated : Bool
  volts    : Nat
  deriving DecidableEq, Repr

/-- FLD_PWR_STATUS.STATE (R573). -/
inductive FieldPower where
  | off | ramping | on | dark | short | sense | failed
  deriving DecidableEq, Repr

/-- The power unit of a field (R548, R558 to R562, R569, R573). `darkenings` counts thermal darkenings, `hot` the
consecutive samples at 115 °C or more, `injected` marks an outage that an injection caused (R601). -/
structure FieldPwr where
  state      : FieldPower
  tmax       : Int
  tmem       : Int
  duty       : Nat
  clkSel     : Nat
  backup     : Nat
  senseA     : Bool
  senseB     : Bool
  hot        : Nat
  darkenings : Nat
  injected   : Bool
  ctrs       : SMap Ctr
  deriving DecidableEq, Repr

/-- The governor (R550 to R557, R574), in units of 100 W, 25 MHz and 0.1 ms of credit. `slew` is the clock that a step
moves to, `vddDue` the voltage level a change moves to, `down` the cause of the stepping in progress. -/
structure Gov where
  cap     : Nat
  boost   : Bool
  credit  : Nat
  clock   : Nat
  slew    : Option Nat
  vddHigh : Bool
  vddDue  : Option Bool
  cause   : Nat
  down    : Nat
  hold    : Nat
  avgMs   : Nat
  avg10   : Nat
  avg100  : Nat
  avg1s   : Nat
  inlet   : Int
  flow    : Nat
  deriving DecidableEq, Repr

/-- Power, clocks and heat. `simmerHold` is R321's state, `longWait` the
consecutive samples that found every array in Simmer (R319), `coresLow` the companion cores at 1.2 GHz, `hbmHot` the stacks
at 95 °C or more, `throttleStep` the fields whose floor asks for a clock step; `noJobs` refuses new jobs (R547);
`flowLost` marks a coolant stop (R563); `failedSlices` the slices that stage 3 failed (R670). -/
structure Pwr where
  phase        : PowerPhase
  feedA        : FeedState
  feedB        : FeedState
  simmerHold   : Bool
  longWait     : Nat
  ramp         : Bool
  linked       : Bool
  fields       : SMap FieldPwr
  gov          : Gov
  converters   : BitVec 16
  thermistors  : BitVec 8
  pll0         : Bool
  pll8         : Bool
  pllUse       : Nat
  hbmHot       : List Nat
  throttleStep : List Nat
  coresLow     : Bool
  noJobs       : Bool
  laserOff     : Bool
  flowLost     : Bool
  failedSlices : List Nat
  ctrs         : SMap Ctr
  deriving DecidableEq, Repr

/-! ### Reliability bookkeeping (15) -/

/-- The sticky fault summary with its record count (R579), detections of severity 0 by detector and unit (R577), the
error history of the tiles (R595), tiles whose self-test is due, HBM rows whose repair is due (R586), fields that fail at the
next step boundary (R590), and whether a new map and route set wait for it, with a list of the map changed or not (R28,
R281). -/
structure Rel where
  sticky  : BitVec 16
  records : W32
  seen    : SMap Nat
  ues     : SMap Nat
  ces     : SMap Nat
  retest  : List Nat
  hbmRows : List (Nat × Nat)
  failing : List Nat
  mapDue  : Option Bool
  deriving DecidableEq, Repr

/-! ### Security (16) -/

/-- Lifecycle states (R622). -/
inductive Lifecycle where
  | blank | provisioned | deployed | returned | scrapped
  deriving DecidableEq, Repr

/-- Debug levels (R625). -/
inductive Level where
  | closed | observe | invasive | factory
  deriving DecidableEq, Repr

/-- A challenge (R626): the level or lifecycle target asked for, and its 64 bytes. -/
structure Challenge where
  level : Nat
  bytes : List Byte
  deriving DecidableEq, Repr

/-- Security state (R609 to R628). -/
structure Sec where
  life      : Lifecycle
  level     : Level
  revoked   : BitVec 12
  owner     : Option (List Byte)
  rollback  : Nat
  unlockSeq : W64
  challenge : Option Challenge
  refused   : Nat
  unlocks   : W32
  returns   : Nat
  mr        : SMap (BitVec 256)
  badCode   : Bool
  deriving DecidableEq, Repr

/-! ### The Demitasse (17) -/

/-- A job mark that waits at the module (R646, R647). -/
structure Mark where
  kind  : Nat
  jobId : BitVec 16
  seq   : W32
  deriving DecidableEq, Repr

/-- The module's side of the meter (R647, R656, R661 to R664). -/
structure Dmt where
  loop    : Bool
  idOk    : Bool
  queue   : List Mark
  nextSeq : W32
  lastSeq : W32
  idHash  : BitVec 256
  deriving DecidableEq, Repr

/-- A closed interval's record (R649). -/
structure Interval where
  no    : W64
  time  : W64
  endA  : Nat
  endB  : Nat
  deA   : Nat
  deB   : Nat
  seq   : W32
  jobId : BitVec 16
  kind  : Nat
  flags : BitVec 8
  deriving DecidableEq, Repr

/-- The legal energy registers (R643): whole mWh from 0 to 10^14 - 1, with the rollover counts. -/
structure Registers where
  eA  : Nat
  eB  : Nat
  eT  : Nat
  erA : Nat
  erB : Nat
  roA : Nat
  roB : Nat
  roT : Nat
  deriving DecidableEq, Repr

/-- The accumulators below 1 mWh, in units of 2^-96 mWh (R640). -/
structure Residues where
  a  : Nat
  b  : Nat
  rA : Nat
  rB : Nat
  deriving DecidableEq, Repr

/-- The open interval (R645, R649): its number, its flags, and the marks accepted that close it and its successors at
the next sample boundaries, each with its SEQ_GAP. -/
structure OpenInterval where
  no    : W64
  endA  : Nat
  endB  : Nat
  flags : BitVec 8
  marks : List (Mark × Bool)
  deriving DecidableEq, Repr

/-- An entry of the meter's event log (R654). -/
structure MeterEvent where
  time : W64
  code : Nat
  regs : Registers
  deriving DecidableEq, Repr

/-- What the meter saves (R645). -/
structure MeterSave where
  regs : Registers
  res  : Residues
  time : W64
  interval : OpenInterval
  deriving DecidableEq, Repr

/-- The meter (R635 to R660). `sumA` and `sumB` are the sums of all closed interval values modulo 10^14, `overA` and
`overB` a feed in overload, `readTo` the first interval number never read at the port, `item` the display's. -/
structure Meter where
  powered   : Bool
  regs      : Registers
  res       : Residues
  time      : W64
  interval  : OpenInterval
  sumA      : Nat
  sumB      : Nat
  records   : List Interval
  overwrote : W64
  readTo    : W64
  overUnread : Nat
  events    : List MeterEvent
  eventNo   : W32
  discarded : W32
  lastSeq   : Option W32
  markTime  : W64
  closeAt   : W64
  overA     : Bool
  overB     : Bool
  caseLatch : Bool
  caseOpen  : Bool
  checkFail : Bool
  timeLost  : Bool
  saved     : MeterSave
  item      : Nat
  deriving DecidableEq, Repr

/-! ### Reset values -/

/-- A field port at reset (R526, R527); the credits are those of R499. -/
def Port.reset : Port :=
  { state := .off, moduleId := 0, bundle := 0, index := 0, mismatch := 0, txPos := 0, rxPos := 0, swapped := 0,
    crossed := 0, badTx := 0, badRx := 0, identity := false, nextSeq := 0, lastAck := 0, sent := [],
    credits := [], ctrs := [] }

/-- A module that has never been configured (R676). -/
def TreeConfig.reset : TreeConfig :=
  { set := false, moduleId := 0, role := 0, parent := none, children := [], treeId := 0 }

/-- No exchange. -/
def TreeStep.reset : TreeStep :=
  { joins := [], joinSent := false, arrives := [], amaxFrom := [], amaxSent := false,
    amaxFinal := [], verdict := none, met := false, prepFrom := [], prepSent := false, committed := false, twinIn := [],
    twinSent := [],
    globals := [], stopDue := false }

/-- The tree at cold reset. -/
def Tree.reset : Tree := ⟨.reset, [], 0, .reset, []⟩

/-- A feed that has not been read. -/
def FeedState.reset : FeedState := ⟨false, false, false, false, 0⟩

/-- A field's power unit at reset: DUTY 16, CLK_SEL 5 (R573). -/
def FieldPwr.reset : FieldPwr :=
  { state := .off, tmax := 0, tmem := 0, duty := 16, clkSel := 5, backup := 5, senseA := false, senseB := false, hot := 0,
    darkenings := 0, injected := false, ctrs := [] }

/-- The governor at reset: credit 400 ms, clock 1.5 GHz, L 25 kW (R552, R574). -/
def Gov.reset : Gov :=
  { cap := 25000, boost := false, credit := 4000, clock := 60, slew := none, vddHigh := false, vddDue := none, cause := 0,
    down := 0, hold := 0, avgMs := 0, avg10 := 0, avg100 := 0, avg1s := 0, inlet := 0, flow := 300 }

/-- Power at cold reset: nothing switched on (POWER reads Standby, R713). -/
def Pwr.reset : Pwr :=
  { phase := .standby, feedA := .reset, feedB := .reset, simmerHold := false, longWait := 0, ramp := false, linked := false, fields := [],
    gov := .reset, converters := 0, thermistors := 0, pll0 := false, pll8 := false, pllUse := 0, hbmHot := [],
    throttleStep := [], coresLow := false, noJobs := false, laserOff := false, flowLost := false, failedSlices := [],
    ctrs := [] }

/-- Reliability bookkeeping at cold reset. -/
def Rel.reset : Rel :=
  { sticky := 0, records := 0, seen := [], ues := [], ces := [], retest := [], hbmRows := [], failing := [], mapDue := none }

/-- Security at cold reset (R614, R622, R628). -/
def Sec.reset : Sec :=
  { life := .provisioned, level := .closed, revoked := 0, owner := none, rollback := 0, unlockSeq := 0,
    challenge := none, refused := 0, unlocks := 0, returns := 0, mr := [], badCode := false }

/-- The module's side of the meter at reset (R664). -/
def Dmt.reset : Dmt := ⟨false, false, [], 0, 0, 0⟩

/-- Registers at manufacture. -/
def Registers.zero : Registers := ⟨0, 0, 0, 0, 0, 0, 0, 0⟩

/-- Residues at manufacture. -/
def Residues.zero : Residues := ⟨0, 0, 0, 0⟩

/-- The first interval. -/
def OpenInterval.first : OpenInterval := ⟨0, 0, 0, 0, []⟩

/-- The meter at manufacture, its counts at 0. -/
def Meter.reset : Meter :=
  { powered := false, regs := .zero, res := .zero, time := 0, interval := .first, sumA := 0, sumB := 0,
    records := [], overwrote := 0, readTo := 0, overUnread := 0, events := [], eventNo := 0, discarded := 0,
    lastSeq := none, markTime := 0, closeAt := 0, overA := false, overB := false, caseLatch := false, caseOpen := false,
    checkFail := false, timeLost := false, saved := ⟨.zero, .zero, 0, .first⟩, item := 1 }

end Sys2Proof.Machine
end

