-- ==== Sys2Proof/Machine/State.lean ====
section
/-!
DEFINITION. The state of the module: everything the spec gives it, with the queue of waiting commands, and the machine
right after a cold reset.
-/

namespace Sys2Proof.Machine

open Sys2Proof

/-- Why a step stops. -/
inductive Fault where
  /-- SYS_RESET# was held low for 100 µs to 1 ms, which R699 says has an undefined effect. Raised by SYS_RESET on such
  a pulse; safe: nothing is claimed of the machine after it. -/
  | undefinedResetPulse
  deriving DecidableEq, Repr

/-- Why a step is refused. -/
inductive Refusal where
  /-- The command has no meaning in this model yet. Raised by its arm of `exec` and nowhere else; safe. -/
  | notModelled (mnemonic : String)
  deriving DecidableEq, Repr

/-- The state of the module. `out` holds what has left the module, oldest first; `free` is the model's own counter of
free values drawn (log 2); `pending` is the queue of commands that wait, first in, first out. -/
structure State where
  wafer   : Wafer
  host    : HostSide
  train   : Train
  ckpt    : Ckpt
  gal     : Gallery
  tree    : Tree
  pwr     : Pwr
  rel     : Rel
  sec     : Sec
  dmt     : Dmt
  meter   : Meter
  out     : List OutMsg
  free    : Nat
  pending : List Instr
  deriving DecidableEq, Repr

/-- The module at a cold reset, no command waiting (R631 to R633, R665, R713). -/
def State.reset : State :=
  { wafer := .reset, host := .reset, train := .reset, ckpt := .reset, gal := .reset, tree := .reset, pwr := .reset,
    rel := .reset, sec := .reset, dmt := .reset, meter := .reset, out := [], free := 0, pending := [] }

end Sys2Proof.Machine
end

