-- ==== Sys2Proof/Machine/Module.lean ====
section
/-!
DEFINITION. The operations every command of the module shares: MSI-X, the mailbox's change bits, completions, events,
fault records and the job stop (12 R458 to R473, 15 R576 to R579, R735, 20 R715, R716), and sending over the field
ports (13 R496 to R504).
-/

namespace Sys2Proof.Machine

open Sys2Proof

/-- What a meaning answers. -/
abbrev Res := Host.Outcome State Fault Refusal

/-! ### Parts by number -/

def onHost (s : State) (f : HostSide → HostSide) : State := { s with host := f s.host }
def onTrain (s : State) (f : Train → Train) : State := { s with train := f s.train }
def onW (s : State) (f : Wafer → Wafer) : State := { s with wafer := f s.wafer }
def onPwr (s : State) (f : Pwr → Pwr) : State := { s with pwr := f s.pwr }
def onTree (s : State) (f : Tree → Tree) : State := { s with tree := f s.tree }

def ringAt (s : State) (i : Nat) : Ring := mget .reset s.host.rings i
def setRing (s : State) (i : Nat) (r : Ring) : State := onHost s (fun h => { h with rings := mput h.rings i r })
def onRing (s : State) (i : Nat) (f : Ring → Ring) : State := setRing s i (f (ringAt s i))

def portAt (s : State) (f : Nat) : Port := mget .reset s.tree.ports f
def onPort (s : State) (f : Nat) (g : Port → Port) : State :=
  onTree s (fun t => { t with ports := mput t.ports f (g (mget .reset t.ports f)) })
def portBump (s : State) (f off n : Nat) : State :=
  if n = 0 then s else onPort s f (fun p => { p with ctrs := bumpAt p.ctrs off n })

def fpAt (s : State) (f : Nat) : FieldPwr := mget .reset s.pwr.fields f
def onFp (s : State) (f : Nat) (g : FieldPwr → FieldPwr) : State :=
  onPwr s (fun p => { p with fields := mput p.fields f (g (mget .reset p.fields f)) })

/-- A fresh free value's number; the counter advances (log 2). -/
def drawFree (s : State) : Nat × State := (s.free, { s with free := s.free + 1 })

/-! ### Codes -/

/-- The open job's ID, zero with none. -/
def jobIdOf (s : State) : BitVec 16 := match s.train.job with | some j => j.id | none => 0

/-- True where a job is open. -/
def jobOpen (s : State) : Bool := s.train.job.isSome

/-- True where a field is dark, failed or without power. -/
def anyDown (s : State) : Bool := s.wafer.off != 0 || !s.wafer.repair.fields.isEmpty

/-- The power state of R631. -/
def powerCode (s : State) : Nat :=
  match s.pwr.phase with
  | .active => if s.pwr.simmerHold then 1 else if anyDown s then 2 else 0
  | .retention => 3
  | .standby => 4
  | .off => 4

def lifeCode : Lifecycle → Nat
  | .blank => 0 | .provisioned => 1 | .deployed => 2 | .returned => 3 | .scrapped => 4

def levelCode : Level → Nat
  | .closed => 0 | .observe => 1 | .invasive => 2 | .factory => 3

def jobCode : JobState → Nat
  | .none => 0 | .loaded => 1 | .ready => 2 | .running => 3 | .held => 4 | .stopped => 5 | .closing => 6

/-- The step a record names (R578). -/
def currentStep (s : State) : Nat :=
  if !jobOpen s then 0 else match s.train.replay with | some r => r.step | none => s.train.next

/-- MB_STEP (R715). -/
def lastStepWord (s : State) : W64 :=
  match s.train.last, s.train.job with
  | some n, some _ => BitVec.ofNat 64 n
  | _, _ => BitVec.allOnes 64

/-- True where an injection register of the module is armed. -/
def anyArmed (s : State) : Bool :=
  s.wafer.tiles.any (fun p => p.2.fi.armed) || s.wafer.fields.any (fun p => p.2.fi.armed) ||
    s.wafer.rims.any (fun p => p.2.fi.armed) || s.wafer.fiMod.armed

/-- The bits of the fault summary that stand as long as their cause does (R579). -/
def standingBits (s : State) : BitVec 16 :=
  let b (c : Bool) (i : Nat) : BitVec 16 := if c then 1#16 <<< i else 0
  let bad (f : FeedState) : Bool := f.reversed || f.isolated || f.lost
  b (!s.wafer.repair.fields.isEmpty || !s.wafer.repair.rims.isEmpty) 4 ||| b (decide (s.wafer.repair.rows < 64)) 5 |||
    b (bad s.pwr.feedA || bad s.pwr.feedB) 6 ||| b (decide (s.pwr.gov.clock < 60 ∧ s.host.mb.stage = 0x10)) 7 |||
    b (s.pwr.thermistors != 0) 8 ||| b (anyArmed s) 11

/-- The fault summary (R579). -/
def summaryWord (s : State) : W64 := BitVec.ofNat 64 (s.rel.sticky.toNat + 2 ^ 32 * s.rel.records.toNat)

/-- A bit of the fault summary set. -/
def setSticky (s : State) (i : Nat) : State := { s with rel := { s.rel with sticky := s.rel.sticky ||| (1#16 <<< i) } }

/-! ### MSI-X and the mailbox -/

/-- The vector-control mask of a vector: set until the host clears it. -/
def msixMasked (s : State) (v : Nat) : Bool := (mget 0x100000000 s.host.msix (2 * v + 1)).getLsbD 32

/-- A vector raised (R460): sent, or left pending while it is masked or the function may not write. -/
def raiseMsix (s : State) (v : Nat) : State :=
  if msixMasked s v || !s.host.busMast then onHost s (fun h => { h with pba := h.pba ||| (1#9 <<< v) })
  else { s with out := s.out ++ [.msix v] }

/-- MB_EVENT bits set, with vector 8 for a bit that rises under its mask (R716). -/
def setMb (s : State) (b : BitVec 6) : State :=
  let old := s.host.mb.event
  let s := onHost s (fun h => { h with mb := { h.mb with event := old ||| b } })
  if b &&& ~~~old &&& s.host.mb.mask != 0 then raiseMsix s 8 else s

/-- The MB_EVENT bits of what changed between two states (R715). -/
def mbChanges (a b : State) : BitVec 6 :=
  let c (p : Bool) (i : Nat) : BitVec 6 := if p then 1#6 <<< i else 0
  c (a.host.mb.stage != b.host.mb.stage) 0 ||| c (powerCode a != powerCode b || a.sec.level != b.sec.level) 1 |||
    c (a.train.state != b.train.state || jobIdOf a != jobIdOf b) 2 ||| c (summaryWord a != summaryWord b) 3

/-- The change bits and standing summary bits brought up to date after a command. -/
def notice (old new : State) : State :=
  let s := { new with rel := { new.rel with sticky := new.rel.sticky ||| standingBits new } }
  let b := mbChanges old s
  if b = 0 then s else setMb s b

/-- A command's effect with its notices. -/
def noting (s : State) (f : State → State) : Res := .next (notice s (f s))

/-! ### Completions -/

/-- Bytes to host memory: held while bus mastering is off (R455). -/
def hostWrite (s : State) (a : Nat) (bs : List Byte) : State :=
  if s.host.busMast then { s with out := s.out ++ [.hostWrite a bs] }
  else onHost s (fun h => { h with heldOut := h.heldOut ++ [(a, bs)] })

/-- The 32 bytes of a completion entry (R468). -/
def completionBytes (r : Ring) (cmdId : BitVec 16) (result : Nat) (prog : Bool) (stage : Nat) (d0 d1 d2 : W64) : List Byte :=
  leBytes 2 cmdId.toNat ++ leBytes 2 r.sqHead ++ leBytes 2 result ++ leBytes 1 (b2n r.phase + 2 * b2n prog) ++
    leBytes 1 stage ++ leBytes 8 d0.toNat ++ leBytes 8 d1.toNat ++ leBytes 8 d2.toNat

/-- The interrupt of a ring's unsignalled completions (R458). -/
def signalRing (s : State) (i : Nat) : State := raiseMsix (onRing s i (fun r => { r with unsignalled := 0 })) i

/-- An entry written to a completion ring (R468), with the coalescing of R458: a zero in either field means at once. -/
def writeEntry (s : State) (i : Nat) (cmdId : BitVec 16) (result : Nat) (prog : Bool) (stage : Nat) (d0 d1 d2 : W64) :
    State :=
  let r := ringAt s i
  let s := hostWrite s (r.cqBase.toNat + 32 * r.cqTail) (completionBytes r cmdId result prog stage d0 d1 d2)
  let last := decide (r.cqTail = 4095)
  let s := setRing s i
    { r with cqTail := if last then 0 else r.cqTail + 1
             phase := if last then !r.phase else r.phase
             unsignalled := r.unsignalled + 1 }
  if r.coalTime = 0 ∨ r.coalCount = 0 ∨ r.unsignalled + 1 ≥ r.coalCount.toNat then signalRing s i else s

/-- A command in progress completed: its record goes and its reserved entry is written. -/
def complete (s : State) (p : Prog) (result : Nat) (d0 d1 d2 : W64 := 0) : State :=
  if s.host.progs.contains p then
    let s := onHost s (fun h => { h with progs := h.progs.erase p })
    let s := onRing s p.ring (fun r => { r with reserved := r.reserved - 1 })
    writeEntry s p.ring p.cmdId result false 0 d0 d1 d2
  else s

/-- Every command in progress that satisfies `f` completed. -/
def completeAll (s : State) (f : Prog → Bool) (result : Nat) (d0 d1 d2 : W64 := 0) : State :=
  (s.host.progs.filter f).foldl (fun s p => complete s p result d0 d1 d2) s

/-- A command in progress given a new record. -/
def updProg (s : State) (p q : Prog) : State :=
  onHost s (fun h => { h with progs := h.progs.map (fun x => if x = p then q else x) })

/-! ### Events -/

/-- The three result words of an event (R473). -/
def eventWords (e : Event) : W64 × W64 × W64 :=
  (BitVec.ofNat 64 (e.code % 256 + 2 ^ 16 * e.jobId.toNat + 2 ^ 32 * e.detail.toNat), e.step,
    BitVec.ofNat 64 (e.slot.toNat + 2 ^ 8 * e.extra.toNat))

/-- An event queued, or delivered to a DEV_EVENT_WAIT in progress, or dropped and counted (R473). -/
def queueEvent (s : State) (e : Event) : State :=
  match s.host.progs.find? (fun p => decide (p.state = .event)) with
  | some p => let w := eventWords e; complete s p 0 w.1 w.2.1 w.2.2
  | none =>
    if s.host.events.length ≥ 256 then setSticky (onHost s (fun h => { h with dropped := h.dropped + 1 })) 10
    else setMb (onHost s (fun h => { h with events := h.events ++ [e] })) 0x10

/-- An event of R473 for the open job and its step. The slot, the further detail, and the detail where the spec names none are
free (log 2). -/
def postEvent (s : State) (code : Nat) (detail : Option W32 := none) : State :=
  let (k, s) := drawFree s
  let (l, s) := drawFree s
  let x := Config.freeWord l
  queueEvent s ⟨code, jobIdOf s, detail.getD ((Config.freeWord k).setWidth 32), BitVec.ofNat 64 (currentStep s), x.setWidth 8,
    x.extractLsb' 8 56⟩

/-- A fault record (R577, R578): an event 0x0F. -/
def postRecord (s : State) (n : FaultNote) : State :=
  let detail : W32 := BitVec.ofNat 32 (n.code % 256 + 2 ^ 13 * b2n n.inj + 2 ^ 14 * (n.sev % 4) + 2 ^ 16 * n.det)
  let extra : BitVec 56 := BitVec.ofNat 56 (n.addr % 2 ^ 40 + 2 ^ 42 * (n.tile % 64) + 2 ^ 48 * (n.loc % 256))
  let s := queueEvent s
    ⟨0x0F, jobIdOf s, detail, BitVec.ofNat 64 (currentStep s), BitVec.ofNat 8 n.slot, extra⟩
  { s with rel := { s.rel with records := if s.rel.records = BitVec.allOnes 32 then s.rel.records else s.rel.records + 1 } }

/-! ### Field ports -/

def bundlePorts (b : Nat) : List Nat := (List.range 7).map (fun i => 7 * b + i)

/-- A port that carries traffic (R504). -/
def portUp (p : Port) : Bool := decide (p.state = .up ∨ p.state = .degraded)

/-- The ports of a bundle that carry traffic; the bundle is down where there is none (R504). -/
def upPorts (s : State) (b : Nat) : List Nat := (bundlePorts b).filter (fun f => portUp (portAt s f))

/-- Channel and flits of a link packet (R497). -/
def linkVc : LinkMsg → Nat
  | .part _ => 4 | .glob _ => 5 | .tdecl _ _ _ => 4 | .arrive _ _ _ => 0 | .release _ _ _ => 0 | _ => 1
def linkFlits : LinkMsg → Nat
  | .part _ => 8 | .glob _ => 8 | .amax _ _ _ => 2 | _ => 1

/-- The TYPE code of a link packet (R497). -/
def linkType : LinkMsg → Nat
  | .part _ => 1 | .glob _ => 2 | .tdecl _ _ _ => 3 | .arrive _ _ _ => 4 | .release _ _ _ => 5 | .id _ => 7 | .nak _ => 0 | _ => 6

/-- The payload of a link packet (R497, R505). Of a CTRL packet the spec gives the subtype of byte 0 alone, and not that of
JOIN and of the lane message (log 95). -/
def linkPayload : LinkMsg → List Byte
  | .part l => (l.vals.map (fun v => leBytes 16 v.toNat)).flatten
  | .glob l => (l.vals.map (fun v => leBytes 16 v.toNat)).flatten
  | .tdecl _ _ t => leBytes 2 (uint 16 t)
  | .arrive id l g => leBytes 2 id.toNat ++ leBytes 2 l ++ leBytes 4 g.toNat
  | .release id l g => leBytes 2 id.toNat ++ leBytes 2 l ++ leBytes 4 g.toNat
  | .id p => leBytes 8 p.moduleId.toNat ++ leBytes 8 p.treeId.toNat ++ leBytes 1 (b2n p.side) ++ leBytes 1 p.bundle.val ++
      leBytes 1 p.index.val ++ leBytes 1 p.role
  | .amax first vals final => leBytes 1 1 ++
      Config.layout 10 (leBytes 4 first ++ (vals.map (fun v => leBytes 4 v.toNat)).flatten ++ leBytes 1 (b2n final))
  | .verdict v cause norm => leBytes 1 2 ++ Config.layout 10 (leBytes 1 v ++ leBytes 1 cause ++ leBytes 4 norm.toNat)
  | .prepared n => leBytes 1 3 ++ Config.layout 10 (leBytes 8 n)
  | .commit n => leBytes 1 4 ++ Config.layout 10 (leBytes 8 n)
  | .abort n a c => leBytes 1 5 ++ Config.layout 10 (leBytes 8 n ++ leBytes 1 a ++ leBytes 1 c.toNat)
  | .fault => leBytes 1 6
  | .join id sm3 down ok => Config.layout 10 (leBytes 2 id.toNat ++ beBytes 32 sm3.toNat ++ leBytes 1 (b2n down + 2 * b2n ok))
  | .lane rx pos => Config.layout 10 (leBytes 1 (b2n rx) ++ leBytes 1 pos)
  | .nak _ => []

/-- OOR, RIM, AREA and LINE of a link packet's header (R497). -/
def linkArea : LinkMsg → Nat
  | .part l => fld (b2n l.oor) 51 + fld l.rim.val 47 + fld l.area.val 39 + fld l.line 20
  | .glob l => fld (b2n l.oor) 51 + fld l.rim.val 47 + fld l.area.val 39 + fld l.line 20
  | .tdecl k a _ => fld k 47 + fld a 39
  | _ => 0

/-- A link flit (R496): 64 bytes of payload and the 8-byte header. -/
structure LinkFlit where
  payload : BitVec 512
  header  : BitVec 64
  deriving DecidableEq, Repr

/-- The flits of a link packet (R497): VC, HEAD, TAIL, TYPE and LEN in every header, each header with its CRC. -/
def linkFlitsOf (m : LinkMsg) : List LinkFlit :=
  let n := linkFlits m
  (List.range n).map (fun i =>
    let pay := BitVec.ofNat 512 (leNat (slice (linkPayload m) (64 * i) 64))
    let head := BitVec.ofNat 48 ((fld (linkVc m) 61 + fld (b2n (i == 0)) 60 + fld (b2n (i + 1 == n)) 59 + fld (linkType m) 55 +
      fld (n - 1) 52 + linkArea m) / 2 ^ 16)
    ⟨pay, head ++ Config.linkCrc pay head⟩)

/-- A block's trailer (R497). -/
def trailerWord (tr : Trailer) : BitVec 64 :=
  let t := BitVec.ofNat 48 ((fld tr.seq.toNat 48 + fld tr.ack.toNat 32 + fld (b2n tr.nak) 31 + fld tr.cvc.val 28 +
    fld (tr.credits % 4096) 16) / 2 ^ 16)
  t ++ Config.trailerCrc t

/-- The seven flits of a block: a packet's, and empty ones with TYPE 0 behind them (R496). -/
def blockFlits (l : List LinkFlit) : List LinkFlit :=
  l.take 7 ++ List.replicate (7 - l.length) ⟨0, (0 : BitVec 48) ++ Config.linkCrc 0 0⟩

/-- Flit credits of a channel at a receiver (R499). -/
def linkCredits (vc : Nat) : Nat := if vc < 2 then 64 else 1024

/-- A packet sent on a port against its credits (R496 to R499): it enters the replay buffer and leaves the module. An armed
point 0x0231 or 0x0232 spoils the block, which the partner then asks for again. -/
def sendOnPort (s : State) (f : Nat) (m : LinkMsg) : State :=
  let (inj, w) := fieldInject s.wafer f 0x0231 0x0232
  let s := { s with wafer := match inj with | some d => postField w f d 0 0 0 true | none => w }
  let vc := linkVc m
  let n := linkFlits m
  let s := onPort s f (fun p =>
    { p with nextSeq := p.nextSeq + BitVec.ofNat 16 ((n + 6) / 7)
             sent := p.sent ++ [⟨p.nextSeq + BitVec.ofNat 16 ((n + 6) / 7 - 1), m⟩]
             credits := mput p.credits vc (mget 0 p.credits vc + n)
             ctrs := bumpAt p.ctrs 0xB100 n })
  { s with out := s.out ++ [.link f m] }

/-- True where a port may send a packet now: credits, and room among 4,096 blocks (R498, R499). -/
def mayLink (p : Port) (m : LinkMsg) : Bool :=
  portUp p && decide (mget 0 p.credits (linkVc m) + linkFlits m ≤ linkCredits (linkVc m) ∧ p.sent.length < 2048)

/-- A packet sent over a bundle: by line for PART and GLOBAL, on the bundle's ports that carry traffic (R504), a TDECL on
each of them (R515), and held while it cannot go (R524). -/
def linkSend (s : State) (b : Nat) (m : LinkMsg) : State :=
  let key := match m with | .part l => l.line | .glob l => l.line | _ => 0
  let hold := onTree s (fun t => { t with held := t.held ++ [(b, m)] })
  if s.tree.held.any (fun h => h.1 == b) then hold
  else
    let ps := upPorts s b
    match m with
    | .tdecl _ _ _ =>
      if ps ≠ [] && ps.all (fun f => mayLink (portAt s f) m) then ps.foldl (fun s f => sendOnPort s f m) s else hold
    | _ =>
      (match ps[key % ps.length]? with
        | some f => if mayLink (portAt s f) m then sendOnPort s f m else hold
        | none => hold)

/-- The held traffic tried again, oldest first. -/
def flushLinks (s : State) : State :=
  let held := s.tree.held
  held.foldl (fun s h => linkSend s h.1 h.2) (onTree s (fun t => { t with held := [] }))

/-- The module count and this module's position where the tree is a ring (R509, R517). The manager knows it by its parent
port; how a worker learns it, and the count, the spec does not say (log 62). -/
def ringPlace (s : State) : Option (Nat × Nat) :=
  let c := s.tree.cfg
  if c.role = 1 ∧ c.parent.isSome then some (Config.ringSize c.treeId, 0)
  else if c.role = 2 ∧ c.children.length = 1 then (Config.ringPos c.treeId c.moduleId).map (fun p => (Config.ringSize c.treeId, p))
  else none

/-- The bundles of the module's neighbours (R507). In a ring, control messages take the chain (R509). -/
def childBundles (s : State) : List Nat :=
  match ringPlace s with
  | some (m, p) => if p + 1 = m then [] else s.tree.cfg.children
  | none => s.tree.cfg.children
def parentBundle (s : State) : Option Nat := if s.tree.cfg.role = 2 then s.tree.cfg.parent else none
def treeBundles (s : State) : List Nat := (parentBundle s).toList ++ childBundles s

/-- True in a tree job. -/
def inTree (s : State) : Bool := s.tree.cfg.role != 0

/-- A message to every neighbour. -/
def toNeighbours (s : State) (m : LinkMsg) : State := (treeBundles s).foldl (fun s b => linkSend s b m) s

/-- A message to every neighbour whose bundle is up (R522, R524). -/
def toUpNeighbours (s : State) (m : LinkMsg) : State :=
  ((treeBundles s).filter (fun b => !(upPorts s b).isEmpty)).foldl (fun s b => linkSend s b m) s

/-! ### The job stop (R735) -/

/-- The verdict's code in a landing record and in UPD_VERDICT (R413, R430). -/
def verdictCode : Verdict → Nat
  | .pending => 0 | .apply => 1 | .skip => 2 | .quarantine => 3

/-- RDATA1 of STEP_RUN: the last step's verdict and the stop cause (R480). -/
def runWord (s : State) (cause : Nat) : W64 := BitVec.ofNat 64 (verdictCode s.train.lastV + 256 * cause)

/-- STEP_RUN in progress completed. -/
def endRun (s : State) (result cause : Nat) (mask : W64 := 0) : State :=
  let s := completeAll s (fun p => decide (p.state = .stepRun)) result (lastStepWord s) (runWord s cause) mask
  onTrain s (fun t => { t with run := none })

/-- The job stopped by a fault: the engines halt, the step is abandoned, FAULT goes over the tree, and the commands the
stop ends complete with DCP_FAULT. `fromTree` says that a FAULT from the tree caused it. -/
def stopNow (s : State) : State :=
  let s := onW s (fun w => { w with halted := true })
  let s := postEvent s 0x01
  let s := if inTree s then toUpNeighbours s .fault else s
  let s := endRun s 0x0F 3
  let s := completeAll s (fun p => decide (p.state = .replay ∨ p.state = .jobStart ∨ p.state = .capture)) 0x0F
  onTrain s (fun t =>
    { t with state := if t.state = .closing then .closing else .stopped, step := .reset, run := none, replay := none })

/-- A stop asked for: at once, or when COMMIT or ABORT arrives at a module that has sent PREPARED (R735). -/
def stopJob (s : State) : State :=
  if !jobOpen s || decide (s.train.state = .stopped) then s
  else if s.tree.step.prepSent && !s.tree.step.committed then
    onTree s (fun t => { t with step := { t.step with stopDue := true } })
  else stopNow s

/-! ### Detections -/

/-- The detectors of uncorrectable memory errors that abort a step (R585, R599). -/
def abortDet (d : Nat) : Bool := [0x0102, 0x0104, 0x0105, 0x0106, 0x0107, 0x0127, 0x0137, 0x0302, 0x0434].contains d

/-- The sticky summary bits of a detector (R579). -/
def detBits (d : Nat) : BitVec 16 :=
  if [0x0101, 0x0103, 0x0301, 0x0433].contains d then 0x1
  else if [0x0102, 0x0104, 0x0105, 0x0106, 0x0107, 0x0302, 0x0434].contains d then 0x2
  else if d = 0x0309 then 0x200
  else 0

/-- The severity of a detection in this state: an uncorrectable error outside a step, with the fault of its reader, stops an
open job (R585). -/
def severityOf (s : State) (n : FaultNote) : Nat :=
  if [0x0102, 0x0104, 0x0127, 0x0137].contains n.det ∧ n.sev = 1 ∧ !s.train.step.begun then (if jobOpen s then 2 else 0) else n.sev

/-- The error history of a tile (R595). -/
def noteHistory (s : State) (n : FaultNote) : State :=
  let t := 64 * n.loc + n.tile
  if n.inj ∨ n.loc ≥ 84 then s
  else if [0x0102, 0x0104].contains n.det then
    { s with rel := { s.rel with ues := mput s.rel.ues t (mget 0 s.rel.ues t + 1) } }
  else if [0x0101, 0x0103].contains n.det then
    let c := mget 0 s.rel.ces t + 1
    { s with rel := { s.rel with ces := mput s.rel.ces t c, retest := if c = 1024 then s.rel.retest ++ [t] else s.rel.retest } }
  else s

/-- An HBM row whose repair is due at the next JOB_OPEN (R586). -/
def noteRow (s : State) (n : FaultNote) : State :=
  if n.det = 0x0302 ∧ !s.rel.hbmRows.contains (n.loc - 96, n.addr / 64) then
    { s with rel := { s.rel with hbmRows := s.rel.hbmRows ++ [(n.loc - 96, n.addr / 64)] } }
  else s

/-- A detection handled (R576, R577): its record, its summary bits, the abort it makes due or the stop of the job. -/
def detect (s : State) (n : FaultNote) : State :=
  let n := { n with sev := severityOf s n }
  let s := noteRow (noteHistory s n) n
  let s := { s with rel := { s.rel with sticky := s.rel.sticky ||| detBits n.det } }
  if n.sev = 0 then
    let key := (n.det * 256 + n.loc) * 64 + n.tile
    let c := mget 0 s.rel.seen key
    let s := { s with rel := { s.rel with seen := mput s.rel.seen key (c + 1) } }
    if c % 256 = 0 then postRecord s n else s
  else
    let s := postRecord s n
    if n.sev = 2 then stopJob s
    else if n.sev = 1 ∧ abortDet n.det ∧ s.train.step.begun then
      onTrain s (fun t => { t with step := { t.step with due := t.step.due ||| 0x10 } })
    else s

/-- A detection by a unit outside the wafer. -/
def detectAt (s : State) (det sev loc addr : Nat) (inj : Bool := false) : State :=
  detect s ⟨det, sev, inj, 0, loc, 0, addr, 0⟩

/-- The SYNC_WATCH commands whose watch has fired complete (R301, R483). -/
def fireWatches (s : State) : State :=
  s.host.progs.foldl (fun s p =>
    match p.state with
    | .watch f i =>
      if (fieldAt s.wafer f).comp.getLsbD i then
        complete (onW s (fun w => onField w f (fun x => { x with comp := x.comp &&& ~~~(1#256 <<< i) }))) p 0
          (BitVec.ofNat 64 (256 * f + i))
      else s
    | _ => s) s

/-- True where nothing of the wafer waits for the firmware. -/
def calm (s : State) : Bool :=
  s.wafer.posted.isEmpty && !s.host.progs.any (fun p => match p.state with | .watch _ _ => true | _ => false)

/-- What the firmware does after an event on the wafer: it takes the detections and the fired watches. -/
def settle (s : State) : State :=
  if calm s then s
  else notice s (fireWatches ((s.wafer.posted).foldl detect (onW s (fun w => { w with posted := [] }))))

/-- An event on the wafer: its effect there, and what the firmware makes of it. -/
def onWafer (s : State) (f : Wafer → Wafer) : Res := .next (settle { s with wafer := f s.wafer })

end Sys2Proof.Machine
end

