-- ==== Sys2Proof/Machine/Demitasse.lean ====
section
/-!
DEFINITION. The Demitasse (17 R635 to R660) and the module's side of it (R646, R647, R661 to R664).
-/

namespace Sys2Proof.Machine

open Sys2Proof

/-- The modulus of the energy registers (R643, R644). -/
def meterMod : Nat := 10 ^ 14

/-- The meter changed, nothing else. -/
def onMeter (s : State) (f : Meter → Meter) : State := { s with meter := f s.meter }

/-! ### Event log (R654) -/

/-- An event logged: the last 4,096 are kept. -/
def logEvent (m : Meter) (code : Nat) : Meter :=
  { m with events := (m.events ++ [({ time := m.time, code := code, regs := m.regs } : MeterEvent)]).drop (m.events.length + 1 - 4096), eventNo := m.eventNo + 1 }

def logWhen (c : Bool) (m : Meter) (code : Nat) : Meter := if c then logEvent m code else m

/-- Flags of the open interval raised (R649). -/
def raiseInterval (m : Meter) (b : BitVec 8) : Meter := { m with interval := { m.interval with flags := m.interval.flags ||| b } }

/-! ### Measurement (R639, R640) -/

/-- A 24-bit sample: clipped at full scale. -/
def clip24 (v : Int) : Int := max (-(2 ^ 23)) (min (2 ^ 23 - 1) v)

/-- One sample's energy in units of 2^-96 mWh, in magnitude: 70 V and 750 A of full scale, 32,000 samples a second,
3.6 J to the mWh. -/
def sampleEnergy (v i : Int) : Nat := (v * i).natAbs * 175 * 2 ^ 43 / 3

/-- An accumulator with a contribution: the whole mWh it passes and its residue. -/
def addEnergy (res c : Nat) : Nat × Nat := ((res + c) / 2 ^ 96, (res + c) % 2 ^ 96)

/-- A register advanced (R644), and whether it rolled over. -/
def advance (r n : Nat) : Nat × Bool := ((r + n) % meterMod, decide (meterMod ≤ r + n))

/-- A rollover count: 16 bits, saturating (R643). -/
def rollCount (c : Nat) (b : Bool) : Nat := if b ∧ c < 65535 then c + 1 else c

/-- A sample of feed A or B taken into the registers: E and E_T, or ER. -/
def takeSample (m : Meter) (isB : Bool) (v i : Int) : Meter :=
  let c := sampleEnergy v i
  if 0 ≤ v * i then
    let (n, res) := addEnergy (if isB then m.res.b else m.res.a) c
    let (e, ro) := advance (if isB then m.regs.eB else m.regs.eA) n
    let (t, rt) := advance m.regs.eT n
    let g := { m.regs with eT := t, roT := rollCount m.regs.roT rt }
    let m := if isB then
        { m with res := { m.res with b := res }, regs := { g with eB := e, roB := rollCount g.roB ro } }
      else { m with res := { m.res with a := res }, regs := { g with eA := e, roA := rollCount g.roA ro } }
    logWhen (ro || rt) (if ro || rt then raiseInterval m 0x04 else m) 0x0B
  else
    let (n, res) := addEnergy (if isB then m.res.rB else m.res.rA) c
    let (e, _) := advance (if isB then m.regs.erB else m.regs.erA) n
    let m := if isB then { m with res := { m.res with rB := res }, regs := { m.regs with erB := e } }
      else { m with res := { m.res with rA := res }, regs := { m.regs with erA := e } }
    if n = 0 then m else logEvent (raiseInterval m 0x10) 0x07

/-- A feed's overload: the event that begins it, and the interval's flag (R639). -/
def overload (m : Meter) (isB : Bool) (o : Bool) : Meter :=
  let was := if isB then m.overB else m.overA
  let m := if isB then { m with overB := o } else { m with overA := o }
  if o then logWhen (!was) (raiseInterval m 0x08) 0x06 else m

/-- True where a sample lies beyond full scale. -/
def beyond (v i : Int) : Bool := decide (clip24 v ≠ v ∨ clip24 i ≠ i)

/-- ADC_SAMPLE: both feeds, then meter time (R640, R642). -/
def sampleMeter (m : Meter) (va ia vb ib : Int) : Meter :=
  if m.powered then
    let m := overload (overload m false (beyond va ia)) true (beyond vb ib)
    let m := takeSample (takeSample m false (clip24 va) (clip24 ia)) true (clip24 vb) (clip24 ib)
    { m with time := m.time + 1 }
  else m

/-! ### Job marks and intervals (R646 to R652) -/

/-- One step of the CRC-32 of IEEE 802.3, reflected. -/
def crc32Bits : Nat → Nat → Nat
  | 0, c => c
  | n + 1, c => crc32Bits n (if c % 2 = 1 then (c / 2) ^^^ 0xEDB88320 else c / 2)

/-- The CRC-32 of a list of bytes. -/
def crc32 (bs : List Byte) : Nat := (bs.foldl (fun c b => crc32Bits 8 (c ^^^ b.toNat)) 0xFFFFFFFF) ^^^ 0xFFFFFFFF

/-- One step of the CRC-16/CCITT. -/
def crc16Bits : Nat → Nat → Nat
  | 0, c => c
  | n + 1, c => crc16Bits n (if c ≥ 0x8000 then ((2 * c) % 65536) ^^^ 0x1021 else 2 * c)

/-- The CRC-16/CCITT of a list of bytes, from all ones. -/
def crc16 (bs : List Byte) : Nat := bs.foldl (fun c b => crc16Bits 8 (c ^^^ (256 * b.toNat))) 0xFFFF

/-- The 16 bytes of a mark frame (R646). -/
def markBytes (m : Mark) : List Byte :=
  let body := [0xA5#8] ++ leBytes 1 m.kind ++ leBytes 2 m.jobId.toNat ++ leBytes 4 m.seq.toNat ++ leBytes 4 0
  body ++ leBytes 4 (crc32 body)

/-- A valid frame's mark (R648). -/
def parseMark (bs : List Byte) : Option Mark :=
  if bs.length = 16 ∧ fieldN bs 0 1 = 0xA5 ∧ 1 ≤ fieldN bs 1 1 ∧ fieldN bs 1 1 ≤ 3 ∧ fieldN bs 8 4 = 0 ∧
      fieldN bs 12 4 = crc32 (bs.take 12) then
    some ⟨fieldN bs 1 1, BitVec.ofNat 16 (fieldN bs 2 2), BitVec.ofNat 32 (fieldN bs 4 4)⟩
  else none

/-- MARK_FRAME: discarded and counted, ignored as a copy, or accepted. 100 µs are at most 3 sample periods. The interval closes
no earlier than at the end of the first period that begins after the frame (R648). -/
def receiveMark (m : Meter) (bs : List Byte) : Meter :=
  if m.powered then
    match parseMark bs with
    | none => logEvent { m with discarded := m.discarded + 1 } 0x04
    | some k =>
      if m.lastSeq = some k.seq ∧ (m.time - m.markTime).toNat ≤ 3 then m
      else
        let gap := match m.lastSeq with | some q => decide (k.seq ≠ q + 1) | none => false
        let m := { m with lastSeq := some k.seq, markTime := m.time
                          closeAt := if m.interval.marks = [] then m.time + 2 else m.closeAt
                          interval := { m.interval with marks := m.interval.marks ++ [(k, gap)] } }
        logWhen gap m 0x05
  else m

/-- The open interval's running values. -/
def running (e base : Nat) : Nat := (e + meterMod - base) % meterMod

/-- The check of R651: each register equals the closed intervals and the open one. -/
def registersAgree (m : Meter) : Bool :=
  decide ((m.sumA + running m.regs.eA m.interval.endA) % meterMod = m.regs.eA ∧
    (m.sumB + running m.regs.eB m.interval.endB) % meterMod = m.regs.eB)

/-- A record kept: the last 131,072, with the counts of what is overwritten (R652, R654). -/
def keepRecord (m : Meter) (r : Interval) : Meter :=
  if m.records.length < 131072 then { m with records := m.records ++ [r] }
  else
    match m.records with
    | [] => m
    | old :: rest =>
      let m := { m with records := rest ++ [r], overwrote := m.overwrote + 1 }
      if old.no.toNat < m.readTo.toNat then m
      else logWhen (decide (m.overUnread % 1024 = 0)) { m with overUnread := m.overUnread + 1 } 0x0A

/-- What the meter saves (R645). -/
def saveMeter (m : Meter) : Meter := { m with saved := ⟨m.regs, m.res, m.time, m.interval⟩ }

/-- INTERVAL_CLOSE (R648, R649, R651): not before the boundary that its mark waits for, and one in a sample period. -/
def closeInterval (m : Meter) : Meter :=
  match m.powered && decide (m.closeAt.toNat ≤ m.time.toNat), m.interval.marks with
  | true, (k, gap) :: rest =>
    let ok := registersAgree m
    let deA := running m.regs.eA m.interval.endA
    let deB := running m.regs.eB m.interval.endB
    let flags := m.interval.flags ||| (if gap then 0x01 else 0) ||| (if ok then 0 else 0x40)
    let m := if ok then m else logEvent { m with checkFail := true } 0x09
    let m := keepRecord m ⟨m.interval.no, m.time, m.regs.eA, m.regs.eB, deA, deB, k.seq, k.jobId, k.kind, flags⟩
    saveMeter { m with sumA := (m.sumA + deA) % meterMod, sumB := (m.sumB + deB) % meterMod, closeAt := m.time + 1
                       interval := ⟨m.interval.no + 1, m.regs.eA, m.regs.eB, 0, rest⟩ }
  | _, _ => m

/-! ### Supply and case (R637, R642, R645) -/

/-- SUPPLY_FAILING: the event, the save, and the loss of the supply. -/
def failSupply (m : Meter) : Meter :=
  if m.powered then { saveMeter (logEvent m 0x02) with powered := false } else m

/-- METER_POWER_UP: the saved state comes back, meter time goes on or is lost, and the checks run. -/
def powerMeter (m : Meter) (elapsed : Nat) (kept : Bool) : Meter :=
  if m.powered then m
  else
    let t := if kept then m.saved.time + BitVec.ofNat 64 elapsed else m.saved.time
    let m := { m with powered := true, regs := m.saved.regs, res := m.saved.res, time := t, interval := m.saved.interval, closeAt := t + 1 }
    let m := raiseInterval (logEvent m 0x01) 0x02
    let m := if m.caseLatch then logEvent { m with caseLatch := false, caseOpen := true } 0x03 else m
    let m := if kept then m else logEvent (raiseInterval { m with timeLost := true } 0x20) 0x08
    if registersAgree m then m else logEvent { m with checkFail := true } 0x09

/-- The status flags; the spec gives them no layout (log 45). -/
def meterFlags (m : Meter) : Nat :=
  b2n m.caseOpen + 2 * b2n m.checkFail + 4 * b2n m.timeLost + 8 * b2n (m.overA || m.overB)

/-! ### Display (R657) -/

/-- What the display shows: an energy in mWh, shown as kWh with six decimals, "Err" in its place, a number, meter time in days
and seconds, or text from the identity store. -/
inductive Shown where
  | energy (mWh : Nat) | err | number (n : Nat) | clock (days seconds : Nat) | text (bytes : List Byte)
  deriving DecidableEq, Repr

/-- A feed's energy, or "Err" where its register fails the check of R651. -/
def shownEnergy (sum endE e : Nat) : Shown := if (sum + running e endE) % meterMod = e then .energy e else .err

/-- The values of the item that the display shows. -/
def display (m : Meter) : List Shown :=
  match m.item with
  | 1 => [.energy m.regs.eT]
  | 2 => [shownEnergy m.sumA m.interval.endA m.regs.eA]
  | 3 => [shownEnergy m.sumB m.interval.endB m.regs.eB]
  | 4 => [.energy m.regs.erA]
  | 5 => [.energy m.regs.erB]
  | 6 => [.number m.regs.roT, .number m.regs.roA, .number m.regs.roB]
  | 7 => [.number m.interval.no.toNat, .energy (running m.regs.eA m.interval.endA + running m.regs.eB m.interval.endB)]
  | 8 => (match m.records.getLast? with | some r => [.number r.no.toNat, .energy (r.deA + r.deB)] | none => [])
  | 9 => [.clock (m.time.toNat / 32000 / 86400) (m.time.toNat / 32000 % 86400)]
  | 10 => [.number (meterFlags m), .number m.eventNo.toNat]
  | 11 => [.text Config.meterSoftware]
  | _ => [.number Config.meterSerial.toNat]

/-! ### Port (R658, R659) -/

/-- A response frame. -/
def portFrame (cmd status : Nat) (payload : List Byte) : List Byte :=
  let body := leBytes 1 (cmd + 0x80) ++ leBytes 1 status ++ leBytes 2 payload.length ++ payload
  [0x7E#8] ++ body ++ leBytes 2 (crc16 body)

/-- The bytes of the registers in the order of R643. -/
def registerBytes (r : Registers) : List Byte :=
  leBytes 8 r.eA ++ leBytes 8 r.eB ++ leBytes 8 r.eT ++ leBytes 8 r.erA ++ leBytes 8 r.erB ++ leBytes 2 r.roA ++
    leBytes 2 r.roB ++ leBytes 2 r.roT

/-- An interval record (R649). -/
def intervalBytes (r : Interval) : List Byte :=
  leBytes 8 r.no.toNat ++ leBytes 8 r.time.toNat ++ leBytes 8 r.endA ++ leBytes 8 r.endB ++ leBytes 8 r.deA ++
    leBytes 8 r.deB ++ leBytes 4 r.seq.toNat ++ leBytes 2 r.jobId.toNat ++ leBytes 1 r.kind ++ leBytes 1 r.flags.toNat ++
    leBytes 8 0

/-- An entry of the event log. -/
def meterEventBytes (e : MeterEvent) : List Byte := leBytes 8 e.time.toNat ++ leBytes 1 e.code ++ registerBytes e.regs

/-- A payload with the meter's signature over the nonce and it (R655). -/
def signed (nonce payload : List Byte) : List Byte :=
  payload ++ beBytes 64 (Config.sm2Sign 2 (nonce ++ payload)).toNat

/-- A response sent by a powered meter. -/
def answerPort (s : State) (cmd status : Nat) (payload : List Byte) : State :=
  { s with out := s.out ++ [.meterPort (portFrame cmd status payload)] }

/-- The payload of TOTALS before its signature. -/
def totalsBytes (m : Meter) : List Byte :=
  leBytes 8 Config.meterSerial.toNat ++ leBytes 8 m.time.toNat ++ registerBytes m.regs ++ leBytes 1 (meterFlags m) ++
    leBytes 8 m.interval.no.toNat ++ leBytes 8 (running m.regs.eA m.interval.endA) ++
    leBytes 8 (running m.regs.eB m.interval.endB) ++ leBytes 4 m.eventNo.toNat ++ leBytes 8 m.overwrote.toNat

/-- INTERVALS: the records asked for that are held; a range whose first record is gone is refused with 0x03. -/
def answerIntervals (s : State) (nonce : List Byte) (first count : Nat) : State :=
  let m := s.meter
  let got := m.records.filter (fun r => decide (first ≤ r.no.toNat ∧ r.no.toNat < first + count))
  if nonce.length ≠ 16 ∨ count = 0 ∨ count > 64 ∨ first ≥ m.interval.no.toNat then answerPort s 0x03 0x02 []
  else if (got.head?.map (fun r => r.no.toNat)) ≠ some first then answerPort s 0x03 0x03 []
  else
    let s := onMeter s (fun m => { m with readTo := BitVec.ofNat 64 (max m.readTo.toNat (first + got.length)) })
    answerPort s 0x03 0x00 (signed nonce ((got.map intervalBytes).flatten))

/-- EVENTS: event numbers count from 0; the last 4,096 are held. -/
def answerEvents (s : State) (nonce : List Byte) (first count : Nat) : State :=
  let m := s.meter
  let base := m.eventNo.toNat - m.events.length
  if nonce.length ≠ 16 ∨ count = 0 ∨ count > 64 ∨ first ≥ m.eventNo.toNat then answerPort s 0x04 0x02 []
  else if first < base then answerPort s 0x04 0x03 []
  else answerPort s 0x04 0x00 (signed nonce (((m.events.drop (first - base)).take count).map meterEventBytes).flatten)

/-! ### The module's side -/

/-- The meter is present (R661). -/
def metered (s : State) : Bool := s.dmt.loop && s.dmt.idOk

/-- A mark queued at the module with the next MARK_SEQ (R647); none while the meter is absent. -/
def queueMark (s : State) (kind : Nat) (job : BitVec 16) : State :=
  if metered s then
    { s with dmt := { s.dmt with queue := s.dmt.queue ++ [⟨kind, job, s.dmt.nextSeq⟩], nextSeq := s.dmt.nextSeq + 1 } }
  else s

/-- JOB_MARK_SEND (R647): the frame three times; a mark that finds the meter absent is skipped (R662). -/
def sendMark (s : State) : State :=
  match s.dmt.queue with
  | [] => s
  | k :: rest =>
    let s := { s with dmt := { s.dmt with queue := rest } }
    if metered s then
      let f := OutMsg.markFrame (markBytes k)
      { s with dmt := { s.dmt with lastSeq := k.seq }, out := s.out ++ [f, f, f] }
    else s

/-- A measurement register extended (R614). -/
def extendMr (s : State) (i : Nat) (v : List Byte) : State :=
  let old := mget 0 s.sec.mr i
  { s with sec := { s.sec with mr := mput s.sec.mr i (Config.sm3 (beBytes 32 old.toNat ++ v)) } }

/-- The meter's removal (R662): the record and event 0x0A, an open job unmetered, and the marks that waited gone. -/
def meterGone (s : State) (inj : Bool) : State :=
  let s := setSticky (detectAt s 0x0438 1 0xFF 0 inj) 12
  let s := onTrain s (fun t => { t with job := t.job.map (fun j => { j with unmetered := true }) })
  postEvent { s with dmt := { s.dmt with queue := [] } } 0x0A

/-- PRESENCE_CHANGE (R661 to R663): point 0x0438 masks the presence line. -/
def changePresence (s : State) (loop idOk : Bool) (identity : List Byte) : State :=
  let was := metered s
  let (inj, w) := if loop then modInject s.wafer 0x0438 0x0438 else (none, s.wafer)
  let loop := loop && inj.isNone
  let s := { s with wafer := w, dmt := { s.dmt with loop := loop, idOk := idOk, idHash := Config.sm3 identity } }
  if was && !metered s then meterGone s inj.isSome
  else if !was && metered s then
    postEvent (extendMr s 3 (beBytes 32 (Config.sm3 identity).toNat)) 0x0A
  else s

/-! ### The commands -/

/-- ADC_SAMPLE. -/
def execAdcSample (va ia vb ib : Int) (s : State) : Res := .next { s with meter := sampleMeter s.meter va ia vb ib }

/-- MARK_FRAME. -/
def execMarkFrame (frame : List Byte) (s : State) : Res := .next { s with meter := receiveMark s.meter frame }

/-- INTERVAL_CLOSE. -/
def execIntervalClose (s : State) : Res := .next { s with meter := closeInterval s.meter }

/-- METER_SAVE. -/
def execMeterSave (s : State) : Res := .next { s with meter := if s.meter.powered then saveMeter s.meter else s.meter }

/-- SUPPLY_FAILING. -/
def execSupplyFailing (s : State) : Res := .next { s with meter := failSupply s.meter }

/-- METER_POWER_UP. -/
def execMeterPowerUp (elapsed : Nat) (kept : Bool) (s : State) : Res :=
  .next { s with meter := powerMeter s.meter elapsed kept }

/-- CASE_OPENED (R637): with or without power. -/
def execCaseOpened (s : State) : Res := .next { s with meter := { s.meter with caseLatch := true } }

/-- DISPLAY_ADVANCE (R657). -/
def execDisplayAdvance (s : State) : Res :=
  .next { s with meter := { s.meter with item := if s.meter.powered then s.meter.item % 12 + 1 else s.meter.item } }

/-- DISPLAY_RETURN_TIMEOUT (R657). -/
def execDisplayReturnTimeout (s : State) : Res :=
  .next { s with meter := { s.meter with item := if s.meter.powered then 1 else s.meter.item } }

/-- IDENTIFY. -/
def execIdentify (s : State) : Res :=
  .next (if s.meter.powered then answerPort s 0x01 0x00 Config.meterStore else s)

/-- TOTALS. -/
def execTotals (nonce : List Byte) (s : State) : Res :=
  .next (if s.meter.powered then
      (if nonce.length = 16 then answerPort s 0x02 0x00 (signed nonce (totalsBytes s.meter)) else answerPort s 0x02 0x02 [])
    else s)

/-- INTERVALS. -/
def execIntervals (nonce : List Byte) (first count : Nat) (s : State) : Res :=
  .next (if s.meter.powered then answerIntervals s nonce first count else s)

/-- EVENTS. -/
def execEvents (nonce : List Byte) (first count : Nat) (s : State) : Res :=
  .next (if s.meter.powered then answerEvents s nonce first count else s)

/-- STATUS. -/
def execStatus (s : State) : Res :=
  .next (if s.meter.powered then
      answerPort s 0x05 0x00 (leBytes 1 (meterFlags s.meter) ++ leBytes 4 s.meter.eventNo.toNat ++
        leBytes 8 s.meter.overwrote.toNat)
    else s)

/-- JOB_MARK_SEND. -/
def execJobMarkSend (s : State) : Res := .next (sendMark s)

/-- PRESENCE_CHANGE. -/
def execPresenceChange (loop idOk : Bool) (identity : List Byte) (s : State) : Res :=
  noting s (fun s => changePresence s loop idOk identity)

end Sys2Proof.Machine
end

