-- ==== Sys2Proof/Machine/Rim.lean ====
section
/-!
DEFINITION. The rim segments (09): HBM blocks and companion memory, accumulation areas with their cache, and the
stream engine.
-/

namespace Sys2Proof.Machine

open Sys2Proof

/-! ### HBM and companion memory (R339 to R343, R580 to R586) -/

/-- The 2 MiB blocks that `[off, off + n)` touches. -/
def blocksOf (off n : Nat) : List Nat :=
  if n = 0 then [] else (List.range ((off + n - 1) / 2097152 + 1 - off / 2097152)).map (fun i => off / 2097152 + i)

/-- Bytes of a stack read by a unit of the module, with the counters of the read (R581); none where a granule is
uncorrectable. Such a granule of a RETAINED block stops the job (R585). -/
def hbmLoad (w : Wafer) (k off n : Nat) (sev : Nat := 1) : Option (List Byte) × Wafer :=
  let r := rimAt w k
  let gs := granules off n
  let ce := (gs.filter (fun i => r.cor.contains i)).length
  let w := if ce = 0 then w else postRim (rimBump w k 0x32100 ce) k 0x0301 0 0 off
  match gs.find? (fun i => r.unc.contains i) with
  | some i => (none, postRim (rimBump w k 0x32108 1) k 0x0302 (if r.block (i / 32768) = .retained then max sev (2 * sev) else sev) 0 (64 * i))
  | none => (some (r.mem.readN off n), w)

/-- A first write to a ZERO block leaves it in JOB (R340). The reserved blocks have no state (R736). -/
def fillBlocks (w : Wafer) (k off n : Nat) : Wafer :=
  (blocksOf off n).foldl (fun w b =>
    if b < 32766 ∧ (rimAt w k).block b = .zero then
      onRim w k (fun r => { r with blocks := mput r.blocks b .job, ctrs := bumpAt r.ctrs 0x30138 1 })
    else w) w

/-- Bytes written to a stack; points 0x0301 and 0x0302 spoil a granule (R582, R599). -/
def hbmStore (w : Wafer) (k off : Nat) (bs : List Byte) : Wafer :=
  let w := fillBlocks w k off bs.length
  let r := rimAt w k
  let land := if r.unc = [] then bs.zipIdx.map (fun (b, i) => (off + i, b)) else landing r.unc 64 off bs
  let w := setRim w k
    { r with mem := land.foldl (fun m p => m.write p.1 p.2) r.mem
             unc := cleared r.unc 64 off bs.length
             cor := cleared r.cor 64 off bs.length }
  let w := if land.length = bs.length then w else postRim (rimBump w k 0x32108 1) k 0x0302 1 0 off
  match rimInject w k 0x0301 0x0302 with
  | (some 0x0301, w) => onRim w k (fun r => { r with cor := r.cor ++ [off / 64] })
  | (some _, w) => onRim w k (fun r => { r with unc := r.unc ++ [off / 64] })
  | (none, w) => w

/-- A location of an error outside the fields and rims: the companion memory (R578). -/
def postComp (w : Wafer) (det sev addr : Nat) (inj : Bool := false) : Wafer := post w ⟨det, sev, inj, 0, 0xC1, 0, addr, 0⟩

/-- Bytes of companion memory read. -/
def compLoad (w : Wafer) (off n : Nat) (sev : Nat := 1) : Option (List Byte) × Wafer :=
  let gs := granules off n
  let w' := if gs.any (fun i => w.comp.cor.contains i) then postComp w 0x0433 0 off else w
  match gs.find? (fun i => w.comp.unc.contains i) with
  | some i => (none, postComp w' 0x0434 sev (64 * i))
  | none => (some (w.comp.mem.readN off n), w')

/-- Bytes written to companion memory; points 0x0433 and 0x0434 spoil a granule. -/
def compStore (w : Wafer) (off : Nat) (bs : List Byte) : Wafer :=
  let land := if w.comp.unc = [] then bs.zipIdx.map (fun (b, i) => (off + i, b)) else landing w.comp.unc 64 off bs
  let blocks := (blocksOf off bs.length).foldl (fun m b =>
    if mget BlockState.zero m b = .zero then mput m b .job else m) w.comp.blocks
  let short := decide (land.length ≠ bs.length)
  let w := { w with comp := { w.comp with mem := land.foldl (fun m p => m.write p.1 p.2) w.comp.mem
                                          blocks := blocks
                                          unc := cleared w.comp.unc 64 off bs.length
                                          cor := cleared w.comp.cor 64 off bs.length } }
  let w := if short then postComp w 0x0434 1 off else w
  match modInject w 0x0433 0x0434 with
  | (some 0x0433, w) => { w with comp := { w.comp with cor := w.comp.cor ++ [off / 64] } }
  | (some _, w) => { w with comp := { w.comp with unc := w.comp.unc ++ [off / 64] } }
  | (none, w) => w

/-- The parts of a write to `[off, off + n)` outside RETAINED blocks, block by block. -/
def unretained (kept : Nat → Bool) (off : Nat) (bs : List Byte) : List (Nat × List Byte) :=
  (blocksOf off bs.length).filterMap (fun b =>
    let lo := max off (b * 2097152)
    let hi := min (off + bs.length) ((b + 1) * 2097152)
    if kept b then none else some (lo, (bs.drop (lo - off)).take (hi - lo)))

/-- A write by a unit of the module for the open job: in RETAINED blocks nothing lands (R339). -/
def hbmJobStore (w : Wafer) (k off : Nat) (bs : List Byte) : Wafer :=
  (unretained (fun b => (rimAt w k).block b == .retained) off bs).foldl (fun w p => hbmStore w k p.1 p.2) w

/-- The same to companion memory (R343, R408). -/
def compJobStore (w : Wafer) (off : Nat) (bs : List Byte) : Wafer :=
  (unretained (fun b => mget BlockState.zero w.comp.blocks b == .retained) off bs).foldl (fun w p => compStore w p.1 p.2) w

/-- A device address of HBM kind 0x0 or companion memory read by the firmware, the update unit or a core. -/
def devLoad (w : Wafer) (a n : Nat) (sev : Nat := 1) : Option (List Byte) × Wafer :=
  match place w 0 a with
  | .hbm k off => hbmLoad w k off n sev
  | .comp off => compLoad w off n sev
  | _ => (none, w)

/-- The same written. -/
def devStore (w : Wafer) (a : Nat) (bs : List Byte) : Wafer :=
  match place w 0 a with
  | .hbm k off => hbmStore w k off bs
  | .comp off => compStore w off bs
  | _ => w

/-- The same written for the open job (R339). -/
def devJobStore (w : Wafer) (a : Nat) (bs : List Byte) : Wafer :=
  match place w 0 a with
  | .hbm k off => hbmJobStore w k off bs
  | .comp off => compJobStore w off bs
  | _ => w

/-- Every JOB block of a stack becomes ZERO (R340); `all` takes RETAINED blocks too (R624, R629). The reserved area
holds the epoch table, which the model keeps in the update unit. -/
def zeroBlocks (r : Rim) (all : Bool) : Rim :=
  let hit := (r.blocks.filter (fun p => decide (p.2 = .job) || all)).map Prod.fst
  { r with blocks := mputAll r.blocks hit .zero
           mem := r.mem.filter (fun c => !(hit.contains (c.1 / 2097152)))
           unc := r.unc.filter (fun g => !(hit.contains (g * 64 / 2097152)))
           cor := r.cor.filter (fun g => !(hit.contains (g * 64 / 2097152))) }

/-- The same of companion memory outside the firmware's region (R408). -/
def zeroComp (c : Comp) : Comp :=
  { c with blocks := c.blocks.filter (fun p => decide (fwRegion ≤ p.1 * 2097152))
           mem := c.mem.filter (fun x => decide (fwRegion ≤ x.1))
           unc := c.unc.filter (fun g => decide (fwRegion ≤ 64 * g))
           cor := c.cor.filter (fun g => decide (fwRegion ≤ 64 * g)) }

/-- BACKGROUND_ZEROER (R340): a ZERO block of a stack becomes a zero-filled JOB block. -/
def zeroerStep (w : Wafer) (k block : Nat) : Wafer :=
  if block < 32766 ∧ (rimAt w k).block block = .zero then onRim w k (fun r => { r with blocks := mput r.blocks block .job })
  else w

/-! ### Accumulation areas (R357 to R364) -/

def areaAt (r : Rim) (a : Nat) : Area := mget .reset r.areas a
def onArea (w : Wafer) (k a : Nat) (f : Area → Area) : Wafer :=
  onRim w k (fun r => { r with areas := mput r.areas a (f (areaAt r a)) })

/-- Lines of an area. -/
def Area.lines (x : Area) : Nat := x.count / 32

/-- Where a line's elements and its arrival count lie in the stack (R358). -/
def Area.lineOff (x : Area) (l : Nat) : Nat := x.base + 512 * l
def Area.countOff (x : Area) (l : Nat) : Nat := x.base + 16 * x.count + 8 * l

/-- The 128-bit elements of some bytes, and back. -/
def wide (bs : List Byte) : List (BitVec 128) := (List.range (bs.length / 16)).map (fun i => BitVec.ofNat 128 (fieldN bs (16 * i) 16))
def wideBytes (l : List (BitVec 128)) : List Byte := (l.map (fun v => leBytes 16 v.toNat)).flatten

/-- A line of an area in the cache (R364). -/
def heldLine (r : Rim) (a l : Nat) : Option CacheLine := r.cache.find? (fun c => c.area == a && c.line == l)

/-- A line of an area with its arrival count: from the cache, else as the stack holds it (R358, R364). -/
def accLineAt (r : Rim) (a l : Nat) : CacheLine :=
  (heldLine r a l).getD ⟨a, l, wide (r.mem.readN ((areaAt r a).lineOff l) 512), leNat (r.mem.readN ((areaAt r a).countOff l) 8)⟩

/-- The elements of a line, and its arrivals. -/
def lineVals (r : Rim) (a l : Nat) : List (BitVec 128) := (accLineAt r a l).vals
def arrivalsOf (r : Rim) (a l : Nat) : Nat := (accLineAt r a l).arrivals

/-- A line taken into the adders: from the cache, else read from the stack; none where a granule is uncorrectable. -/
def fetchLine (w : Wafer) (k a l : Nat) : Option CacheLine × Wafer :=
  match heldLine (rimAt w k) a l with
  | some c => (some c, w)
  | none =>
    let x := areaAt (rimAt w k) a
    match hbmLoad w k (x.lineOff l) 512 with
    | (none, w) => (none, w)
    | (some bs, w) =>
      match hbmLoad w k (x.countOff l) 8 with
      | (none, w) => (none, w)
      | (some cs, w) => (some ⟨a, l, wide bs, leNat cs⟩, w)

/-- Some lines taken, in order. -/
def fetchLines (k a : Nat) : Wafer → List Nat → Option (List CacheLine) × Wafer
  | w, [] => (some [], w)
  | w, l :: ls =>
    match fetchLine w k a l with
    | (none, w) => (none, w)
    | (some c, w) => ((fetchLines k a w ls).1.map (c :: ·), (fetchLines k a w ls).2)

/-- A cached line written to HBM with its count. -/
def evict (w : Wafer) (k : Nat) (c : CacheLine) : Wafer :=
  let x := areaAt (rimAt w k) c.area
  hbmJobStore (hbmJobStore w k (x.lineOff c.line) (wideBytes c.vals)) k (x.countOff c.line) (leBytes 8 c.arrivals)

/-- A line written to the cache, most recently used; the least recently used line leaves a full cache. -/
def putLine (w : Wafer) (k : Nat) (c : CacheLine) : Wafer :=
  let rest := (rimAt w k).cache.filter (fun d => !(d.area == c.area && d.line == c.line))
  let w := onRim w k (fun r => { r with cache := c :: rest.take 16383 })
  match rest[16383]? with
  | some d => rimBump (evict w k d) k 0x30128 1
  | none => w

/-- The cached lines of an area written back to HBM (R363). -/
def flushArea (w : Wafer) (k a : Nat) : Wafer :=
  let w := ((rimAt w k).cache.filter (fun c => c.area == a)).foldl (fun w c => evict w k c) w
  onRim w k (fun r => { r with cache := r.cache.filter (fun c => c.area != a) })

/-- The elements of a complete area read by a unit of the rim: false where one is uncorrectable (R585). -/
def readArea (w : Wafer) (k a : Nat) : Bool × Wafer :=
  let x := areaAt (rimAt w k) a
  let r := hbmLoad w k x.base (16 * x.count)
  (r.1.isSome, r.2)

/-- Element `e` of an area. -/
def areaVal (r : Rim) (a e : Nat) : BitVec 128 := (lineVals r a (e / 32)).getD (e % 32) 0

/-- Element `e` converted to FP32 (R82, R398); every element of an area out of range is non-finite (R80). -/
def areaF32 (r : Rim) (a e : Nat) (lam : Int) : W32 :=
  let x := areaAt r a
  if x.oor then nan32 else acc128ToF32 x.t lam (areaVal r a e)

/-- AREA_OPEN (R358, R359, R382): the control processor writes a FREE area's fields and its zeroing begins. -/
def openArea (w : Wafer) (k a base count : Nat) (t : Int) (expect : Nat) : Wafer :=
  if (areaAt (rimAt w k) a).state = .free ∧ base % 64 = 0 ∧ count % 32 = 0 ∧ 0 < count ∧ count ≤ 16777216 ∧
      -160 ≤ t ∧ t ≤ 128 ∧ 1 ≤ expect ∧ expect ≤ 2 ^ 32 ∧ base + 16 * count + count / 4 ≤ rimReserved then
    onArea w k a (fun _ => { Area.reset with base := base, count := count, t := t, expect := expect, state := .zeroing })
  else w

/-- Bytes of a stack zeroed for the open job: RETAINED blocks keep theirs (R339, R359). -/
def Rim.clear (r : Rim) (off n : Nat) : Rim :=
  let keep (a : Nat) : Bool := r.block (a / 2097152) == .retained
  { r with mem := r.mem.filter (fun c => decide (c.1 < off ∨ off + n ≤ c.1) || keep c.1)
           unc := r.unc.filter (fun g => !decide (off ≤ g * 64 ∧ g * 64 + 64 ≤ off + n) || keep (64 * g))
           cor := r.cor.filter (fun g => !decide (off ≤ g * 64 ∧ g * 64 + 64 ≤ off + n) || keep (64 * g)) }

/-- AREA_ZEROING_DONE (R359): elements and counts are zero and the area is OPEN. -/
def zeroArea (w : Wafer) (k a : Nat) : Wafer :=
  let x := areaAt (rimAt w k) a
  if x.state = .zeroing then
    let w := fillBlocks w k x.base (16 * x.count + x.count / 4)
    onRim w k (fun r =>
      { r.clear x.base (16 * x.count + x.count / 4) with
          cache := r.cache.filter (fun c => c.area != a)
          areas := mput r.areas a { x with state := .open, oor := false, decls := [] } })
  else w

/-- One addend to one element: an FP32 addend under R79, a partial as an integer; the second part is the out-of-range
flag it sets (R80). -/
def addTo (t : Int) (v : BitVec 128) (addend : W32 ⊕ BitVec 128) : BitVec 128 × Bool :=
  match addend with
  | .inl x => (match acc128Addend t x with
    | some i => (v + BitVec.ofInt 128 i, false)
    | none => (v, true))
  | .inr p => (v + p, false)

/-- The addends of one line added (R361, R362): the line's count rises by one. -/
def addLine (w : Wafer) (k : Nat) (c : CacheLine) (addends : List (W32 ⊕ BitVec 128)) : Wafer :=
  let sums := List.zipWith (addTo (areaAt (rimAt w k) c.area).t) c.vals addends
  let w := putLine w k { c with vals := sums.map Prod.fst, arrivals := c.arrivals + 1 }
  rimBump (onArea w k c.area (fun y => { y with oor := y.oor || sums.any Prod.snd })) k 0x30118 addends.length

/-- True where every line of an area holds EXPECT arrivals (R363). -/
def areaFull (r : Rim) (a : Nat) : Bool :=
  let x := areaAt r a
  decide (x.state = .open) && (List.range x.lines).all (fun l => decide (arrivalsOf r a l = x.expect))

/-- A full area becomes COMPLETE and its cached lines go back to HBM (R363). -/
def completeArea (w : Wafer) (k a : Nat) : Wafer :=
  if areaFull (rimAt w k) a then onArea (flushArea w k a) k a (fun x => { x with state := .complete }) else w

/-- An ACC write as (kind, area, line, lines), or none where it covers no whole lines of the area or does not fit
(R360). -/
def accLines (x : Area) (kind off n : Nat) : Option (Nat × Nat) :=
  if kind = 8 then (if off % 128 = 0 ∧ n % 128 = 0 ∧ 0 < n ∧ (off + n) / 128 ≤ x.lines then some (off / 128, n / 128) else none)
  else if kind = 9 then (if off % 512 = 0 ∧ n = 512 ∧ off / 512 < x.lines then some (off / 512, 1) else none)
  else none

/-- The addends of line `i` of a packet. -/
def packetLine (kind : Nat) (bs : List Byte) (i : Nat) : List (W32 ⊕ BitVec 128) :=
  (List.range 32).map (fun j =>
    if kind = 8 then .inl (BitVec.ofNat 32 (fieldN bs (128 * i + 4 * j) 4))
    else .inr (BitVec.ofNat 128 (fieldN bs (512 * i + 16 * j) 16)))

/-- A source's latest declared T (R361). -/
def declared (x : Area) (e : Endpoint) : Option Int := (x.decls.find? (fun d => decide (d.1 = e))).map Prod.snd

/-- An ACC packet's effect on an area that is not ZEROING, with its status (R360, R361). A line that cannot be read takes
no addend: the packet is answered as a read would be, and the step is aborted (R400, DESIGN CHOICE 97). -/
def accumulateAt (w : Wafer) (k kind a off : Nat) (src : Endpoint) (bs : List Byte) : Nat × Wafer :=
  let x := areaAt (rimAt w k) a
  let refuse (w : Wafer) := (1, rimBump w k 0x30120 1)
  if x.state ≠ .open then refuse w
  else if kind = 10 then
    if off = 0 ∧ bs.length ≤ 64 then
      (0, onArea w k a (fun y =>
        { y with decls := (src, sint 16 (fieldN bs 0 2)) :: y.decls.filter (fun d => decide (d.1 ≠ src)) }))
    else refuse w
  else
    match accLines x kind off bs.length with
    | none => refuse w
    | some (l, n) =>
      match fetchLines k a w ((List.range n).map (fun i => l + i)) with
      | (none, w) => (2, w)
      | (some cs, w) =>
        if cs.any (fun c => decide (x.expect ≤ c.arrivals)) then refuse w
        else
          let (inj, w) := rimInject w k 0x0306 0x0306
          let badT := kind == 9 && decide (declared x src ≠ some x.t)
          let w := cs.zipIdx.foldl (fun w c => addLine w k c.1 (packetLine kind bs c.2)) w
          let w := if badT || inj.isSome then onArea w k a (fun y => { y with oor := true }) else w
          let w := if inj.isSome then postRim w k 0x0306 1 0 off true else w
          (0, completeArea w k a)

/-- `n` bytes that one rim's unit moves to another rim's stack. -/
def carryRims (w : Wafer) (a b n : Nat) : Wafer := if a = b then w else carry w (.rim a) (.rim b) n

/-! ### The stream engine (R346 to R355) -/

/-- Entry `i` of a rim's schedule. -/
def entryAt (r : Rim) (i : Nat) : Option StreamEntry := r.stream.schedule[i]?

/-- The current generation of a line as the rim sees it: that of a field in use, the rim's own first. -/
def rimGen (w : Wafer) (k l : Nat) : W32 :=
  match (rimFields k ++ List.range 84).find? (fieldUp w) with
  | some f => mget 0 (fieldAt w f).banGen l
  | none => 0

/-- RIM_STEP written (R346): the buffer is discarded, the schedule restarts, every line's generation is captured. -/
def writeRimStep (w : Wafer) (k : Nat) (v : W64) : Wafer :=
  onRim w k (fun r =>
    { r with stream := { r.stream with
        step := v, started := true, read := 0, readOff := 0, sent := 0, sentOff := 0, buffer := []
        bases := (List.range 16).map (fun l => (l, rimGen w k l)) } })

/-- An entry's readiness test (R350). -/
def entryReady (r : Rim) (e : StreamEntry) : Bool :=
  e.lag == 0xFF || decide ((r.stream.step.toNat : Int) - 1 - e.lag ≤ mget (-1) r.ready e.readyId)

/-- Bytes in the stream buffer. -/
def Stream.used (x : Stream) : Nat := (x.buffer.map List.length).sum

/-- Bytes read of an entry put into the buffer: behind those of the same entry that are there, if there are. -/
def Stream.take (x : Stream) (bs : List Byte) : List (List Byte) :=
  if x.readOff = 0 then x.buffer ++ [bs] else x.buffer.dropLast ++ [x.buffer.getLastD [] ++ bs]

/-- STREAM_ENTRY_READ (R342, R352): the next entry, as much of it as the buffer has room for, once it is ready and its layer
is near enough. An entry in the rim's reserved area is not read (DESIGN CHOICE 98). -/
def readEntry (w : Wafer) (k waited : Nat) : Wafer :=
  let st := (rimAt w k).stream
  match st.started && !w.halted && !w.frozen, entryAt (rimAt w k) st.read with
  | true, some e =>
    let room := (16777216 - st.used) / 512 * 512
    let far := match entryAt (rimAt w k) st.sent with | some o => decide (o.layer + 1 < e.layer) | none => false
    if decide (room = 0) || far || decide (rimReserved < e.src + e.bytes) || !entryReady (rimAt w k) e then w
    else
      let n := min room (e.bytes - st.readOff)
      match hbmLoad w k (e.src + st.readOff) n with
      | (none, w) => w
      | (some bs, w) =>
        let whole := decide (e.bytes ≤ st.readOff + n)
        rimBump (onRim w k (fun r =>
          { r with stream := { r.stream with read := if whole then st.read + 1 else st.read
                                             readOff := if whole then 0 else st.readOff + n
                                             buffer := st.take bs } })) k 0x30108 waited
  | _, _ => w

/-- An entry's gate (R353). -/
def gatePassed (w : Wafer) (k : Nat) (e : StreamEntry) : Bool :=
  !e.gateEn || reaches (rimGen w k e.gateLine)
    (mget 0 (rimAt w k).stream.bases e.gateLine + BitVec.ofNat 32 e.gateDelta)

/-- The packets of some bytes of an entry, from its byte `off` on, to one tile (R354). -/
def streamPackets (k : Nat) (e : StreamEntry) (off t : Nat) (bs : List Byte) : List Packet :=
  (chunks bs.length).map (fun c =>
    ⟨.rim k, .tile t, if e.vc3 then 3 else 2, .stream (bits e.dst 28 28 + 1) (bits e.dst 27 0 + off + c.1) (slice bs c.1 c.2), 0, .none,
      0, 0, none⟩)

/-- STREAM_ENTRY_SEND (R353, R354): what the buffer holds of the oldest entry goes to its group as STREAM packets of up to
512 bytes, replicated by the hubs' tables (R276). -/
def sendEntry (w : Wafer) (k waited : Nat) : Wafer :=
  let st := (rimAt w k).stream
  match st.buffer, entryAt (rimAt w k) st.sent with
  | bs :: rest, some e =>
    if w.halted || w.frozen || !gatePassed w k e then w
    else
      let copies := streamCopies w k e.group
      let w := countCopies w copies ((bs.length + 63) / 64)
      let w := (copyTiles w copies).foldl (fun w t => (streamPackets k e st.sentOff t bs).foldl inject w) w
      let whole := decide (e.bytes ≤ st.sentOff + bs.length)
      rimBump (rimBump (onRim w k (fun r =>
        { r with stream := { r.stream with buffer := if whole then rest else [] :: rest
                                           sent := if whole then st.sent + 1 else st.sent
                                           sentOff := if whole then 0 else st.sentOff + bs.length } })) k 0x30100 bs.length) k 0x30110 waited
  | _, _ => w

/-- STREAM_STATE (R370): idle with nothing left to send; held by a gate where the oldest buffered data waits for one; held by
readiness where nothing is buffered and the next read waits for it. -/
def streamState (w : Wafer) (k : Nat) : Nat :=
  let st := (rimAt w k).stream
  match st.started, entryAt (rimAt w k) st.sent with
  | true, some e =>
    if st.used ≠ 0 then (if gatePassed w k e then 1 else 3)
    else (match entryAt (rimAt w k) st.read with
      | some e => if entryReady (rimAt w k) e then 1 else 2
      | none => 1)
  | _, _ => 0

/-- The rim's part of a job context switch (R369). -/
def switchRim (r : Rim) : Rim :=
  let r := zeroBlocks r false
  { r with stream := .reset, ready := [], readyAt0 := [], windows := [], areas := [], cache := []
           upd := .reset
           ctrs := r.ctrs.filter (fun p => decide (0x30200 ≤ p.1)) }

/-- HBM_PER_BANK_REFRESH (R334): requests to the bank wait. -/
def refreshHbm (w : Wafer) (k waited : Nat) : Wafer := rimBump w k 0x30130 waited

/-! ### The commands of ch. 09 that touch the wafer alone -/

/-- STREAM_ENTRY_READ. -/
def execStreamEntryRead (k : Fin 16) (waited : Nat) (s : State) : Res := onWafer s (fun w => readEntry w k waited)

/-- STREAM_ENTRY_SEND. -/
def execStreamEntrySend (k : Fin 16) (waited : Nat) (s : State) : Res := onWafer s (fun w => sendEntry w k waited)

/-- BACKGROUND_ZEROER. -/
def execBackgroundZeroer (k : Fin 16) (block : Nat) (s : State) : Res := onWafer s (fun w => zeroerStep w k block)

/-- HBM_PER_BANK_REFRESH. -/
def execHbmPerBankRefresh (k : Fin 16) (_bank : Nat) (waited : Nat) (s : State) : Res :=
  onWafer s (fun w => refreshHbm w k waited)

end Sys2Proof.Machine
end

