-- ==== Sys2Proof/Machine/Network.lean ====
section
/-!
DEFINITION. Packets at their destinations (07 R262 to R266, R270, 06 R233, 09 R355): reads and writes served by tiles
and rims, responses at their requesters, late accesses, and replays of flits.
-/

namespace Sys2Proof.Machine

open Sys2Proof

/-- True where a packet finds a bank group that is entering or down (R233). -/
def isLate (w : Wafer) (p : Packet) : Bool :=
  match bdsTarget p with
  | some (u, off, n) => usable w u && !bdsAwake w u off n
  | none => false

/-- True where packet `q` is a held access that packet `p` follows at the same bank group of a slice (R233). -/
def behind (p q : Packet) : Bool :=
  match bdsTarget p, bdsTarget q with
  | some (u, off, n), some (v, off', n') =>
    decide (u = v ∧ q.held ≠ 0 ∧ (p.held = 0 ∨ q.held < p.held)) && (groupsOf off n).any (fun g => (groupsOf off' n').contains g)
  | _, _ => false

/-- True where a slice serves a packet's access now: its groups are awake, no bank of it refreshes, and no held access goes
before it (R231, R233). A packet to anything else is served at once. -/
def sliceServes (w : Wafer) (p : Packet) : Bool :=
  match bdsTarget p with
  | some (u, off, n) => !usable w u || (bdsReady w u off n && !w.net.inflight.any (behind p))
  | none => true

/-- Packet `n` where it may be served now, in its flow's order. -/
def served (w : Wafer) (n : Nat) : Option Packet :=
  match arriving w n with
  | some p => if sliceServes w p then some p else none
  | none => none

/-- The number of the newest late access that a slice holds. -/
def lastHeld (w : Wafer) (u : Nat) : Nat :=
  ((w.net.inflight.filter (fun q => match bdsTarget q with | some (v, _, _) => v == u | none => false)).map (fun q => q.held)).foldl
    max 0

/-- LATE_ACCESS (R233): the slice holds the access, behind those it holds already, and wakes its groups. -/
def holdLate (w : Wafer) (n : Nat) : Wafer :=
  match arriving w n with
  | some p =>
    (match bdsTarget p with
      | some (u, off, len) =>
        if isLate w p then
          let i := lastHeld w u + 1
          lateWake (onNet w (fun x =>
            { x with inflight := x.inflight.modify n (fun q => { q with held := if q.held = 0 then i else q.held }) })) u off len
        else w
      | none => w)
  | none => w

/-- A narrow access to a scratchpad over the network (R217, R226). -/
def narrowAt (p : Packet) : Option Nat :=
  match p.dst, p.kind with
  | .tile u, .nrd a => if bits a 63 56 = 1 then some u else none
  | .tile u, .nwr a _ => if bits a 63 56 = 1 then some u else none
  | _, _ => none

/-- What a packet has waited on its way, counted: CNT_NET_SHORT at its source (R272), CNT_HUB_WAIT16 at the hubs of its
route (R292), CNT_SP_STARVE at the target of a narrow access (R218). -/
def countWaits (w : Wafer) (p : Packet) (x : NetWaits) : Wafer :=
  let w := match p.src with | .tile t => tileBump w t 0x21010 x.refused | _ => w
  let w := if p.vc < 2 ∨ onMesh p then w else
    (x.full.filter (fun f => (packetHubs w p.src p.dst).contains f.val)).foldl (fun w f => fieldBump w f.val 0xE118 1) w
  match narrowAt p with
  | some u => tileBump w u 0x20220 (b2n x.starved)
  | none => w

/-- Packet `n` taken at its destination. -/
def takeIn (w : Wafer) (n : Nat) (p : Packet) (x : NetWaits) : Wafer := takePkt (countWaits w p x) n p

/-- A forced status of a response by a tile (points 0x0151 to 0x0154); 16 marks it as injected. -/
def forcedStatus (w : Wafer) (e : Endpoint) : Option Nat × Wafer :=
  match e with
  | .tile u => (match tileInject w u 0x0151 0x0154 with
    | (some p, w) => (some (p - 0x0150 + 16), w)
    | (none, w) => (none, w))
  | _ => (none, w)

/-- True where a destination still answers (R265 status 0x4). -/
def endUp (w : Wafer) (e : Endpoint) : Bool :=
  match e with
  | .tile u => usable w u
  | .rim k => !(rimAt w k).failed
  | _ => true

/-- A read at its target (R265): status and bytes. -/
def serveRead (w : Wafer) (e : Endpoint) (a n : Nat) : Nat × List Byte × Wafer :=
  let answer (r : Option (List Byte) × Wafer) : Nat × List Byte × Wafer :=
    match r with
    | (some bs, w) => (0, bs, w)
    | (none, w) => (2, [], w)
  let off := bits a 27 0
  if !endUp w e then (4, [], w)
  else match forcedStatus w e with
    | (some st, w) => (st, [], w)
    | (none, w) =>
      match e, bits a 63 56 with
      | .tile u, 1 => if off + n ≤ spBytes then answer (spLoad w u off n) else (1, [], w)
      | .tile u, 2 => if off + n ≤ bdsBytes then answer (bdsLoad w u off n) else (1, [], w)
      | .rim k, 3 =>
        if bits a 43 40 = 0 ∧ bits a 35 0 + n ≤ rimReserved then answer (hbmLoad w k (bits a 35 0) n) else (1, [], w)
      | .rim _, 4 => if bits a 40 0 + n ≤ fwRegion then answer (compLoad w (bits a 40 0) n) else (1, [], w)
      | _, _ => (1, [], w)

/-- A write at its target (R222, R341, R343): a remote write to a scratchpad is a partial write. -/
def serveWrite (w : Wafer) (e : Endpoint) (a : Nat) (bs : List Byte) : Nat × Wafer :=
  let off := bits a 27 0
  if !endUp w e then (4, w)
  else match forcedStatus w e with
    | (some st, w) => (st, w)
    | (none, w) =>
      match e, bits a 63 56 with
      | .tile u, 1 => if off + bs.length ≤ spBytes then (0, spStore w u off bs) else (1, w)
      | .tile u, 2 => if off + bs.length ≤ bdsBytes then (0, bdsStore w u off bs) else (1, w)
      | .rim k, 3 =>
        if bits a 43 40 = 0 ∧ hbmWritable (rimAt w k) (bits a 35 0) bs.length then (0, hbmStore w k (bits a 35 0) bs) else (1, w)
      | .rim _, 4 => if compWritable w.comp (bits a 40 0) bs.length then (0, compStore w (bits a 40 0) bs) else (1, w)
      | _, _ => (1, w)

/-- The block of a remote BLOCK write whose last packet has landed gets its tag (R222, R241). -/
def tagBlock (w : Wafer) (p : Packet) (st : Nat) : Wafer :=
  match p.dst, p.block, st with
  | .tile u, some (g, n, tag), 0 => onTile w u (fun x => { blockTagWrite x g n tag with tagBad := cleared x.tagBad 1 g n })
  | _, _, _ => w

/-- RD_REQ: the target reads and answers on the request's channel. -/
def rdReqArrives (w : Wafer) (n : Nat) (x : NetWaits) : Wafer :=
  match served w n with
  | some p =>
    (match p.kind with
      | .rdReq a len =>
        let (st, bs, w) := serveRead (takeIn w n p x) p.dst a len
        sendPkt w p.dst p.src p.vc (.rdResp st bs) p.owner p.addr p.tag
      | _ => w)
  | none => w

/-- NRD: the answer goes on VC6. -/
def nrdArrives (w : Wafer) (n : Nat) (x : NetWaits) : Wafer :=
  match served w n with
  | some p =>
    (match p.kind with
      | .nrd a =>
        let (st, bs, w) := serveRead (takeIn w n p x) p.dst a 8
        sendPkt w p.dst p.src 6 (.nrdResp st bs) p.owner p.addr p.tag
      | _ => w)
  | none => w

/-- A write arrives, lands and is acknowledged on a channel (R264). -/
def writeArrives (w : Wafer) (n : Nat) (p : Packet) (x : NetWaits) (a : Nat) (bs : List Byte) (vc : Nat) : Wafer :=
  let (st, w) := serveWrite (takeIn w n p x) p.dst a bs
  sendPkt (tagBlock w p st) p.dst p.src vc (.wrAck st) p.owner p.addr p.tag

/-- WR: acknowledged on its channel. -/
def wrArrives (w : Wafer) (n : Nat) (x : NetWaits) : Wafer :=
  match served w n with
  | some p => (match p.kind with | .wr a bs => writeArrives w n p x a bs p.vc | _ => w)
  | none => w

/-- NWR: acknowledged with a WR_ACK on VC6. -/
def nwrArrives (w : Wafer) (n : Nat) (x : NetWaits) : Wafer :=
  match served w n with
  | some p => (match p.kind with | .nwr a bs => writeArrives w n p x a bs 6 | _ => w)
  | none => w

/-- A status other than 0x0 at the requesting tile (R265, R288): the counter, the record, and a core's fault 0x0A at the
instruction that made the request (R203). -/
def remoteFault (w : Wafer) (t st : Nat) (p : Packet) : Wafer :=
  let w := tileBump w t 0x21028 1
  let w := postTile w t (0x0150 + st % 16) 2 (st % 16) (p.addr % 2 ^ 40) (decide (16 ≤ st))
  match p.owner with
  | .core pc => vcFault (onVc w t (fun c => { c with waits := [], pc := pc })) t 0x0A p.addr
  | _ => w

/-- A response taken at its requester: a tile's DMA engine or core, or a reduction unit (R198, R202). -/
def takeReply (w : Wafer) (p : Packet) (st : Nat) (bytes : Option (List Byte)) : Wafer :=
  match p.dst, p.owner with
  | .tile t, o =>
    if !usable w t then w
    else
      let w := if st = 0 then w else remoteFault w t st p
      (match o with
        | .dma e seq i => dmaReply w t e seq i st p.addr bytes
        | .core _ =>
          (match st, bytes, (tileAt w t).vc.waits.head? with
            | 0, some bs, some ⟨.load, r⟩ => completeHeld w t r (BitVec.ofNat 64 (leNat bs))
            | _, _, _ => w)
        | _ => w)
  | .fru f, .fru part i => fruPulled w f part i (if st = 0 then bytes.getD [] else [])
  | _, _ => w

/-- RD_RESP. -/
def rdRespArrives (w : Wafer) (n : Nat) (x : NetWaits) : Wafer :=
  match arriving w n with
  | some p => (match p.kind with | .rdResp st bs => takeReply (takeIn w n p x) p st (some bs) | _ => w)
  | none => w

/-- NRD_RESP. -/
def nrdRespArrives (w : Wafer) (n : Nat) (x : NetWaits) : Wafer :=
  match arriving w n with
  | some p => (match p.kind with | .nrdResp st bs => takeReply (takeIn w n p x) p st (some bs) | _ => w)
  | none => w

/-- WR_ACK. -/
def wrAckArrives (w : Wafer) (n : Nat) (x : NetWaits) : Wafer :=
  match arriving w n with
  | some p => (match p.kind with | .wrAck st => takeReply (takeIn w n p x) p st none | _ => w)
  | none => w

/-- STREAM (R355): the bytes land without tags and C1 rises by one. -/
def streamArrives (w : Wafer) (n : Nat) (x : NetWaits) : Wafer :=
  match served w n with
  | some p =>
    (match p.kind, p.dst with
      | .stream r off bs, .tile u =>
        let w := takeIn w n p x
        if !usable w u then w
        else if r = 2 then addCtr (bdsStore w u off bs) u 1 1
        else addCtr (spStore w u off bs) u 1 1
      | _, _ => w)
  | none => w

/-- FLIT_CRC_REPLAY (R266, R288, R292): a flit that `flitOk` refuses is sent again. The replay counter of the sending link
rises, with a detection of severity 0 that names the port or output (R599); the packet is not disturbed. -/
def replayFlit (w : Wafer) (p : LinkPlace) : Wafer :=
  match p with
  | .tile t port =>
    let (inj, w) := tileInject w (tkey t) 0x0108 0x0108
    postTile (tileBump w (tkey t) 0x21020 1) (tkey t) 0x0108 0 0 port inj.isSome
  | .hub f out =>
    let (inj, w) := fieldInject w f 0x0201 0x0201
    postField (fieldBump w f 0xE110 1) f 0x0201 0 0 out inj.isSome
  | .rim k f =>
    let (inj, w) := rimInject w k 0x0305 0x0305
    postRim (fieldBump w f.val 0xE110 1) k 0x0305 0 0 0 inj.isSome

/-! ### The commands -/

/-- RD_REQ (R264, R265). -/
def execRdReq (n : Arrival) (s : State) : Res := onWafer s (fun w => rdReqArrives w n.place n.waits)

/-- RD_RESP (R264, R265). -/
def execRdResp (n : Arrival) (s : State) : Res := onWafer s (fun w => rdRespArrives w n.place n.waits)

/-- WR (R264). -/
def execWr (n : Arrival) (s : State) : Res := onWafer s (fun w => wrArrives w n.place n.waits)

/-- WR_ACK (R264). -/
def execWrAck (n : Arrival) (s : State) : Res := onWafer s (fun w => wrAckArrives w n.place n.waits)

/-- NRD (R264). -/
def execNrd (n : Arrival) (s : State) : Res := onWafer s (fun w => nrdArrives w n.place n.waits)

/-- NRD_RESP (R264). -/
def execNrdResp (n : Arrival) (s : State) : Res := onWafer s (fun w => nrdRespArrives w n.place n.waits)

/-- NWR (R264). -/
def execNwr (n : Arrival) (s : State) : Res := onWafer s (fun w => nwrArrives w n.place n.waits)

/-- STREAM (R355). -/
def execStream (n : Arrival) (s : State) : Res := onWafer s (fun w => streamArrives w n.place n.waits)

/-- FLIT_CRC_REPLAY (R266). -/
def execFlitCrcReplay (place : LinkPlace) (s : State) : Res := onWafer s (fun w => replayFlit w place)

/-- VC7_AGE (R270): the flit goes ahead of others; the packet's effect is that of its arrival, and no register of the
spec shows the wait. -/
def execVc7Age (_place : LinkPlace) (s : State) : Res := .next s

/-- LATE_ACCESS (R233). -/
def execLateAccess (n : Nat) (s : State) : Res := onWafer s (fun w => holdLate w n)

end Sys2Proof.Machine
end

