-- ==== Sys2Proof/Machine/Regs.lean ====
section
/-!
DEFINITION. Config space (20 R724 to R732, and the register tables of 03 to 17): what a register reads and what a write
to it does at one target.
-/

namespace Sys2Proof.Machine

open Sys2Proof

/-! ### Banister lines (R307, R308, R332) -/

/-- A Banister line at rim0. -/
def lineAt (w : Wafer) (l : Nat) : BanLine := mget .reset w.lines l
def onLine (w : Wafer) (l : Nat) (f : BanLine → BanLine) : Wafer := { w with lines := mput w.lines l (f (lineAt w l)) }

/-- True where at least one participant has arrived on a line (BUSY). -/
def lineBusy (w : Wafer) (l : Nat) : Bool :=
  (lineAt w l).compArrived || w.fields.any (fun p => mget 0 p.2.arrived l != 0)

/-- True where a field drives a line as arrived (R308): dark fields and retired tiles count as arrived. -/
def fieldArrived (w : Wafer) (f l : Nat) : Bool :=
  let x := fieldAt w f
  !fieldUp w f || (List.range 64).all (fun i =>
    !(mget 0 x.banMask l).getLsbD i || w.repair.retired.contains (64 * f + i) || (mget 0 x.arrived l).getLsbD i)

/-- True where a line is complete in this module (R309). -/
def lineDone (w : Wafer) (l : Nat) : Bool :=
  lineBusy w l && (List.range 84).all (fun f => fieldArrived w f l) && (!(lineAt w l).comp || (lineAt w l).compArrived)

/-! ### Config addresses (R15 to R19, R724 to R727) -/

/-- Offsets of a field's own units. -/
def isFieldOff (off : Nat) : Bool := decide (0x9000 ≤ off ∧ off ≤ 0xFFFF)

/-- Offsets of a field's power unit, which answers when the field is dark (R573). -/
def isPowerOff (off : Nat) : Bool := decide (0xA000 ≤ off ∧ off ≤ 0xA1FF)

/-- The targets of an access (R17, R19, R726), ascending: tile `64*f + t`, a field's units as `64*f`, rim `8192 + k`.
Broadcast and group accesses skip dark fields and retired tiles. -/
def cfgTargets (w : Wafer) (tgt : CfgTarget) (off : Nat) : List Nat :=
  let units (fs : List Nat) : List Nat := (fs.filter (fun f => fieldUp w f || isPowerOff off)).map (fun f => 64 * f)
  match tgt with
  | .tile f t => [64 * f.val + t.val]
  | .rim k => [8192 + k.val]
  | .field f => if isFieldOff off then units [f.val] else (fieldTiles f).filter (usable w)
  | .group g =>
    let hit (f : Nat) : W64 := mget 0 w.groups (84 * g + f)
    if isFieldOff off then units ((List.range 84).filter (fun f => hit f != 0))
    else (liveTiles w).filter (fun t => (hit (t / 64)).getLsbD (t % 64))
  | .all => if isFieldOff off then units (List.range 84) else liveTiles w

/-- True for an access with one target. -/
def isSingle (tgt : CfgTarget) : Bool := match tgt with | .tile _ _ => true | .rim _ => true | _ => false

/-- The field and tile that the status names for a target. -/
def targetName (n : Nat) : Nat × Nat := if n < 8192 then (n / 64, n % 64) else (96 + (n - 8192), 0)

/-- A failure at a target noted (R717, R719): the first failing target is the one of lowest field and tile. -/
def CfgErr.note (e : CfgErr) (err n : Nat) : CfgErr :=
  if err = 0 then e
  else
    let (f, t) := targetName n
    let c := if e.count = BitVec.allOnes 16 then e.count else e.count + 1
    if e.err = 0 ∨ 64 * f + t < 64 * e.field.toNat + e.tile.toNat then
      { err := BitVec.ofNat 8 err, field := BitVec.ofNat 7 f, tile := BitVec.ofNat 6 t, count := c }
    else { e with count := c }

/-- The status index (R731). -/
def isStatus (n off : Nat) : Bool :=
  if n < 8192 then
    [0x8018, 0x19008, 0x20048, 0x20148, 0x20300, 0x23000, 0xA000, 0xB000, 0xC000, 0xE000, 0xE018, 0xF000].contains off
  else
    [0x30008, 0x30200, 0x30208].contains off || (n == 8192 && [0x31000, 0x33000].contains off)

/-! ### Words of registers -/

/-- A word from its fields. -/
def word (l : List Nat) : W64 := BitVec.ofNat 64 l.sum

/-- Number of ones of a mask. -/
def ones {n : Nat} (v : BitVec n) : Nat := ((List.range n).filter (fun i => v.getLsbD i)).length

/-- An injection register's word (R607). -/
def FiReg.word (r : FiReg) : W64 :=
  Machine.word [fld r.point.toNat 48, fld r.count.toNat 16, fld r.mode.toNat 14, fld (b2n r.armed) 8]

/-- An injection register written (R607). -/
def FiReg.write (r : FiReg) (v : W64) : FiReg :=
  { r with point := v.extractLsb' 48 16, count := v.extractLsb' 16 32, mode := v.extractLsb' 14 2, armed := v.getLsbD 8 }

/-- The logical position of a tile under the map in force. -/
def logicalOf (w : Wafer) (t : Nat) : Option Nat :=
  (w.repair.map.find? (fun p => decide (p.2 = some t ∧ p.1 / 80 < w.repair.rows))).map Prod.fst

/-- TILE_ID (R725). -/
def tileIdWord (w : Wafer) (t : Nat) : W64 :=
  match logicalOf w t with
  | some p => word [fld w.repair.id.toNat 32, fld (p % 80) 16, fld (p / 80) 8]
  | none => word [fld w.repair.id.toNat 32, 1]

/-- The code of a cadence state (R129). Whatever stops issue by itself, a stopped job or a freeze, leaves STATE at 1: R129 lists
DBG_HALT alone (DESIGN CHOICE 92). -/
def cadCode (w : Wafer) (p : CadPhase) : Nat :=
  match p with
  | .stopped => 0
  | .issuing => if w.dbgHalt then 2 else 1
  | .holding => 2
  | .faulted => 3

/-- CAD_STATUS (R129). -/
def cadStatusWord (w : Wafer) (c : Cad) : W64 :=
  word [fld (cadCode w c.phase) 56, fld c.fault.toNat 48, fld c.iterNo.toNat 32, fld c.slot.toNat 16]

/-- True where a full queue holds a core (R201, R237): its descriptor waits at an engine with 16 entries, or a FRU_POST is
next and the reduction unit's queue holds 8. -/
def queueHolds (w : Wafer) (t : Nat) : Bool :=
  let x := tileAt w t
  let full (d : Dma) : Bool := d.posted.any (fun p => p.fromCore) && decide (16 ≤ d.queue.length)
  full x.dma0 || full x.dma1 ||
    (decide (wCls (fetch w t) = 12 ∧ wFunc (fetch w t) = 8) && decide (8 ≤ (fieldAt w (t / 64)).fru.queue.length))

/-- VC_STATUS (R209). -/
def vcStatusWord (w : Wafer) (t : Nat) : W64 :=
  let c := (tileAt w t).vc
  let st := match c.phase with | .stopped => 0 | .running => if queueHolds w t then 2 else 1 | .waiting => 2 | .faulted => 3
  word [fld st 56, fld c.fault.toNat 48, fld (c.pc % 4096) 32, fld c.haltCode.toNat 8, c.flags.toNat]

/-- True where a descriptor waits for a bank, a refresh, a wake or a fence (R231, R233, R243): before its start, at its next
read from the own slice, or at its landing there. -/
def entryWaits (w : Wafer) (t : Nat) (d : Dma) (q : DmaEntry) : Bool :=
  if !q.started then !(mayStart (tileAt w t) d q && readsReady w t (planPieces w t (descOf q.words)).1)
  else if q.asked < q.pieces.length then !readsReady w t ((q.pieces.drop q.asked).take 1)
  else q.over && !landReady w t q.writes

/-- DMAn_STATUS (R251). -/
def dmaStatusWord (w : Wafer) (t e : Nat) : W64 :=
  let d := dmaOf (tileAt w t) e
  let st := if d.fault ≠ 0 then 3 else if d.queue = [] then 0 else if d.queue.all (entryWaits w t d) then 2 else 1
  word [fld st 56, fld d.fault.toNat 48, fld d.refused.toNat 40, fld d.queue.length 32, d.doneSeq.toNat]

/-- The code of a bank group's state (R252). -/
def groupCode (g : GState) : Nat := match g with | .awake => 0 | .fencing => 1 | .entering => 2 | .down => 3

/-- BDS_STATUS and BDS_PSTATE (R252, R255). -/
def bdsWord (hot : Bool) (a b c d : GState) : W64 :=
  word [fld (b2n hot) 8, groupCode a, fld (groupCode b) 2, fld (groupCode c) 4, fld (groupCode d) 6]

/-- The reserved bits of the words of a cadence slot (R112), clear in this mask. -/
def slotMask (i : Nat) : W64 :=
  match i with
  | 0 => 0xFFFFFFFF07FFFFFF
  | 1 => 0x0FFFFFFF0FFFFFFF
  | 2 => 0x0FFFFFFFFF003FFF
  | _ => 0x0000000000003FFF

/-- The counters of a tile, of a field's units and of a rim, by offset. -/
def isTileCtr (off : Nat) : Bool :=
  off % 8 == 0 && decide ((0x8100 ≤ off ∧ off ≤ 0x8138) ∨ (0x19100 ≤ off ∧ off ≤ 0x19120) ∨ (0x20200 ≤ off ∧ off ≤ 0x20230) ∨
    (0x21000 ≤ off ∧ off ≤ 0x21028) ∨ (0x23100 ≤ off ∧ off ≤ 0x23110) ∨ (0x24100 ≤ off ∧ off ≤ 0x24128))
def isFieldCtr (off : Nat) : Bool :=
  off % 8 == 0 && decide ((0x9100 ≤ off ∧ off ≤ 0x9108) ∨ (0xC008 ≤ off ∧ off ≤ 0xC010) ∨ (0xE100 ≤ off ∧ off ≤ 0xE118) ∨
    (0xF200 ≤ off ∧ off ≤ 0xF218))
def isRimCtr (off : Nat) : Bool :=
  off % 8 == 0 && decide ((0x30100 ≤ off ∧ off ≤ 0x30138) ∨ (0x30300 ≤ off ∧ off ≤ 0x30320) ∨ (0x32100 ≤ off ∧ off ≤ 0x32118))

/-! ### Reads -/

/-- A tile's register; none where the offset has none (R724). -/
def tileRead (w : Wafer) (t off : Nat) : Option W64 :=
  let x := tileAt w t
  if off % 8 ≠ 0 then none
  else if off = 0 then some (tileIdWord w t)
  else if 0x4000 ≤ off ∧ off < 0x6000 then some (mget 0 x.cad.bank0 ((off - 0x4000) / 8))
  else if 0x6000 ≤ off ∧ off < 0x8000 then some (mget 0 x.cad.bank1 ((off - 0x6000) / 8))
  else if off = 0x8000 then some (word [fld (b2n x.cad.arm) 2, fld (b2n x.cad.active) 1, b2n x.cad.run])
  else if off = 0x8008 then some x.cad.hdr0
  else if off = 0x8010 then some x.cad.hdr1
  else if off = 0x8018 then some (cadStatusWord w x.cad)
  else if 0x8040 ≤ off ∧ off < 0x80C0 then some (mget 0 x.cad.log ((off - 0x8040) / 8))
  else if off = 0x8148 then some (x.cad.logIdx.setWidth 64)
  else if 0x10000 ≤ off ∧ off < 0x18000 then some (mget 0 x.vc.istore ((off - 0x10000) / 8))
  else if 0x18000 ≤ off ∧ off < 0x18800 then some ((mget 0 x.vc.consts ((off - 0x18000) / 8)).setWidth 64)
  else if off = 0x19000 then some (word [fld x.vc.startPc 16, b2n x.vc.run])
  else if off = 0x19008 then some (vcStatusWord w t)
  else if off = 0x19010 then some x.vc.detail
  else if off = 0x19018 then some (word [fld x.vc.winPos.toNat 1, b2n x.vc.winEn])
  else if 0x20000 ≤ off ∧ off < 0x20040 then some (mget 0 x.dma0.desc ((off - 0x20000) / 8))
  else if 0x20100 ≤ off ∧ off < 0x20140 then some (mget 0 x.dma1.desc ((off - 0x20100) / 8))
  else if off = 0x20040 then some (word [b2n (x.dma0.posted.any (fun p => !p.fromCore))])
  else if off = 0x20140 then some (word [b2n (x.dma1.posted.any (fun p => !p.fromCore))])
  else if off = 0x20048 then some (dmaStatusWord w t 0)
  else if off = 0x20148 then some (dmaStatusWord w t 1)
  else if off = 0x20300 then some (bdsWord (fieldAt w (t / 64)).bds.hot x.bds.g0.state x.bds.g1.state x.bds.g2.state x.bds.g3.state)
  else if 0x22000 ≤ off ∧ off < 0x22020 then some (x.sync.flags.extractLsb' ((off - 0x22000) * 8) 64)
  else if off = 0x22020 ∨ off = 0x22028 then some 0
  else if 0x22800 ≤ off ∧ off < 0x23000 then some ((mget 0 x.sync.ctrs ((off - 0x22800) / 8)).setWidth 64)
  else if off = 0x23000 then
    some (word [fld x.sync.lastFault.toNat 8, fld (b2n (inSimmer w t)) 1, b2n (coreWaiting x)])
  else if off = 0x24000 then some x.fi.word
  else if isTileCtr off then some (mget .zero x.ctrs off).word
  else none

/-- The code of a field's power state (R573). -/
def fieldPowerCode (p : FieldPower) : Nat :=
  match p with
  | .off => 0 | .ramping => 1 | .on => 2 | .dark => 3 | .short => 4 | .sense => 5 | .failed => 6

/-- The code of a port's state (R526). -/
def portCode (p : PortState) : Nat :=
  match p with
  | .off => 0 | .training => 1 | .up => 2 | .degraded => 3 | .down => 4 | .mismatch => 5

/-- PORT_STATUS (R526). -/
def portStatusWord (s : State) (f : Nat) : W64 :=
  let p := portAt s f
  word [fld p.crossed 32, fld (ones p.txPos) 24, fld (ones p.rxPos) 16, fld (b2n (s.tree.cfg.parent == some (f / 7))) 11,
    fld (f % 7) 8, fld (f / 7) 4, portCode p.state]

/-- True where every VC of a field's hub is empty (R289): no packet in flight crosses it, those that stay on a mesh apart. -/
def hubQuiet (w : Wafer) (f : Nat) : Bool :=
  !w.net.inflight.any (fun p => !onMesh p && (packetHubs w p.src p.dst).contains f)

/-- SYNC_UNIT_STATUS (R329). -/
def syncUnitWord (w : Wafer) (f : Nat) : W64 :=
  let x := fieldAt w f
  let all := (fieldTiles f).all (fun t => !usable w t || inSimmer w t)
  word [fld (b2n x.pending) 25, fld (b2n all) 24, (x.watches.filter (fun p => p.2.isSome)).length]

/-- A register of a field's units. -/
def fieldRead (s : State) (f off : Nat) : Option W64 :=
  let w := s.wafer
  let x := fieldAt w f
  let p := portAt s f
  let q := fpAt s f
  if off % 8 ≠ 0 then none
  else if off = 0x9000 then some x.fi.word
  else if off = 0xA000 then
    some (word [fld (uint 8 q.tmax) 32, fld (uint 8 q.tmem) 24, fld q.duty 16, fld q.clkSel 10, fld (b2n q.senseB) 9,
      fld (b2n q.senseA) 8, fieldPowerCode q.state])
  else if off = 0xA100 ∨ off = 0xA108 then some (mget .zero q.ctrs off).word
  else if off = 0xB000 then some (portStatusWord s f)
  else if off = 0xB008 then
    some (word [fld p.moduleId.toNat 32, fld p.bundle.toNat 12, fld p.index.toNat 8, p.mismatch.toNat])
  else if off = 0xB010 then some (word [fld p.txPos.toNat 36, fld p.rxPos.toNat 18, p.swapped.toNat])
  else if 0xB100 ≤ off ∧ off ≤ 0xB130 then some (mget .zero p.ctrs off).word
  else if off = 0xC000 then
    let st := match x.fru.phase with | .idle => 0 | .waiting => 1 | .reading => 2 | .writing => 3
    some (word [fld x.fru.fault.toNat 16, fld x.fru.queue.length 8, st])
  else if off = 0xD000 then some (x.bds.pdReq.setWidth 64)
  else if off = 0xD008 then some (bdsWord x.bds.hot x.bds.g0 x.bds.g1 x.bds.g2 x.bds.g3)
  else if off = 0xE000 then
    some (word [fld (ones w.net.dark) 16, fld (b2n (hubQuiet w f)) 7, w.net.routeSet.toNat])
  else if off = 0xE008 then some (w.net.dark.extractLsb' 0 64)
  else if off = 0xE010 then some ((w.net.dark.extractLsb' 64 20).setWidth 64)
  else if off = 0xE018 then some w.net.bound
  else if off = 0xF000 then some (syncUnitWord w f)
  else if off = 0xF008 then some (x.level.setWidth 64)
  else if 0xF100 ≤ off ∧ off < 0xF180 then some (mget 0 x.banMask ((off - 0xF100) / 8))
  else if 0xF180 ≤ off ∧ off < 0xF200 then
    let l := (off - 0xF180) / 8
    some (word [fld (ones (mget 0 x.arrived l)) 32, (mget 0 x.banGen l).toNat])
  else if isFieldCtr off then some (mget .zero x.ctrs off).word
  else none

/-- RIM_STATUS (R370). -/
def rimStatusWord (w : Wafer) (k : Nat) : W64 :=
  let r := rimAt w k
  let e := entryAt r r.stream.sent
  let oor := r.areas.any (fun p => p.2.oor && decide (p.2.state = .open ∨ p.2.state = .complete))
  let zeroing := decide ((r.blocks.filter (fun p => decide (p.2 ≠ .zero ∧ p.1 < 32766))).length < 32766)
  let ring := overRing w.net.dark k
  let st := streamState w k
  let quiet := decide (st = 0) && r.stream.buffer.isEmpty && !r.areas.any (fun p => decide (p.2.state = .zeroing))
  word [fld r.ucie 52, fld ((e.map (fun x => x.layer)).getD 0) 32, fld (if e.isSome then r.stream.sent else 0) 16,
    fld (b2n oor) 6, fld (b2n zeroing) 5, fld (b2n ring) 4, fld st 2, b2n quiet]

/-- True where a feed carries current (R530). -/
def FeedState.runs (f : FeedState) : Bool := f.present && !f.reversed && !f.lost && !f.isolated

/-- The limit that one running feed sets (R542), in W; its voltage is in units of 0.1 V. -/
def feedLimit (s : State) : Nat :=
  match s.pwr.feedA.runs, s.pwr.feedB.runs with
  | true, false => s.pwr.feedA.volts * 30 - 1000
  | false, true => s.pwr.feedB.volts * 30 - 1000
  | _, _ => 25000

/-- The coolant limit (R563), in W; inlet in units of 0.1 °C, flow in units of 0.1 L/min. -/
def coolantLimit (s : State) : Nat :=
  let g := s.pwr.gov
  min (25000 - 150 * (g.inlet - 350).toNat) (25000 * min g.flow 300 / 300)

/-- Failed bus converters; an armed point 0x0410 to 0x041F fails one until it is disarmed (R533). -/
def deadConverters (s : State) : Nat :=
  let p := s.wafer.fiMod.point.toNat
  let inj : BitVec 16 := if s.wafer.fiMod.armed && decide (0x0410 ≤ p ∧ p ≤ 0x041F) then 1#16 <<< (p - 0x0410) else 0
  ones (s.pwr.converters ||| inj)

/-- True where every thermistor of some location has failed (R549): inlet 0 and 1, outlet 2 and 3, cold plate 4 to 7. -/
def blindSpot (s : State) : Bool :=
  let t := s.pwr.thermistors
  t &&& 0x03 == 0x03 || t &&& 0x0C == 0x0C || t &&& 0xF0 == 0xF0

/-- The continuous limit L (R550), in W. -/
def limitW (s : State) : Nat :=
  min (min (min 25000 s.pwr.gov.cap) (feedLimit s)) (min (coolantLimit s)
    (min (25000 - 2000 * deadConverters s) (if blindSpot s then 15000 else 25000)))

/-- GOV_STATUS (R574). -/
def govWord (s : State) : W64 :=
  let g := s.pwr.gov
  let a := s.pwr.feedA
  let b := s.pwr.feedB
  let feeds := b2n a.present + 2 * b2n b.present + 4 * b2n a.reversed + 8 * b2n b.reversed + 16 * b2n a.lost +
    32 * b2n b.lost + 64 * b2n a.isolated + 128 * b2n b.isolated
  word [fld g.cause 48, fld feeds 40, fld (g.credit / 10) 31, fld (limitW s / 100) 22, fld (g.avg100 / 100) 13, g.clock]

/-- DMT_STATUS (R664). -/
def dmtWord (s : State) : W64 :=
  let un := match s.train.job with | some j => j.unmetered | none => false
  word [fld s.dmt.lastSeq.toNat 32, fld (min 15 s.dmt.queue.length) 4, fld (b2n un) 3, fld (b2n s.dmt.idOk) 2,
    fld (b2n s.dmt.loop) 1, b2n (metered s)]

/-- UPD_STATUS (R412). -/
def updWord (u : Upd) : W64 :=
  let st := match u.phase with | .idle => 0 | .orth => 1 | .updating => 2 | .regen => 3
  word [fld u.shards 16, fld u.lastFault.toNat 8, fld (b2n u.uncommitted) 2, st]

/-- A rim's register (R727). -/
def rimRead (s : State) (k off : Nat) : Option W64 :=
  let w := s.wafer
  let r := rimAt w k
  if off % 8 ≠ 0 then none
  else if off = 0x30000 then some r.stream.step
  else if off = 0x30008 then some (rimStatusWord w k)
  else if off = 0x30200 then some (updWord r.upd)
  else if off = 0x30208 then
    some (if k = 0 then word [fld r.upd.cause.toNat 40, fld s.train.hist.length 34, fld r.upd.verdict.toNat 32, r.upd.norm.toNat]
      else 0)
  else if off = 0x32000 then some r.fi.word
  else if isRimCtr off then some (mget .zero r.ctrs off).word
  else if k ≠ 0 then none
  else if 0xF000 ≤ off ∧ off < 0xF080 then
    let l := (off - 0xF000) / 8
    let x := lineAt w l
    some (word [fld (b2n (lineBusy w l)) 3, fld (b2n x.compArrived) 2, fld (b2n x.tree) 1, b2n x.comp])
  else if off = 0x31000 then some (govWord s)
  else if 0x31100 ≤ off ∧ off ≤ 0x31110 then some (mget .zero s.pwr.ctrs off).word
  else if off = 0x32040 then some w.fiMod.word
  else if off = 0x33000 then some (dmtWord s)
  else if 0x40000 ≤ off ∧ off < 0x60000 then
    (if off % 0x400 < 0x2A0 then some (mget 0 w.groups (84 * ((off - 0x40000) / 0x400) + off % 0x400 / 8)) else none)
  else none

/-! ### Writes -/

/-- True where writes to a bank and its header are refused (R125). -/
def bankBusy (c : Cad) (bank : Bool) : Bool := if bank == c.active then c.run else c.arm

/-- The mark of a config word that cannot be corrected (point 0x0106), or its clearing by a whole write. -/
def markCfg (w : Wafer) (t off : Nat) : Wafer :=
  let w := onTile w t (fun x => { x with cfgBad := x.cfgBad.filter (· != off) })
  match tileInject w t 0x0106 0x0106 with
  | (some _, w) => onTile w t (fun x => { x with cfgBad := x.cfgBad ++ [off] })
  | (none, w) => w

/-- The watches of a field on the flags `64*i` to `64*i + 63` of a tile evaluated, in slot order (R296, R324). -/
def evalFlags (w : Wafer) (t i : Nat) : Wafer :=
  let f := t / 64
  let slots := (fieldAt w f).watches.filterMap (fun p =>
    match p.2 with
    | some x => (match x.obj with
      | .flag u id => if u = t ∧ id / 64 = i then some p.1 else none
      | _ => none)
    | none => none)
  slots.foldl (fun w s => evalSlot w f s) w

/-- SYNC_FLAGi written: 64 flags replaced as one update (R324). -/
def writeFlags (w : Wafer) (t i : Nat) (v : W64) : Wafer :=
  let w := onTile w t (fun x =>
    { x with sync := { x.sync with flags :=
        (x.sync.flags &&& ~~~((0xFFFFFFFFFFFFFFFF#256) <<< (64 * i))) ||| ((v.setWidth 256) <<< (64 * i)) } })
  evalFlags w t i

/-- A write at a tile (R724): the error code of R720. -/
def tileWrite (src : CfgSrc) (w : Wafer) (t off : Nat) (v : W64) : Nat × Wafer :=
  let x := tileAt w t
  let cad (f : Cad → Cad) : Wafer := onTile w t (fun x => { x with cad := f x.cad })
  let slot (bank : Bool) (i : Nat) : Nat × Wafer :=
    if bankBusy x.cad bank then (3, w)
    else
      let v := v &&& slotMask (i % 4)
      (0, markCfg (cad (fun c => if bank then { c with bank1 := mput c.bank1 i v } else { c with bank0 := mput c.bank0 i v })) t off)
  if (tileRead w t off).isNone then (7, w)
  else if 0x4000 ≤ off ∧ off < 0x6000 then slot false ((off - 0x4000) / 8)
  else if 0x6000 ≤ off ∧ off < 0x8000 then slot true ((off - 0x6000) / 8)
  else if off = 0x8000 then (let (ok, w) := writeCadCtrl w t v; (if ok then 0 else 3, w))
  else if off = 0x8008 then
    (if bankBusy x.cad false then (3, w) else (0, cad (fun c => { c with hdr0 := v &&& 0xFFFFFFFFFFFF00FF })))
  else if off = 0x8010 then
    (if bankBusy x.cad true then (3, w) else (0, cad (fun c => { c with hdr1 := v &&& 0xFFFFFFFFFFFF00FF })))
  else if 0x10000 ≤ off ∧ off < 0x18000 then
    (if x.vc.run then (3, w)
      else (0, markCfg (onVc w t (fun c => { c with istore := mput c.istore ((off - 0x10000) / 8) v })) t off))
  else if 0x18000 ≤ off ∧ off < 0x18800 then
    (if x.vc.run then (3, w)
      else (0, markCfg (onVc w t (fun c => { c with consts := mput c.consts ((off - 0x18000) / 8) (v.setWidth 32) })) t off))
  else if off = 0x19000 then (let (ok, w) := writeVcCtrl w t v; (if ok then 0 else 3, w))
  else if off = 0x19008 then (0, onVc w t (fun c => { c with flags := c.flags &&& ~~~(v.setWidth 6) }))
  else if off = 0x19018 then writeVcWin w t v
  else if 0x20000 ≤ off ∧ off < 0x20040 then
    (0, onDma w t 0 (fun d => { d with desc := mput d.desc ((off - 0x20000) / 8) v }))
  else if 0x20100 ≤ off ∧ off < 0x20140 then
    (0, onDma w t 1 (fun d => { d with desc := mput d.desc ((off - 0x20100) / 8) v }))
  else if off = 0x20040 then (0, writeDmaCtl w t 0 v)
  else if off = 0x20140 then (0, writeDmaCtl w t 1 v)
  else if 0x22000 ≤ off ∧ off < 0x22020 then (0, writeFlags w t ((off - 0x22000) / 8) v)
  else if off = 0x22020 then (0, setFlag w t (bits v.toNat 7 0) (v.getLsbD 8))
  else if off = 0x22028 then (0, addCtr w t (bits v.toNat 39 32) (v.setWidth 32))
  else if 0x22800 ≤ off ∧ off < 0x23000 then (0, setCtr w t ((off - 0x22800) / 8) (v.setWidth 32))
  else if off = 0x24000 then
    (match src with
      | .firmware => (0, onTile w t (fun x => { x with fi := x.fi.write v }))
      | .host => (5, w))
  else if isTileCtr off then (0, onTile w t (fun x => { x with ctrs := mput x.ctrs off ((mget .zero x.ctrs off).preset v) }))
  else (0, w)

/-- BAN_MASKl written (R312). -/
def writeBanMask (w : Wafer) (f l : Nat) (v : W64) : Nat × Wafer :=
  if lineBusy w l then (3, w) else (0, onField w f (fun x => { x with banMask := mput x.banMask l v }))

/-- SIMMER_LEVEL written (R318, R329). -/
def writeLevel (w : Wafer) (f : Nat) (v : W64) : Nat × Wafer :=
  let n : BitVec 5 := v.setWidth 5
  if n.toNat > 16 then (4, w)
  else (0, onField w f (fun x => { x with level := n, pending := x.pending && decide (n ≠ 16) }))

/-- True where every powered field holds a level. -/
def allAt (w : Wafer) (l : BitVec 5) : Bool := (List.range 84).all (fun f => !fieldUp w f || (fieldAt w f).level == l)

/-- Simmer-hold ends where level 16 is restored (R321). -/
def noteLevel (s : State) : State :=
  if allAt s.wafer 16 then onPwr s (fun p => { p with simmerHold := false }) else s

/-- A write at a field's unit (R724). -/
def fieldWrite (src : CfgSrc) (s : State) (f off : Nat) (v : W64) : Nat × State :=
  let w := s.wafer
  let ret (p : Nat × Wafer) : Nat × State := (p.1, { s with wafer := p.2 })
  if (fieldRead s f off).isNone then (7, s)
  else if off = 0x9000 then
    (match src with
      | .firmware => (0, onW s (fun w => onField w f (fun x => { x with fi := x.fi.write v })))
      | .host => (5, s))
  else if off = 0xA100 ∨ off = 0xA108 then
    (0, onFp s f (fun q => { q with ctrs := mput q.ctrs off ((mget .zero q.ctrs off).preset v) }))
  else if 0xB100 ≤ off ∧ off ≤ 0xB130 then
    (0, onPort s f (fun p => { p with ctrs := mput p.ctrs off ((mget .zero p.ctrs off).preset v) }))
  else if off = 0xD000 then (0, onW s (fun w => writePd w f v))
  else if off = 0xF008 then (let (e, w) := writeLevel w f v; (e, noteLevel { s with wafer := w }))
  else if 0xF100 ≤ off ∧ off < 0xF180 then ret (writeBanMask w f ((off - 0xF100) / 8) v)
  else if isFieldCtr off then
    (0, onW s (fun w => onField w f (fun x => { x with ctrs := mput x.ctrs off ((mget .zero x.ctrs off).preset v) })))
  else (0, s)

/-- BAN_LINEl written (R312, R332). -/
def writeBanLine (w : Wafer) (l : Nat) (v : W64) : Nat × Wafer :=
  if lineBusy w l then (3, w) else (0, onLine w l (fun x => { x with tree := v.getLsbD 1, comp := v.getLsbD 0 }))

/-- A write at a rim (R727). -/
def rimWrite (src : CfgSrc) (s : State) (k off : Nat) (v : W64) : Nat × State :=
  let w := s.wafer
  if (rimRead s k off).isNone then (7, s)
  else if off = 0x30000 then (0, { s with wafer := writeRimStep w k v })
  else if off = 0x32000 then
    (match src with
      | .firmware => (0, { s with wafer := onRim w k (fun r => { r with fi := r.fi.write v }) })
      | .host => (5, s))
  else if isRimCtr off then
    (0, { s with wafer := onRim w k (fun r => { r with ctrs := mput r.ctrs off ((mget .zero r.ctrs off).preset v) }) })
  else if k ≠ 0 then (0, s)
  else if 0xF000 ≤ off ∧ off < 0xF080 then
    (let (e, w) := writeBanLine w ((off - 0xF000) / 8) v; (e, { s with wafer := w }))
  else if 0x31100 ≤ off ∧ off ≤ 0x31110 then
    (0, onPwr s (fun p => { p with ctrs := mput p.ctrs off ((mget .zero p.ctrs off).preset v) }))
  else if off = 0x32040 then
    (match src with
      | .firmware => (0, { s with wafer := { w with fiMod := w.fiMod.write v } })
      | .host => (5, s))
  else if 0x40000 ≤ off ∧ off < 0x60000 then
    (0, { s with wafer := { w with groups := mput w.groups (84 * ((off - 0x40000) / 0x400) + off % 0x400 / 8) v } })
  else (0, s)

/-! ### One access at one target -/

/-- A write at a target (R19, R726): the error code; point 0x0160 makes a tile's access fail with code 0x01. -/
def writeTarget (src : CfgSrc) (s : State) (n off : Nat) (v : W64) : Nat × State :=
  if n < 8192 then
    let f := n / 64
    if isFieldOff off then (if fieldUp s.wafer f || isPowerOff off then fieldWrite src s f off v else (2, s))
    else if !usable s.wafer n then (2, s)
    else match tileInject s.wafer n 0x0160 0x0160 with
      | (some _, w) => (1, { s with wafer := w })
      | (none, w) => let (e, w) := tileWrite src w n off v; (e, { s with wafer := w })
  else if (rimAt s.wafer (n - 8192)).failed then (2, s)
  else rimWrite src s (n - 8192) off v

/-- A read at a target: the error code, the value and the state. -/
def readTarget (s : State) (n off : Nat) : Nat × W64 × State :=
  let ans (r : Option W64) (s : State) : Nat × W64 × State := match r with | some v => (0, v, s) | none => (7, 0, s)
  if n < 8192 then
    let f := n / 64
    if isFieldOff off then (if fieldUp s.wafer f || isPowerOff off then ans (fieldRead s f off) s else (2, 0, s))
    else if !usable s.wafer n then (2, 0, s)
    else match tileInject s.wafer n 0x0160 0x0160 with
      | (some _, w) => (1, 0, { s with wafer := w })
      | (none, w) => ans (tileRead w n off) { s with wafer := w }
  else if (rimAt s.wafer (n - 8192)).failed then (2, 0, s)
  else ans (rimRead s (n - 8192) off) s

/-- A write applied at every target, with the failures noted in `e` (R17, R719). -/
def writeTargets (src : CfgSrc) (s : State) (ns : List Nat) (off : Nat) (v : W64) (e : CfgErr) : CfgErr × State :=
  ns.foldl (fun p n => let (x, s) := writeTarget src p.2 n off v; (p.1.note x n, s)) (e, s)

/-- The status of a source replaced (R720). -/
def setCfgErr (s : State) (src : CfgSrc) (e : CfgErr) : State :=
  onHost s (fun h => { h with cfg := match src with
    | .host => { h.cfg with status := e }
    | .firmware => { h.cfg with fw := e } })

/-- Why the host's window refuses an access before it is applied (R720, R721): stage, scope of a read, level. -/
def windowRefusal (s : State) (tgt : CfgTarget) (off : Nat) (write : Bool) : Option Nat :=
  if s.host.mb.stage ≠ 0x10 then some 8
  else if !write && !isSingle tgt then some 1
  else if levelCode s.sec.level ≥ 2 then none
  else if write then some 5
  else if s.sec.level = .closed ∧ !((cfgTargets s.wafer tgt off).all (fun n => isStatus n off)) then some 5
  else none

/-- The first target that a status names for a refused access. -/
def firstTarget (tgt : CfgTarget) : Nat :=
  match tgt with
  | .tile f t => 64 * f.val + t.val
  | .rim k => 8192 + k.val
  | .field f => 64 * f.val
  | _ => 0

/-- True while the bridge holds every access: a job context switch (R723) or a freeze (R540). -/
def bridgeHeld (s : State) : Bool :=
  (decide (s.train.state = .closing) && s.train.run.isNone && s.train.replay.isNone && !s.train.step.begun) || s.wafer.frozen

/-- The end of a target's config packets: the tile, the field's units or the rim. -/
def cfgEnd (n off : Nat) : Endpoint :=
  if n < 8192 then (if isFieldOff off then .unit (n / 64) else .tile n) else .rim (n - 8192)

/-- The copies of a config access on its way to its targets (R276, R279): the bridge stands at the companion die (R366), and
rim0's own port needs no hub. -/
def cfgEdges (w : Wafer) (ns : List Nat) (off : Nat) : List (Nat × HubOut) :=
  let tiles := ns.filter (fun n => decide (n < 8192))
  let way (e : Endpoint) (out : List HubOut) : List (Nat × HubOut) :=
    let hs := packetHubs w .comp e
    hs.zip (hs.tail.map HubOut.express ++ out)
  ((((tiles.map (fun n => n / 64)).eraseDups.map (fun f => way (.unit f) [])).flatten).eraseDups ++
    (if isFieldOff off then [] else tiles.map (fun t => (t / 64, .tap t)))) ++
    ((ns.filter (fun n => decide (8192 < n))).map (fun n => way (.rim (n - 8192)) [.rim (n - 8192)])).flatten

/-- A config access sent to its targets, counted at the hubs (R264, R279, R292): CFG is one flit. -/
def cfgOut (w : Wafer) (ns : List Nat) (off : Nat) : Wafer := countCopies w (cfgEdges w ns off) 1

/-- The answer CFG_RESP of a target, one flit, counted at the hubs it passes. -/
def cfgBack (off : Nat) (w : Wafer) (n : Nat) : Wafer := if n = 8192 then w else carry w (cfgEnd n off) .comp 0

/-- True while the bridge cannot apply a new access at once: one is in progress or waits (R20), or the bridge holds all. -/
def bridgeBusy (s : State) : Bool := bridgeHeld s || s.host.cfg.cur.isSome || !s.host.cfg.held.isEmpty

/-- The config address of a target's offset (R15). -/
def cfgCode (tgt : CfgTarget) (off : Nat) : BitVec 40 :=
  BitVec.ofNat 40 (off % 2 ^ 25 + match tgt with
    | .tile f t => f.val * 2 ^ 31 + t.val * 2 ^ 25
    | .rim k => (96 + k.val) * 2 ^ 31
    | .field f => 2 ^ 38 + f.val * 2 ^ 31
    | .group g => 2 * 2 ^ 38 + g.val * 2 ^ 31
    | .all => 3 * 2 ^ 38)

/-- An access that joins those the bridge has accepted and not begun (R20, R723). -/
def queueAccess (s : State) (a : CfgAccess) : State :=
  onHost s (fun h => { h with cfg := { h.cfg with held := h.cfg.held ++ [a] } })

/-- A write taken by the bridge to all its targets and answered by them (R20, R279), with the failures. -/
def bridgeWrite (s : State) (src : CfgSrc) (tgt : CfgTarget) (off : Nat) (v : W64) : CfgErr × State :=
  let ns := cfgTargets s.wafer tgt off
  let (e, s) := writeTargets src (onW s (fun w => cfgOut w ns off)) ns off v .none
  (e, onW s (fun w => ns.foldl (cfgBack off) w))

/-- A config write of a source carried out whole by the bridge (R20): its status starts clear and gathers the
failures. Behind an access in progress, a held one, a switch or a freeze it waits in the order of acceptance; the host's
window takes no second access (R719). -/
def configWriteAll (s : State) (src : CfgSrc) (tgt : CfgTarget) (off : Nat) (v : W64) : State :=
  if src = .host ∧ s.host.cfg.busy then onHost s (fun h => { h with cfg := { h.cfg with overrun := true } })
  else if bridgeBusy s then
    queueAccess (onHost s (fun h => { h with cfg := { h.cfg with busy := h.cfg.busy || src == .host } }))
      ⟨src, cfgCode tgt off, true, v, [], []⟩
  else
    let stop := match src with | .host => windowRefusal s tgt off true | .firmware => none
    match stop with
    | some c => setCfgErr s src (CfgErr.none.note c (firstTarget tgt))
    | none =>
      let (e, s) := bridgeWrite s src tgt off v
      setCfgErr s src e

end Sys2Proof.Machine
end

