-- ==== Sys2Proof/Machine/Rings.lean ====
section
/-!
DEFINITION. BAR0, the rings and the config window (12 R452 to R473, 20 R710 to R723): doorbells, the taking of commands,
progress and coalescing, and the config bridge.
-/

namespace Sys2Proof.Machine

open Sys2Proof

/-! ### BAR0 words -/

/-- A register after a write of `width` bytes at `off`: a 32-bit write changes its half alone (R710). -/
def mergeHalf (old : W64) (off width : Nat) (v : W64) : W64 :=
  if width = 8 then v
  else if off % 8 = 4 then v.setWidth 32 ++ old.extractLsb' 0 32
  else old.extractLsb' 32 32 ++ v.setWidth 32

/-! ### Rings (R458 to R464) -/

/-- A ring error (R463): the first code stands, and event 0x0E names the ring. -/
def ringError (s : State) (i code : Nat) : State :=
  let r := ringAt s i
  if r.state = .running ∨ r.state = .stopping then
    postEvent (setRing s i { r with state := .error, error := BitVec.ofNat 8 code }) 0x0E (BitVec.ofNat 32 i)
  else s

/-- A write of CTL (R458, R462): the coalescing fields, and EN where it changes. -/
def writeCtl (s : State) (i : Nat) (v : W64) : State :=
  let r := ringAt s i
  let r := { r with coalTime := v.extractLsb' 16 8, coalCount := v.extractLsb' 8 8 }
  if v.getLsbD 0 && !r.en then
    setRing s i { r with en := true, state := .running, error := 0, sqHead := 0, sqTail := 0, cqTail := 0, cqHead := 0
                         phase := true, unsignalled := 0 }
  else if !v.getLsbD 0 && r.en then setRing s i { r with en := false, state := .stopping }
  else setRing s i r

/-- DB_SQ_TAIL (R459). -/
def ringTail (s : State) (i : Nat) (v : W32) : State :=
  if v.toNat > 4095 then ringError s i 0x01 else onRing s i (fun r => { r with sqTail := v.toNat })

/-- DB_CQ_HEAD (R458, R459). -/
def ringHead (s : State) (i : Nat) (v : W32) : State :=
  let r := ringAt s i
  if v.toNat > 4095 then ringError s i 0x01
  else if (v.toNat + 4096 - r.cqHead) % 4096 > (r.cqTail + 4096 - r.cqHead) % 4096 then ringError s i 0x04
  else setRing s i { r with cqHead := v.toNat }

/-- RING_STOPPED (R462): a stopping ring with no command in progress is disabled. -/
def ringStop (s : State) (i : Nat) : State :=
  let r := ringAt s i
  if r.state = .stopping ∧ !s.host.progs.any (fun p => p.ring == i) then setRing s i { r with state := .disabled } else s

/-! ### Opcodes -/

/-- The exclusive commands (R466). -/
def exclusive (op : Nat) : Bool :=
  [0x0201, 0x0202, 0x0301, 0x0304, 0x0605, 0x0404, 0x0104, 0x0105, 0x0111, 0x0112, 0x0803].contains op

/-- The opcodes of R478 to R490. -/
def knownOps : List Nat :=
  [0x0101, 0x0102, 0x0103, 0x0104, 0x0105, 0x0110, 0x0111, 0x0112, 0x0201, 0x0202, 0x0203, 0x0301, 0x0302, 0x0303, 0x0304,
   0x0305, 0x0310, 0x0311, 0x0312, 0x0401, 0x0402, 0x0403, 0x0404, 0x0501, 0x0502, 0x0503, 0x0601, 0x0602, 0x0603, 0x0604,
   0x0605, 0x0606, 0x0701, 0x0702, 0x0703, 0x0801, 0x0802, 0x0803, 0x0901, 0x0902, 0x0A01, 0x0A02, 0x0A03, 0x0A04, 0x0A05,
   0x0A06, 0x0A07, 0x0A08, 0x0B01, 0x0B02, 0x0C01, 0x0C02, 0x0C03]

/-- True under the recovery loader (R492). -/
def inRecovery (s : State) : Bool := decide (s.host.mb.stage = 0x30)

/-- True while the firmware serves rings (R669, R492): after the ready post, in Retention, held, and under the recovery
loader. -/
def serving (s : State) : Bool := [0x10#8, 0x11#8, 0x31#8].contains s.host.mb.stage || inRecovery s

/-- Completion entries free beyond the reserved ones (R464). -/
def freeEntries (r : Ring) : Nat := 4095 - (r.cqTail + 4096 - r.cqHead) % 4096 - r.reserved

/-- True where a command can be taken from a ring now: it runs, holds a command, has a free entry, and no exclusive
command of it waits (R464, R465); the recovery loader serves ring 0 alone. -/
def mayTake (s : State) (i : Nat) : Bool :=
  let r := ringAt s i
  decide (r.state = .running ∧ r.sqHead ≠ r.sqTail ∧ 1 ≤ freeEntries r) &&
    !s.host.progs.any (fun p => p.ring == i && decide (p.state = .waiting)) && (!inRecovery s || i == 0)

/-- A command entry taken from ring `i` (R464 to R467, R471): its completion entry is reserved; an ID in progress,
reserved bytes, an unknown opcode or an exclusive command that may not wait completes it at once. -/
def takeEntry (s : State) (i : Nat) (e : List Byte) : State :=
  let op := fieldN e 0 2
  let id : BitVec 16 := BitVec.ofNat 16 (fieldN e 2 2)
  let flags := fieldN e 6 1
  let dup := s.host.progs.any (fun p => p.ring == i && p.cmdId == id)
  let excl := exclusive op && s.host.progs.any (fun p => exclusive p.opcode)
  let p : Prog :=
    { ring := i, cmdId := id, opcode := op, nowait := bitOf flags 0, progress := bitOf flags 1
      state := if excl && !dup then .waiting else .taken, rdata0 := 0 }
  let s := onRing s i (fun r => { r with sqHead := (r.sqHead + 1) % 4096, reserved := r.reserved + 1 })
  if dup then
    let s := onRing s i (fun r => { r with reserved := r.reserved - 1 })
    writeEntry s i id 0x0C false 0 0 0 0
  else
    let s := onHost s (fun h => { h with progs := h.progs ++ [p] })
    if flags ≥ 8 ∨ !zeros e 7 16 then complete s p 0x02
    else if !knownOps.contains op then complete s p 0x01
    else if excl && p.nowait then complete s p 0x04
    else s

/-- COMMAND_TAKE: the entry as read from host memory; none where the read failed (R458 error 0x02). -/
def takeCommand (s : State) (entry : Option (List Byte)) : State :=
  if !serving s || decide (s.host.progs.length ≥ 256) then s
  else
    match (List.range 8).find? (mayTake s) with
    | none => s
    | some i => match entry with
      | some e => takeEntry s i e
      | none => ringError s i 0x02

/-- EXCLUSIVE_START (R466): the oldest waiting exclusive command starts once no other is in progress. -/
def startExclusive (s : State) : State :=
  if s.host.progs.any (fun p => exclusive p.opcode && decide (p.state ≠ .waiting)) then s
  else
    match s.host.progs.find? (fun p => decide (p.state = .waiting)) with
    | some p => updProg s p { p with state := .taken }
    | none => s

/-- PROGRESS_ENTRY (R469). -/
def progressNote (s : State) (i : Nat) (id : BitVec 16) (stage done total : Nat) : State :=
  match s.host.progs.find? (fun p => p.ring == i && p.cmdId == id) with
  | some p =>
    if p.progress && decide (p.state ≠ .waiting) && decide (64 < freeEntries (ringAt s i)) then
      writeEntry s i id 0 true stage (BitVec.ofNat 64 done) (BitVec.ofNat 64 total) 0
    else s
  | none => s

/-- COAL_TIME_EXPIRY (R458). -/
def coalExpire (s : State) (i : Nat) : State :=
  let r := ringAt s i
  if r.coalTime ≠ 0 ∧ r.unsignalled ≠ 0 then signalRing s i else s

/-- EVENT_DROP_REPORT (R473). -/
def reportDrops (s : State) : State :=
  if s.host.dropped ≠ 0 ∧ s.host.events.length < 256 then
    postEvent (onHost s (fun h => { h with dropped := 0 })) 0x0D (BitVec.ofNat 32 s.host.dropped)
  else s

/-- FUNCTION_PORT_MOVE (R454, R455): bus mastering must be enabled again, and completions wait for it. -/
def movePort (s : State) : State :=
  let here := if s.host.port then s.host.linkUp1 else s.host.linkUp0
  let there := if s.host.port then s.host.linkUp0 else s.host.linkUp1
  if !here && there then postEvent (onHost s (fun h => { h with port := !h.port, busMast := false })) 0x0B else s

/-- BUS_MASTER_ENABLE (R455): what waited goes out, and pending vectors that are not masked are sent. -/
def enableBus (s : State) : State :=
  let held := s.host.heldOut
  let s := onHost s (fun h => { h with busMast := true, heldOut := [] })
  let s := { s with out := s.out ++ held.map (fun p => OutMsg.hostWrite p.1 p.2) }
  (List.range 9).foldl (fun s v =>
    if s.host.pba.getLsbD v && !msixMasked s v then
      { (onHost s (fun h => { h with pba := h.pba &&& ~~~(1#9 <<< v) })) with out := s.out ++ [.msix v] }
    else s) s

/-! ### The mailbox and MSI-X (R711, R715, R716) -/

/-- MB_EVENT written (R716). -/
def clearMb (s : State) (v : W64) : State :=
  onHost s (fun h => { h with mb := { h.mb with event := h.mb.event &&& ~~~(v.setWidth 6) } })

/-- MB_EVENT_MASK written (R716). -/
def maskMb (s : State) (v : W64) : State :=
  let s := onHost s (fun h => { h with mb := { h.mb with mask := v.setWidth 6 } })
  if s.host.mb.event &&& s.host.mb.mask ≠ 0 then raiseMsix s 8 else s

/-- A word of the MSI-X table as read: every vector is masked until it is written (PCI Express Base Specification). -/
def msixWord (m : SMap W64) (i : Nat) : W64 := mget (if i % 2 = 0 then 0 else 0x100000000) m i

/-- A word of the MSI-X table written: unmasking a pending vector sends it (PCI Express Base Specification). -/
def writeMsix (s : State) (off width : Nat) (v : W64) : State :=
  let i := (off - 0x3000) / 8
  let old := msixWord s.host.msix i
  let new := mergeHalf old off width v
  let s := onHost s (fun h => { h with msix := mput h.msix i new })
  let n := i / 2
  if s.host.pba.getLsbD n && !msixMasked s n && s.host.busMast then
    { (onHost s (fun h => { h with pba := h.pba &&& ~~~(1#9 <<< n) })) with out := s.out ++ [.msix n] }
  else s

/-! ### The config window and the bridge (R717 to R723) -/

/-- A config address (R15) as a target and an offset; none where a field or tile value is reserved (R16). -/
def cfgAddr (a : Nat) : Option (CfgTarget × Nat) :=
  let off := bits a 24 0
  match bits a 39 38 with
  | 0 =>
    if h : bits a 37 31 < 84 then some (.tile ⟨bits a 37 31, h⟩ ⟨bits a 30 25 % 64, Nat.mod_lt _ (by decide)⟩, off)
    else if 96 ≤ bits a 37 31 ∧ bits a 37 31 ≤ 111 ∧ bits a 30 25 = 0 then
      some (.rim ⟨(bits a 37 31 - 96) % 16, Nat.mod_lt _ (by decide)⟩, off)
    else none
  | 1 => if h : bits a 37 31 < 84 then some (.field ⟨bits a 37 31, h⟩, off) else none
  | 2 => some (.group ⟨bits a 37 31 % 128, Nat.mod_lt _ (by decide)⟩, off)
  | _ => some (.all, off)

/-- A scope-00 config address from a target number (R15). -/
def cfgAddrOf (n off : Nat) : Nat := let (f, t) := targetName n; f * 2 ^ 31 + t * 2 ^ 25 + off

/-- A config window register changed. -/
def onCfg (s : State) (f : CfgWin → CfgWin) : State := onHost s (fun h => { h with cfg := f h.cfg })

/-- The bridge begins the access at its front (R720): refusals end it with no target. -/
def beginAccess (s : State) (a : CfgAccess) : State :=
  let fail (c : Nat) : State :=
    setCfgErr (onCfg s (fun w => { w with cur := some { a with todo := [], resp := [] } })) a.src
      { CfgErr.none with err := BitVec.ofNat 8 c, field := a.addr.extractLsb' 31 7, tile := a.addr.extractLsb' 25 6, count := 1 }
  if a.src = .host ∧ s.host.mb.stage ≠ 0x10 then fail 8
  else
    match cfgAddr a.addr.toNat with
    | none => if levelCode s.sec.level < 2 ∧ (a.write ∨ s.sec.level = .closed) then fail 5 else fail 6
    | some (tgt, off) =>
      match (match a.src with | .host => windowRefusal s tgt off a.write | .firmware => none) with
      | some c => fail c
      | none =>
        let ts := cfgTargets s.wafer tgt off
        setCfgErr (onCfg (onW s (fun w => cfgOut w ts off)) (fun w => { w with cur := some { a with todo := ts, resp := ts } }))
          a.src .none

/-- CONFIG_READ and CONFIG_WRITE (R718, R719, R723): a start sets BUSY and clears the status; while BUSY is set the
write is discarded and sets OVERRUN. An access accepted behind another, during a switch or in a freeze is held (R20). -/
def startAccess (s : State) (write : Bool) (ctl : W64) : State :=
  if s.host.cfg.busy then onCfg s (fun w => { w with overrun := true })
  else if !ctl.getLsbD 0 || ctl.getLsbD 1 != write then s
  else
    let a : CfgAccess := ⟨.host, s.host.cfg.addr, write, s.host.cfg.data, [], []⟩
    let s := onCfg s (fun w => { w with busy := true, overrun := false, status := .none, result := 0 })
    if bridgeBusy s then queueAccess s a else beginAccess s a

/-- The first of the held accesses begins once nothing holds the bridge and none is in progress (R20, R723). -/
def releaseAccess (s : State) : State :=
  match s.host.cfg.cur, s.host.cfg.held with
  | none, a :: rest => if bridgeHeld s then s else beginAccess (onCfg s (fun w => { w with held := rest })) a
  | _, _ => s

/-- The access in progress applied at one of its targets: a write's effect and error, or a read's value. -/
def applyAccess (s : State) (a : CfgAccess) (n : Nat) : State :=
  let off := bits a.addr.toNat 24 0
  if a.write then
    let (e, s) := writeTarget a.src s n off a.value
    onCfg s (fun w => match a.src with
      | .host => { w with status := w.status.note e n }
      | .firmware => { w with fw := w.fw.note e n })
  else
    let (e, v, s) := readTarget s n off
    onCfg s (fun w => { w with status := w.status.note e n, result := v })

/-- The target numbers that a CFG packet's target names for an offset. -/
def packetTargets (w : Wafer) (t : CfgTarget) (off : Nat) : List Nat := cfgTargets w t off

/-- CFG (R279): a packet of the access in progress arrives and is applied; a freeze holds it (R723). -/
def cfgArrives (s : State) (t : CfgTarget) : State :=
  match s.host.cfg.cur with
  | some a =>
    if s.wafer.frozen then s
    else
      let hit := (packetTargets s.wafer t (bits a.addr.toNat 24 0)).filter (fun n => a.todo.contains n)
      let s := hit.foldl (fun s n => applyAccess s a n) s
      onCfg s (fun w => { w with cur := some { a with todo := a.todo.filter (fun n => !hit.contains n) } })
  | none => s

/-- CFG_RESP (R279): the bridge counts the answer of a target that has applied the access. -/
def cfgAnswered (s : State) (t : CfgTarget) : State :=
  match s.host.cfg.cur with
  | some a =>
    let off := bits a.addr.toNat 24 0
    let hit := (packetTargets s.wafer t off).filter (fun n => !a.todo.contains n && a.resp.contains n)
    onCfg (onW s (fun w => hit.foldl (cfgBack off) w))
      (fun w => { w with cur := some { a with resp := a.resp.filter (fun n => !hit.contains n) } })
  | none => s

/-- CONFIG_ACCESS_COMPLETE (R279, R718): once every target has applied the access and answered, it ends. The host's clears BUSY,
and CFG_DATA holds a read's result, zero where it failed. -/
def finishAccess (s : State) : State :=
  match s.host.cfg.cur with
  | some a =>
    if s.wafer.frozen || !a.todo.isEmpty || !a.resp.isEmpty then s
    else
      onCfg s (fun w => match a.src with
        | .host => { w with busy := false, cur := none
                            data := if a.write then w.data else if w.status.err = 0 then w.result else 0 }
        | .firmware => { w with cur := none })
  | none => s

/-- Every packet and answer of the access in progress, before a switch that does not wait for them begins (R723). -/
def hurryAccess (s : State) : State :=
  match s.host.cfg.cur with
  | some a =>
    let off := bits a.addr.toNat 24 0
    let s := onW (a.todo.foldl (fun s n => applyAccess s a n) s) (fun w => a.resp.foldl (cfgBack off) w)
    finishAccess (onCfg s (fun w => { w with cur := some { a with todo := [], resp := [] } }))
  | none => s

/-! ### BAR0 reads (R457, R710) -/

/-- STATUS.STATE (R458). -/
def RingPhase.code : RingPhase → Nat
  | .disabled => 0 | .running => 1 | .stopping => 2 | .error => 3

/-- A ring register as read (R458). -/
def Ring.word (r : Ring) (off : Nat) : W64 :=
  match off with
  | 0x00 => r.sqBase
  | 0x08 => r.cqBase
  | 0x10 => Machine.word [fld r.coalTime.toNat 16, fld r.coalCount.toNat 8, b2n r.en]
  | 0x18 => Machine.word [fld r.state.code 40, fld r.error.toNat 32, fld r.cqTail 16, r.sqHead]
  | _ => 0

/-- A mailbox register as read (R712 to R715). -/
def mailWord (s : State) (off : Nat) : W64 :=
  match off with
  | 0x00 => word [fld 0xB1 40, fld 1 32, s.tree.cfg.moduleId.toNat]
  | 0x08 =>
    word [fld ((s.train.job.map (fun j => j.id.toNat)).getD 0) 48, fld (lifeCode s.sec.life) 24, fld (levelCode s.sec.level) 16,
      fld (jobCode s.train.state) 12, fld (powerCode s) 8, s.host.mb.stage.toNat]
  | 0x10 => lastStepWord s
  | 0x18 => summaryWord s
  | 0x20 => match s.host.fw.running with
    | some i => word [fld i.version.toNat 32, i.svn]
    | none => 0
  | 0x28 => s.host.mb.heart.setWidth 64
  | 0x30 => s.host.mb.event.setWidth 64
  | 0x38 => s.host.mb.mask.setWidth 64
  | _ => if off < 0x60 then mget 0 s.host.mb.scratch ((off - 0x40) / 8) else 0

/-- A register of the config window as read (R717): GO and WRITE read zero, and the result of a read in progress is not
there yet (R719). -/
def windowWord (c : CfgWin) (off : Nat) : W64 :=
  match off with
  | 0x00 => c.addr.setWidth 64
  | 0x08 => c.data
  | 0x18 =>
    word [fld c.status.count.toNat 48, fld c.status.field.toNat 41, fld c.status.tile.toNat 35, fld c.status.err.toNat 8,
      fld (b2n c.overrun) 1, b2n c.busy]
  | _ => 0

/-- The 64-bit register of BAR0 at an aligned offset, as the host reads it: a doorbell and an offset outside the regions
read zero (R457, R459). A read changes nothing, so no command of the block stands for one; a read of part of a register
returns its bytes (R710). -/
def barRead (s : State) (off : Nat) : W64 :=
  if off < 0x1000 then mailWord s off
  else if 0x1000 ≤ off ∧ off < 0x1200 then (ringAt s ((off - 0x1000) / 0x40)).word ((off - 0x1000) % 0x40)
  else if 0x3000 ≤ off ∧ off < 0x3090 then msixWord s.host.msix ((off - 0x3000) / 8)
  else if off = 0x3800 then s.host.pba.setWidth 64
  else if 0x4000 ≤ off ∧ off < 0x4020 then windowWord s.host.cfg (off - 0x4000)
  else 0

/-! ### BAR0 writes without behaviour of their own (R10, R710) -/

/-- A write of BAR0: one that reaches a doorbell, CTL, CFG_CTL or the mailbox's bits has the effect of that register. -/
def barWrite (s : State) (off width : Nat) (v : W64) : State :=
  let low := off % 8 = 0
  let reg := off / 8 * 8
  if (width ≠ 4 ∧ width ≠ 8) ∨ off % width ≠ 0 then s
  else if reg = 0x30 then (if low then clearMb s (if width = 8 then v else v.extractLsb' 0 32 |>.setWidth 64) else s)
  else if reg = 0x38 then (if low then maskMb s v else s)
  else if 0x40 ≤ reg ∧ reg < 0x60 then
    let i := (reg - 0x40) / 8
    onHost s (fun h => { h with mb := { h.mb with scratch := mput h.mb.scratch i (mergeHalf (mget 0 h.mb.scratch i) off width v) } })
  else if 0x1000 ≤ reg ∧ reg < 0x1200 then
    let i := (reg - 0x1000) / 0x40
    let r := ringAt s i
    match (reg - 0x1000) % 0x40 with
    | 0x00 => if r.en then s else setRing s i { r with sqBase := mergeHalf r.sqBase off width v &&& ~~~0xFFF#64 }
    | 0x08 => if r.en then s else setRing s i { r with cqBase := mergeHalf r.cqBase off width v &&& ~~~0xFFF#64 }
    | 0x10 => if low then writeCtl s i v else s
    | _ => s
  else if 0x2000 ≤ reg ∧ reg < 0x2080 then
    let i := (reg - 0x2000) / 0x10
    if !low then s else if (reg - 0x2000) % 0x10 = 0 then ringTail s i (v.setWidth 32) else ringHead s i (v.setWidth 32)
  else if 0x3000 ≤ reg ∧ reg < 0x3090 then writeMsix s off width v
  else if reg = 0x4000 ∨ reg = 0x4008 then
    if s.host.cfg.busy then onCfg s (fun w => { w with overrun := true })
    else if reg = 0x4000 then
      onCfg s (fun w => { w with addr := (mergeHalf (w.addr.setWidth 64) off width v).setWidth 40 })
    else onCfg s (fun w => { w with data := mergeHalf w.data off width v })
  else if reg = 0x4010 then (if low then startAccess s (v.getLsbD 1) v else s)
  else s

/-! ### The commands -/

/-- DB_SQ_TAIL (R459). -/
def execDbSqTail (ring : Fin 8) (value : W32) (s : State) : Res := noting s (fun s => ringTail s ring value)

/-- DB_CQ_HEAD (R459). -/
def execDbCqHead (ring : Fin 8) (value : W32) (s : State) : Res := noting s (fun s => ringHead s ring value)

/-- RING_ENABLE (R462): CTL written with EN = 1. -/
def execRingEnable (ring : Fin 8) (ctl : W64) (s : State) : Res := noting s (fun s => writeCtl s ring (ctl ||| 1))

/-- RING_DISABLE (R462): CTL written with EN = 0. -/
def execRingDisable (ring : Fin 8) (ctl : W64) (s : State) : Res := noting s (fun s => writeCtl s ring (ctl &&& ~~~1#64))

/-- RING_STOPPED (R462). -/
def execRingStopped (ring : Fin 8) (s : State) : Res := noting s (fun s => ringStop s ring)

/-- COMMAND_TAKE (R464). -/
def execCommandTake (entry : Option (List Byte)) (s : State) : Res := noting s (fun s => takeCommand s entry)

/-- EXCLUSIVE_START (R466). -/
def execExclusiveStart (s : State) : Res := noting s startExclusive

/-- PROGRESS_ENTRY (R469). -/
def execProgressEntry (ring : Fin 8) (cmdId : BitVec 16) (stage done total : Nat) (s : State) : Res :=
  noting s (fun s => progressNote s ring cmdId stage done total)

/-- COAL_TIME_EXPIRY (R458). -/
def execCoalTimeExpiry (ring : Fin 8) (s : State) : Res := noting s (fun s => coalExpire s ring)

/-- EVENT_DROP_REPORT (R473). -/
def execEventDropReport (s : State) : Res := noting s reportDrops

/-- FUNCTION_PORT_MOVE (R454, R455). -/
def execFunctionPortMove (s : State) : Res := noting s movePort

/-- BUS_MASTER_ENABLE (R455). -/
def execBusMasterEnable (s : State) : Res := noting s enableBus

/-- MB_EVENT_CLEAR (R716). -/
def execMbEventClear (value : W64) (s : State) : Res := .next (clearMb s value)

/-- MB_EVENT_MASK (R716). -/
def execMbEventMask (value : W64) (s : State) : Res := .next (maskMb s value)

/-- CONFIG_READ (R718). -/
def execConfigRead (ctl : W64) (s : State) : Res := noting s (fun s => startAccess s false ctl)

/-- CONFIG_WRITE (R718). -/
def execConfigWrite (ctl : W64) (s : State) : Res := noting s (fun s => startAccess s true ctl)

/-- CFG_RESP (R279). -/
def execCfgResp (target : CfgTarget) (s : State) : Res := .next (cfgAnswered s target)

/-- CONFIG_ACCESS_COMPLETE (R718). -/
def execConfigAccessComplete (s : State) : Res := .next (settle (releaseAccess (finishAccess s)))

/-- REGISTER_WRITE (R10): through BAR0, or as the bridge applies it. -/
def execRegisterWrite (x : RegWrite) (s : State) : Res :=
  match x with
  | .bar0 off width v => noting s (fun s => barWrite s off width v)
  | .cfg src tgt off v => .next (settle (configWriteAll s src tgt off v))

/-- CAD_RUN (R127): CAD_CTRL written with RUN = 1. -/
def execCadRun (src : CfgSrc) (target : CfgTarget) (value : W64) (s : State) : Res :=
  .next (settle (configWriteAll s src target 0x8000 (value ||| 1)))

/-- CAD_ARM (R127): CAD_CTRL written with RUN = 0. -/
def execCadArm (src : CfgSrc) (target : CfgTarget) (value : W64) (s : State) : Res :=
  .next (settle (configWriteAll s src target 0x8000 (value &&& ~~~1#64)))

/-- VC_RUN (R208): VC_CTRL written with RUN = 1. -/
def execVcRun (src : CfgSrc) (target : CfgTarget) (value : W64) (s : State) : Res :=
  .next (settle (configWriteAll s src target 0x19000 (value ||| 1)))

/-- VC_WIN (R210). -/
def execVcWin (src : CfgSrc) (target : CfgTarget) (value : W64) (s : State) : Res :=
  .next (settle (configWriteAll s src target 0x19018 value))

/-- DMA_POST (R250): DMAn_CTL written with POST = 1. -/
def execDmaPost (src : CfgSrc) (target : CfgTarget) (engine : Fin 2) (value : W64) (s : State) : Res :=
  .next (settle (configWriteAll s src target (0x20040 + 0x100 * engine.val) (value ||| 1)))

/-- DMA_CLEAR (R250): DMAn_CTL written with CLEAR = 1. -/
def execDmaClear (src : CfgSrc) (target : CfgTarget) (engine : Fin 2) (value : W64) (s : State) : Res :=
  .next (settle (configWriteAll s src target (0x20040 + 0x100 * engine.val) (value ||| 2)))

/-- BDS_PD_REQUEST (R232): BDS_PD written; the bits that rise begin their fences. -/
def execBdsPdRequest (src : CfgSrc) (target : CfgTarget) (value : W64) (s : State) : Res :=
  .next (settle (configWriteAll s src target 0xD000 value))

/-- BDS_PD_CLEAR (R235): BDS_PD written; the bits that fall wake their groups. -/
def execBdsPdClear (src : CfgSrc) (target : CfgTarget) (value : W64) (s : State) : Res :=
  .next (settle (configWriteAll s src target 0xD000 value))

/-- SIMMER_LEVEL (R329). -/
def execSimmerLevel (src : CfgSrc) (target : CfgTarget) (value : W64) (s : State) : Res :=
  .next (settle (configWriteAll s src target 0xF008 value))

/-- SYNC_FLAG_WRITE (R324). -/
def execSyncFlagWrite (src : CfgSrc) (target : CfgTarget) (i : Fin 4) (value : W64) (s : State) : Res :=
  .next (settle (configWriteAll s src target (0x22000 + 8 * i.val) value))

/-- SYNC_SETF (R325). -/
def execSyncSetf (src : CfgSrc) (target : CfgTarget) (value : W64) (s : State) : Res :=
  .next (settle (configWriteAll s src target 0x22020 value))

/-- SYNC_ADDC (R325). -/
def execSyncAddc (src : CfgSrc) (target : CfgTarget) (value : W64) (s : State) : Res :=
  .next (settle (configWriteAll s src target 0x22028 value))

/-- SYNC_CTR_WRITE (R326). -/
def execSyncCtrWrite (src : CfgSrc) (target : CfgTarget) (i : Fin 256) (value : W64) (s : State) : Res :=
  .next (settle (configWriteAll s src target (0x22800 + 8 * i.val) value))

/-- BAN_MASK_WRITE (R312). -/
def execBanMaskWrite (src : CfgSrc) (target : CfgTarget) (line : Fin 16) (value : W64) (s : State) : Res :=
  .next (settle (configWriteAll s src target (0xF100 + 8 * line.val) value))

/-- BAN_LINE_WRITE (R312, R332). -/
def execBanLineWrite (src : CfgSrc) (line : Fin 16) (value : W64) (s : State) : Res :=
  .next (settle (configWriteAll s src (.rim 0) (0xF000 + 8 * line.val) value))

/-- RIM_STEP (R346). -/
def execRimStep (src : CfgSrc) (rim : Fin 16) (value : W64) (s : State) : Res :=
  .next (settle (configWriteAll s src (.rim rim) 0x30000 value))

/-- GRP_MASK_WRITE (R728, R729). -/
def execGrpMaskWrite (src : CfgSrc) (g : Fin 128) (f : Fin 84) (value : W64) (s : State) : Res :=
  .next (settle (configWriteAll s src (.rim 0) (0x40000 + 0x400 * g.val + 8 * f.val) value))

end Sys2Proof.Machine
end

