-- ==== Sys2Proof/Machine/Update.lean ====
section
/-!
DEFINITION. Gradient reduction and the two-tier update (10): ORTH and the factor images, the norm and the verdict, the
update programs, shard commits, working copies and the drift audit.
-/

namespace Sys2Proof.Machine

open Sys2Proof

/-! ### Tensors (R372, R373) -/

/-- A size padded to a multiple of 64. -/
def pad64 (n : Nat) : Nat := (n + 63) / 64 * 64

def Reduction.rows (d : Reduction) : Nat := pad64 d.n
def Reduction.cols (d : Reduction) : Nat := pad64 d.k
def Reduction.elems (d : Reduction) : Nat := d.rows * d.cols

/-- The areas a tensor uses (R372, R737). -/
def Reduction.areas (d : Reduction) : List Nat :=
  if d.low then [d.pArea, d.qArea]
  else (List.range ((d.elems + 16777215) / 16777216)).map (fun i => d.pArea + i)

/-- The reduction descriptor of a tensor of the open job. -/
def redOf (s : State) (t : Nat) : Option Reduction := s.train.job.bind (fun j => j.reds.find? (fun d => d.id == t))

/-- The placement of a tensor. -/
def placeOf (s : State) (t : Nat) : Option Placement := s.train.job.bind (fun j => j.places.find? (fun p => p.id == t))

/-- λ of a tensor in this step: that of its scale group (R373, R423). -/
def lamOf (s : State) (d : Reduction) : Int := (mget ⟨s.train.lamG, []⟩ s.train.groups d.sgroup).lam

/-- The tensor of the open job whose area it is. -/
def areaTensor (s : State) (k a : Nat) : Option Reduction :=
  s.train.job.bind (fun j => j.reds.find? (fun d => d.rim == k && d.areas.contains a))

/-- The scale an area opens with: that of its tensor in this step (R382), else the one the command names. -/
def areaScale (s : State) (k a : Nat) (t : Int) : Int :=
  match areaTensor s k a with
  | some d => max (-160) (min 128 (lamOf s d + d.toff))
  | none => t

/-- COUNT and EXPECT an area opens with: those of its tensor (R383), else those the command names. -/
def areaShape (s : State) (k a count expect : Nat) : Nat × Nat :=
  match areaTensor s k a with
  | some d =>
    if !d.low then (min 16777216 (d.elems - (a - d.pArea) * 16777216), 1)
    else if a = d.pArea then (d.rows * d.rank, d.cols / 64)
    else (d.cols * d.rank, d.rows / 64)
  | none => (count, expect)

/-- What has happened to a tensor in this step. -/
def tstep (s : State) (t : Nat) : TensorStep := mget .reset s.train.step.tensors t
def onStep (s : State) (f : StepState → StepState) : State := onTrain s (fun t => { t with step := f t.step })
def onTstep (s : State) (t : Nat) (f : TensorStep → TensorStep) : State :=
  onStep s (fun x => { x with tensors := mput x.tensors t (f (mget .reset x.tensors t)) })

/-- The global area of a local one: its twin in a tree (R384, R516). -/
def globalArea (s : State) (a : Nat) : Nat := if inTree s then a + 128 else a

/-- True where an area's global values are present (R384, R516). -/
def globalReady (s : State) (k a : Nat) : Bool :=
  let x := areaAt (rimAt s.wafer k) a
  if inTree s then
    decide (x.state = .complete ∧ (mget [] s.tree.step.globals (256 * k + a + 128)).length = x.lines)
  else decide (x.state = .complete)

/-! ### ORTH (R379) -/

/-- Zero or subnormal, by the exponent field. -/
def tinyF32 (x : W32) : Bool := x.extractLsb' 23 8 == 0

/-- A column made orthogonal to those before it, then normalised; the flag says that it became +0. -/
def orthColumn (done : List (List W32)) (x : List W32) : List W32 × Bool :=
  let x := done.foldl (fun x u =>
    let d := f32Dot u x
    List.zipWith (fun a b => (f32Fma (f32Neg d) a b).1) u x) x
  let nn := f32Dot x x
  if tinyF32 nn then (x.map (fun _ => 0), true)
  else (x.map (fun a => (f32Mul a (f32Rsqrt nn).1).1), false)

/-- ORTH over columns, with the number of columns set to zero. -/
def orthColumns (cols : List (List W32)) : List (List W32) × Nat :=
  cols.foldl (fun (p : List (List W32) × Nat) x =>
    let (y, z) := orthColumn p.1 x
    (p.1 ++ [y], p.2 + b2n z)) ([], 0)

/-- A row-major matrix of `r` columns as columns, and back. -/
def toColumns (r : Nat) (l : List W32) : List (List W32) :=
  (List.range r).map (fun j => (List.range (l.length / r)).map (fun i => l.getD (i * r + j) 0))
def fromColumns (rows : Nat) (cols : List (List W32)) : List W32 :=
  ((List.range rows).map (fun i => cols.map (fun c => c.getD i 0))).flatten

/-- ORTH of a row-major matrix. -/
def orth (rows r : Nat) (l : List W32) : List W32 × Nat :=
  let (cs, z) := orthColumns (toColumns r l)
  (fromColumns rows cs, z)

/-! ### Factor images (R386) -/

/-- The factor images in the order of R386. -/
inductive Image where
  | basis0 | basis1 | phat | qloc | qglob
  deriving DecidableEq, Repr

/-- The offset of a factor image in the stack of RIM. -/
def imageOff (d : Reduction) (i : Image) : Nat :=
  d.fbase + 4 * d.rank * (match i with
    | .basis0 => 0
    | .basis1 => d.cols
    | .phat => 2 * d.cols
    | .qloc => 2 * d.cols + d.rows
    | .qglob => 3 * d.cols + d.rows)

/-- Elements of a factor image. -/
def imageLen (d : Reduction) (i : Image) : Nat := d.rank * (match i with | .phat => d.rows | _ => d.cols)

/-- FP32 words as bytes, and back. -/
def wordBytes (l : List W32) : List Byte := (l.map (fun v => leBytes 4 v.toNat)).flatten
def bytesWords (bs : List Byte) : List W32 := (List.range (bs.length / 4)).map (fun i => BitVec.ofNat 32 (fieldN bs (4 * i) 4))

/-- A factor image written. -/
def storeImage (w : Wafer) (d : Reduction) (i : Image) (l : List W32) : Wafer := hbmJobStore w d.rim (imageOff d i) (wordBytes l)

/-- A factor image read: an uncorrectable granule aborts the step (R400). -/
def loadImage (w : Wafer) (d : Reduction) (i : Image) : Option (List W32) × Wafer :=
  let (r, w) := hbmLoad w d.rim (imageOff d i) (4 * imageLen d i)
  (r.map bytesWords, w)

/-- An area or an image that could not be read: LAST_FAULT 0x03 (R412); the read has made the abort due (R400). -/
def sourceError (s : State) (k : Nat) : State := onW s (fun w => onRim w k (fun r => { r with upd := { r.upd with lastFault := 3 } }))

/-- Some areas of a rim read, each whole: false where one has an uncorrectable granule (R400). -/
def readAreas (k : Nat) : Wafer → List Nat → Bool × Wafer
  | w, [] => (true, w)
  | w, a :: l =>
    let r := readArea w k a
    let q := readAreas k r.2 l
    (r.1 && q.1, q.2)

/-- The global areas of a tensor. -/
def globalAreas (s : State) (d : Reduction) : List Nat := d.areas.map (globalArea s)

/-- The FP32 values of the `n` elements that some consecutive areas hold, from area `a` on (R82). -/
def areaVals (s : State) (d : Reduction) (a n : Nat) : List W32 :=
  (List.range n).map (fun e => areaF32 (rimAt s.wafer d.rim) (globalArea s (a + e / 16777216)) (e % 16777216) 0)

/-- Every global value of a tensor: P and Q of a LOWRANK one, each gradient of a FULL one (R386). -/
def globalVals (s : State) (d : Reduction) : List W32 :=
  if d.low then areaVals s d d.pArea (d.rows * d.rank) ++ areaVals s d d.qArea (d.cols * d.rank)
  else areaVals s d d.pArea d.elems

/-- A counter of every tile in a tensor's group raised, by SYNC ADD messages on VC0 (R381). -/
def raiseGroup (w : Wafer) (k g c : Nat) : Wafer :=
  ((liveTiles w).filter (fun t => (mget 0 w.groups (84 * g + t / 64)).getLsbD (t % 64))).foldl
    (fun w t => sendPkt w (.rim k) (.tile t) 0 (.sync (.add t c 1)) .none 0) w

/-- Basis slot 0 at job open: ORTH(Z) (R376). -/
def initialBasis (seed : W64) (d : Reduction) : List W32 :=
  let z := (List.range (d.cols * d.rank)).map (fun i =>
    if i / d.rank < d.k then
      (f32Round (exactOf ⟨(philoxWord seed 0x02 d.id i (BitVec.allOnes 64)).toInt, -31⟩)).1
    else 0)
  (orth d.cols d.rank z).1

/-- ORTH_P (R386 event 4): P̂ is written to FBASE and C2 rises. -/
def orthP (s : State) (t : Nat) : State :=
  match redOf s t with
  | some d =>
    if d.low && s.train.step.barrier && !(tstep s t).phat && globalReady s d.rim d.pArea && !s.wafer.halted &&
        !s.wafer.frozen then
      let (ok, w) := readArea s.wafer d.rim (globalArea s d.pArea)
      let s := { s with wafer := w }
      if !ok then sourceError s d.rim
      else
        let (ph, z) := orth d.rows d.rank (areaVals s d d.pArea (d.rows * d.rank))
        let s := onW s (fun w => raiseGroup (rimBump (storeImage w d .phat ph) d.rim 0x30310 z) d.rim d.group 2)
        onTstep s t (fun x => { x with phat := true })
    else s
  | none => s

/-- The local Q image of a completed Q area and the rise of C3 (R386 event 6). -/
def localQ (s : State) (d : Reduction) : State :=
  let (ok, w) := readArea s.wafer d.rim d.qArea
  let s := { s with wafer := w }
  if !ok then sourceError s d.rim
  else
    let q := (List.range (d.cols * d.rank)).map (fun e => areaF32 (rimAt s.wafer d.rim) d.qArea e 0)
    let s := onW s (fun w => raiseGroup (storeImage w d .qloc q) d.rim d.group 3)
    onTstep s d.id (fun x => { x with qloc := true })

/-- What a completed local area is handed to (R363): the local Q image where it is a tensor's Q area. -/
def areaDone (s : State) (k a : Nat) : State :=
  match s.train.job with
  | some j =>
    (match j.reds.find? (fun d => d.low && decide (d.rim = k ∧ d.qArea = a)) with
      | some d => if (tstep s d.id).qloc then s else localQ s d
      | none => s)
  | none => s

/-- GLOBAL_Q_IMAGE (R386 event 8). -/
def globalQ (s : State) (t : Nat) : State :=
  match redOf s t with
  | some d =>
    if d.low && (tstep s t).qloc && !(tstep s t).qglob && globalReady s d.rim d.qArea && !s.wafer.halted && !s.wafer.frozen then
      let (ok, w) := readArea s.wafer d.rim (globalArea s d.qArea)
      let s := { s with wafer := w }
      if !ok then sourceError s d.rim
      else
        onTstep (onW s (fun w => storeImage w d .qglob (areaVals s d d.qArea (d.cols * d.rank)))) t (fun x => { x with qglob := true })
    else s
  | none => s

/-- TIE_SUM_COMPLETE (R153, R154): after the backward barrier a complete tie area goes as FP32 to the owner's region, a
device address. -/
def tieSum (barrier : Bool) (w : Wafer) (k a owner : Nat) (region : W64) : Wafer :=
  let x := areaAt (rimAt w k) a
  let (ok, w') := readArea w k a
  if !barrier ∨ x.state ≠ .complete ∨ w.halted ∨ w.frozen then w
  else if !ok then w'
  else
    let w := w'
    let bs := wordBytes ((List.range x.count).map (fun e => areaF32 (rimAt w k) a e 0))
    (chunks bs.length).foldl (fun w c =>
      sendPkt w (.rim k) (.tile owner) 5 (.wr (region.toNat + c.1) (slice bs c.1 c.2)) .none region.toNat) w

/-! ### The norm and the verdict (R388 to R391) -/

/-- The norm square of some FP32 values under λ. -/
def normSquare (lam : Int) (l : List W32) : W32 :=
  (f32OfVal (match exactSum (l.map (fun x => fpMul (f32Val x) (f32Val x))) with
    | .fin d => .fin (d.shift (-2 * lam))
    | v => v)).1

/-- The FP32 values that a tensor's norm square is taken over, read from its image or its areas (R388, R400). -/
def normValues (s : State) (d : Reduction) : Option (List W32) × Wafer :=
  if d.low then loadImage s.wafer d .qglob
  else
    let (ok, w) := readAreas d.rim s.wafer (globalAreas s d)
    (if ok then some (globalVals s d) else none, w)

/-- True where a tensor's global values are present for its norm square (R386 event 9). -/
def normReady (s : State) (d : Reduction) : Bool := if d.low then (tstep s d.id).qglob else d.areas.all (globalReady s d.rim)

/-- NORM_SQUARE_SEND (R386 event 9): in a tree only the manager forms it (R520). It goes to rim0 on VC5. -/
def sendNorm (s : State) (t : Nat) : State :=
  match redOf s t with
  | some d =>
    if s.tree.cfg.role = 2 ∨ (tstep s t).ns.isSome ∨ s.wafer.halted ∨ s.wafer.frozen ∨ !normReady s d then s
    else (match normValues s d with
      | (some l, w) => onTstep { s with wafer := carryRims w d.rim 0 4 } t (fun x => { x with ns := some (normSquare (lamOf s d) l) })
      | (none, w) => sourceError { s with wafer := w } d.rim)
  | none => s

/-- A word put into its place in a rising list. -/
def insertUp (x : Nat) : List Nat → List Nat
  | [] => [x]
  | y :: l => if x ≤ y then x :: y :: l else y :: insertUp x l

/-- MED (R391): the 16th smallest of 32 norms, +0 while the history is short. The norms are not negative, so their
words order as they do. -/
def medianNorm (hist : List W32) : W32 :=
  if hist.length < 32 then 0 else BitVec.ofNat 32 (((hist.map BitVec.toNat).foldr insertUp []).getD 15 0)

/-- NORM (R389) of the norm squares in ascending TENSOR_ID order. -/
def normOf (ns : List (Nat × W32)) : W32 :=
  let order := (ns.map Prod.fst).foldr insertUp []
  let sum := order.foldl (fun a t => (f32Add a (mget 0 ns t)).1) 0
  (f32Sqrt sum).1

/-- True where a tensor has an area out of range. -/
def tensorOor (s : State) (d : Reduction) : Bool :=
  d.areas.any (fun a => (areaAt (rimAt s.wafer d.rim) (globalArea s a)).oor)

/-- True where a tensor's global values are not all finite. -/
def tensorBad (s : State) (d : Reduction) : Bool := (globalVals s d).any (fun x => !f32Finite x)

/-- Verdict and cause (R390, R413). -/
def verdictOf (oor bad : Bool) (norm qmult : W32) (hist : List W32) : Verdict × Nat :=
  if oor then (.skip, 1)
  else if bad then (.skip, 2)
  else if !f32Finite norm then (.skip, 3)
  else if (f32Cmp .gt qmult 0).1 && decide (32 ≤ hist.length) && (f32Cmp .gt norm (f32Mul qmult (medianNorm hist)).1).1 then
    (.quarantine, 4)
  else (.apply, 0)

/-- The verdict set in the step and in rim0's registers. -/
def setVerdict (s : State) (v : Verdict) (cause : Nat) (norm : W32) (named : List Nat) : State :=
  let s := onStep s (fun x => { x with verdict := v, cause := BitVec.ofNat 8 cause, norm := norm, named := named })
  onW s (fun w => onRim w 0 (fun r =>
    { r with upd := { r.upd with verdict := BitVec.ofNat 2 (verdictCode v), cause := BitVec.ofNat 8 cause, norm := norm } }))

/-- RIM_STEP written with the number of the step after the present one, once its verdict is final (R346). -/
def startPrefetch (s : State) : State :=
  onW s (fun w => (List.range 16).foldl (fun w k =>
    if (rimAt w k).failed then w else writeRimStep w k (BitVec.ofNat 64 (currentStep s + 1))) w)

/-- NORM_VERDICT (R390): the manager's verdict once every tensor's norm square is there; its amax table and verdict go
down a tree (R520). -/
def normVerdict (s : State) : State :=
  match s.train.job with
  | some j =>
    if s.tree.cfg.role = 2 ∨ s.train.step.verdict ≠ .pending ∨ !s.train.step.barrier ∨ s.wafer.halted ∨ s.wafer.frozen ∨
        !(j.reds.all (fun d => (tstep s d.id).ns.isSome)) ∨ (inTree s ∧ !s.tree.step.amaxSent) then s
    else
      let norm := normOf (j.reds.map (fun d => (d.id, ((tstep s d.id).ns).getD 0)))
      let named := (j.reds.filter (fun d => tensorOor s d || tensorBad s d)).map (fun d => d.sgroup)
      let (v, c) := verdictOf (j.reds.any (tensorOor s)) (j.reds.any (tensorBad s)) norm j.desc.qmult s.train.hist
      let s := startPrefetch (setVerdict s v c norm named)
      if inTree s then (childBundles s).foldl (fun s b => linkSend s b (.verdict (verdictCode v) c norm)) s else s
  | none => s

/-! ### Update programs (R392 to R394) -/

/-- The operands of a program by their codes. -/
abbrev Operands := SMap W32

/-- A value that an operation passes on: the canonical NaN for a NaN, +0 for a zero (R47, R49, R179). -/
def f32Canon (a : W32) : W32 := match f32Val a with | .nan => nan32 | _ => f32Plus0 a

/-- One instruction's result (R393). -/
def updOp (op : Nat) (a b c : W32) : W32 :=
  match op with
  | 0x01 => f32Canon a
  | 0x02 => (f32Add a b).1
  | 0x03 => (f32Sub a b).1
  | 0x04 => (f32Mul a b).1
  | 0x05 => (f32Fma a b c).1
  | 0x06 => (f32Div a b).1
  | 0x07 => (f32Sqrt a).1
  | 0x08 => (f32Rsqrt a).1
  | 0x09 => (f32Min a b).1
  | 0x0A => (f32Max a b).1
  | 0x0B => f32Abs a
  | 0x0C => f32Canon (if (f32Cmp .gt a 0).1 then b else c)
  | 0x0D =>
    (match f32Val a with
      | .nan => nan32
      | .inf n => if n then f32Neg f32One else f32One
      | .fin d => if d.m = 0 then 0 else if d.m < 0 then f32Neg f32One else f32One)
  | 0x0E => (f32Exp2 a).1
  | _ => (f32Log2 a).1

/-- A program run from word `pc` until END. -/
def runProgram (words : SMap W32) (prog : Nat) : Nat → Nat → Operands → Operands
  | 0, _, env => env
  | fuel + 1, pc, env =>
    let v := (mget 0 words (256 * prog + pc)).toNat
    let op := bits v 31 26
    if op = 0 then env
    else
      let r := updOp op (mget 0 env (bits v 19 14)) (mget 0 env (bits v 13 8)) (mget 0 env (bits v 7 2))
      runProgram words prog fuel (pc + 1) (mput env (bits v 25 20) r)

/-- The step number rounded to FP32 (R392). -/
def stepF32 (n : Nat) : W32 := (f32Round (exactOf ⟨n, 0⟩)).1

/-- The step constants of a program in force for a step (R481): those of the record of the largest FIRST that is
reached, the last given among equals (log 61). -/
def stepConsts (recs : List ConstRec) (prog step : Nat) : List W32 :=
  let newer (k : Option ConstRec) (c : ConstRec) : Bool := match k with | some b => decide (b.first ≤ c.first) | none => true
  (recs.foldl (fun (k : Option ConstRec) c =>
    if c.prog = prog ∧ c.first ≤ step ∧ newer k c then some c else k) none).elim [] (fun c => c.k)

/-- One element updated: its new master and state words (R394). -/
def updateElem (s : State) (j : Job) (d : Reduction) (step : Nat) (norm g wv : W32) (ms : List W32) : W32 × List W32 :=
  let base : Operands := [(0x10, g), (0x11, wv), (0x12, ms.getD 0 0), (0x13, ms.getD 1 0), (0x14, ms.getD 2 0),
    (0x15, norm), (0x16, stepF32 step)]
  let cs := d.consts.zipIdx.map (fun (c, i) => (0x18 + i, c))
  let ks := (stepConsts s.train.consts d.prog step).zipIdx.map (fun (c, i) => (0x28 + i, c))
  let env := runProgram j.programs d.prog 256 0 (base ++ cs ++ ks)
  (mget 0 env 0x11, (List.range d.nstate).map (fun i => mget 0 env (0x12 + i)))

/-! ### Shards, epochs and slots (R397 to R401) -/

/-- The stack and the offset of a device address of kind 0x0. -/
def stackOf (a : W64) : Nat × Nat := (bits a.toNat 39 36, bits a.toNat 35 0)

/-- The shard of element `i` of a tensor, counted from its first block; the rim that commits the tensor's shards. -/
def shardOf (p : Placement) (i : Nat) : Nat := ((stackOf p.master0).2 + 4 * i) / 2097152 - (stackOf p.master0).2 / 2097152
def shardRim (p : Placement) : Nat := (stackOf p.master0).1

/-- Number of shards of a tensor. -/
def shardCount (d : Reduction) (p : Placement) : Nat := shardOf p (d.elems - 1) + 1

/-- The elements of a shard. -/
def shardElems (d : Reduction) (p : Placement) (sh : Nat) : List Nat :=
  let off := (stackOf p.master0).2
  let first := (off / 2097152 + sh) * 2097152
  let lo := (first - off) / 4
  let hi := min d.elems ((first + 2097152 - off) / 4)
  (List.range (hi - lo)).map (fun i => lo + i)

/-- A shard's record (R397, R736). -/
def shardRec (w : Wafer) (p : Placement) (t sh : Nat) : ShardRec := mget .reset (rimAt w (shardRim p)).upd.epochs (65536 * t + sh)
def ShardRec.step (r : ShardRec) : W64 := if r.epoch then r.step1 else r.step0

/-- Pad elements are skipped (R373). -/
def isPad (d : Reduction) (i : Nat) : Bool := decide (d.n ≤ i / d.cols ∨ d.k ≤ i % d.cols)

/-- The 32-bit word at a device address plus an offset. -/
def devWord (w : Wafer) (a : W64) (off : Nat) : W32 :=
  match place w 0 (a.toNat + off) with
  | .hbm k o => BitVec.ofNat 32 (leNat ((rimAt w k).mem.readN o 4))
  | .comp o => BitVec.ofNat 32 (leNat (w.comp.mem.readN o 4))
  | _ => 0

/-- True where a range of a device address holds an uncorrectable granule. -/
def devBad (w : Wafer) (a : W64) (off n : Nat) : Bool :=
  match place w 0 (a.toNat + off) with
  | .hbm k o => (granules o n).any (fun g => (rimAt w k).unc.contains g)
  | .comp o => (granules o n).any (fun g => w.comp.unc.contains g)
  | _ => false

/-- Master and state slot of an epoch. -/
def masterSlot (p : Placement) (e : Bool) : W64 := if e then p.master1 else p.master0
def stateSlot (p : Placement) (e : Bool) : W64 := if e then p.state1 else p.state0

/-- G for an element (R398); P̂ and the global Q image are given for a LOWRANK tensor. -/
def gradient (s : State) (d : Reduction) (ph q : List W32) (i : Nat) : W32 :=
  let lam := lamOf s d
  if d.low then
    let n := i / d.cols
    let k := i % d.cols
    let ps := (List.range d.rank).map (fun j => fpMul (f32Val (ph.getD (n * d.rank + j) 0)) (f32Val (q.getD (k * d.rank + j) 0)))
    (f32OfVal (match exactSum ps with | .fin x => .fin (x.shift (-lam)) | v => v)).1
  else areaF32 (rimAt s.wafer d.rim) (globalArea s (d.pArea + i / 16777216)) (i % 16777216) lam

/-! ### Working copies (R409, R427) -/

/-- How a copy's element rounds (R83, R427): stream 0 for the working copy, 1 for the backward copy. -/
def copyRounding (seed : W64) (d : Reduction) (sigma i : Nat) (u : W64) : Rounding :=
  if d.wcRnd then .stochastic (philoxWord seed sigma d.id i u) else .nearest

/-- One chunk of a copy: its element bytes and, for an MX format, its scale byte. `idx` lists the chunk's elements by
their forward index, with their master words and slot steps. -/
def copyChunk (seed : W64) (d : Reduction) (sigma : Nat) (els : List (Nat × W32 × W64)) : List Byte × Option Nat :=
  let ms := els.map (fun e => copyRounding seed d sigma e.1 e.2.2)
  let vs := els.map (fun e => f32Val e.2.1)
  if isMx d.wcFmt then
    let free := els.map (fun e => (Config.freeLane 9 (BitVec.ofNat 32 e.1) e.2.1).toNat % 2 ^ elemBits d.wcFmt)
    let (x, es) := mxBlock d.wcFmt vs ms free
    (packElems (elemBits d.wcFmt) (es.map Prod.fst), some x)
  else
    let f := (elemFmt d.wcFmt).getD fp32
    (packElems (fpWidth f) (List.zipWith (fun m v => (fpConvert f m v).1) ms vs), none)

/-- Elements of a chunk: a block of 32 for an MX format, else one element. -/
def chunkLen (d : Reduction) : Nat := if isMx d.wcFmt then 32 else 1

/-- The forward index of position `p` of a copy: the backward copy is held transposed (R139). -/
def copyIndex (d : Reduction) (back : Bool) (p : Nat) : Nat :=
  if back then p % d.rows * d.cols + p / d.rows else p

/-- Bytes that go from the unit that makes a tensor's copies to a stack: the companion die for the slow tier (R366), the
update unit of the shards' rim for the fast tier. -/
def carryCopy (w : Wafer) (d : Reduction) (p : Placement) (base : W64) (n : Nat) : Wafer :=
  if n = 0 then w
  else if d.slow then carryComp w (stackOf base).1 n else carryRims w (shardRim p) (stackOf base).1 n

/-- The chunks of a copy that hold an element of `sel` written anew from their masters; `cur` gives an element's master
word and slot step. Packed elements come first and, for an MX format, the scale bytes after them (R53). -/
def regenCopy (w : Wafer) (seed : W64) (d : Reduction) (p : Placement) (back : Bool) (cur : Nat → W32 × W64)
    (sel : Nat → Bool) : Wafer :=
  let base := if back then p.bwc else p.wc
  let c := chunkLen d
  let eb := elemBits d.wcFmt
  let idx (j : Nat) : List Nat := (List.range c).map (fun i => copyIndex d back (c * j + i))
  let js := (List.range (d.elems / c)).filter (fun j => (idx j).any sel)
  js.foldl (fun w j =>
    let (bs, x) := copyChunk seed d (b2n back) ((idx j).map (fun i => (i, cur i)))
    let w := devJobStore w (base.toNat + j * c * eb / 8) bs
    (match x with
      | some x => devJobStore w (base.toNat + d.elems * eb / 8 + j) (leBytes 1 x)
      | none => w)) (carryCopy w d p base (js.length * (c * eb / 8 + b2n (isMx d.wcFmt))))

/-- The marks of bad granules gone where a write covers them wholly (R582). -/
def healed (l : List Nat) (off n : Nat) : List Nat := l.filter (fun g => !decide (off ≤ 64 * g ∧ 64 * g + 64 ≤ off + n))

/-- A range of a device address about to be written as one: the granules it covers wholly lose their errors (R582). -/
def heal (w : Wafer) (a n : Nat) : Wafer :=
  match place w 0 a with
  | .hbm k o => if (rimAt w k).unc = [] then w else onRim w k (fun r => { r with unc := healed r.unc o n })
  | .comp o => { w with comp := { w.comp with unc := healed w.comp.unc o n } }
  | _ => w

/-- Bytes of a tensor's working copy: its packed elements and, for an MX format, the scale bytes after them (R53). -/
def copyBytes (d : Reduction) : Nat := d.elems * elemBits d.wcFmt / 8 + (if isMx d.wcFmt then d.elems / 32 else 0)

/-- Working copy and backward copy of the elements of `sel` regenerated. -/
def regen (w : Wafer) (seed : W64) (d : Reduction) (p : Placement) (cur : Nat → W32 × W64) (sel : Nat → Bool) : Wafer :=
  let w := regenCopy w seed d p false cur sel
  if d.back then regenCopy w seed d p true cur sel else w

/-- The master word in force of an element of a fast-tier tensor and its slot's step. -/
def fastMaster (w : Wafer) (p : Placement) (t i : Nat) : W32 × W64 :=
  let r := shardRec w p t (shardOf p i)
  (devWord w (masterSlot p r.epoch) (4 * i), r.step)

/-- Some readiness entries of a tensor set, counted from its first (R349). -/
def setEntries (w : Wafer) (p : Placement) (es : List Nat) (step : Int) : Wafer :=
  (List.range 16).foldl (fun w k => onRim w k (fun r =>
    { r with ready := mputAll r.ready (es.map (fun i => p.first + i)) step })) w

/-- Every readiness entry of a tensor set. -/
def setReadiness (w : Wafer) (p : Placement) (step : Int) : Wafer := setEntries w p (List.range p.count) step

/-- True where readiness entry `e` of a tensor of `n` shards covers shard `sh`: the shards are spread over the entries in
order (DESIGN CHOICE 100). -/
def covers (p : Placement) (n e sh : Nat) : Bool := decide (e * n / p.count = sh ∨ sh * p.count / n = e)

/-- The readiness entries of which every shard is done. -/
def doneEntries (p : Placement) (n : Nat) (done : Nat → Bool) : List Nat :=
  (List.range p.count).filter (fun e => (List.range n).all (fun sh => !covers p n e sh || done sh))

/-- The elements and the shards of a fast-tier tensor whose flips of this step are undone (R401): epochs, copies and
readiness as at step start. -/
def undoFlips (s : State) : State :=
  match s.train.job with
  | none => s
  | some j =>
    let w := s.train.step.shards.foldl (fun (w : Wafer) (f : Nat × Nat) =>
      match redOf s f.1, placeOf s f.1 with
      | some d, some p =>
        let k := shardRim p
        let w := onRim w k (fun r =>
          { r with upd := { r.upd with epochs := mput r.upd.epochs (65536 * f.1 + f.2)
                                         (mget .reset r.upd.startEpochs (65536 * f.1 + f.2)) }
                   ctrs := bumpAt r.ctrs 0x30320 1 })
        let w := regen w j.desc.seed d p (fastMaster w p f.1) (fun i => decide (shardOf p i = f.2))
        w
      | _, _ => w) s.wafer
    let w := (List.range 16).foldl (fun w k => onRim w k (fun r =>
      { r with ready := r.readyAt0, upd := { r.upd with uncommitted := false, reruns := [], shards := 0 } })) w
    onStep { s with wafer := w } (fun x => { x with shards := [] })

/-- The results of a shard's program (R397): new masters and state words by element. -/
def shardResults (s : State) (j : Job) (d : Reduction) (p : Placement) (sh : Nat) (ph q : List W32) :
    List (Nat × W32 × List W32) :=
  let r := shardRec s.wafer p d.id sh
  ((shardElems d p sh).filter (fun i => !isPad d i)).map (fun i =>
    let ms := (List.range d.nstate).map (fun m => devWord s.wafer (stateSlot p r.epoch) (4 * d.nstate * i + 4 * m))
    (i, updateElem s j d s.train.next s.train.step.norm (gradient s d ph q i) (devWord s.wafer (masterSlot p r.epoch) (4 * i)) ms))

/-- True where a result is non-finite. -/
def badResult (x : Nat × W32 × List W32) : Bool := !f32Finite x.2.1 || x.2.2.any (fun m => !f32Finite m)

/-- The results written to the slot of epoch `e`. -/
def storeResults (w : Wafer) (d : Reduction) (p : Placement) (e : Bool) (rs : List (Nat × W32 × List W32)) : Wafer :=
  let first := (rs.head?.map (fun x => x.1)).getD 0
  let n := (rs.getLast?.map (fun x => x.1 + 1)).getD 0 - first
  let w := heal w ((masterSlot p e).toNat + 4 * first) (4 * n)
  let w := if d.nstate = 0 then w else heal w ((stateSlot p e).toNat + 4 * d.nstate * first) (4 * d.nstate * n)
  rs.foldl (fun w x =>
    let w := devJobStore w ((masterSlot p e).toNat + 4 * x.1) (leBytes 4 x.2.1.toNat)
    if d.nstate = 0 then w else devJobStore w ((stateSlot p e).toNat + 4 * d.nstate * x.1) (wordBytes x.2.2)) w

/-- An internal error before a shard's flip (R400): a rerun, or after the second rerun an abort that is due. One after the
flip reruns the regeneration alone, which writes the same copies again (R409). -/
def shardError (s : State) (k t sh : Nat) : State :=
  let key := 65536 * t + sh
  let n := mget 0 (rimAt s.wafer k).upd.reruns key
  let s := onW s (fun w => postRim (onRim w k (fun r =>
    { r with upd := { r.upd with uncommitted := decide (n < 2), reruns := mput r.upd.reruns key (n + 1), lastFault := 2 }
             ctrs := if n < 2 then bumpAt r.ctrs 0x30308 1 else r.ctrs })) k 0x0307 1 2 0 true)
  if n < 2 then s else onStep s (fun x => { x with due := x.due ||| 0x08 })

/-- A non-finite result (R400): every flip of the step is undone and the step becomes a QUARANTINE. -/
def nonfiniteResult (s : State) (k : Nat) (inj : Bool) : State :=
  let s := undoFlips s
  let s := setVerdict s .quarantine 5 s.train.step.norm []
  onW s (fun w => postRim (onRim w k (fun r => { r with upd := { r.upd with lastFault := 5 } })) k 0x0308 1 5 0 inj)

/-- The flip (R397, R399) of a shard whose `n` results are in its inactive slot, its regeneration and its readiness. -/
def flipShard (s : State) (j : Job) (d : Reduction) (p : Placement) (sh n : Nat) : State :=
  let k := shardRim p
  let r := shardRec s.wafer p d.id sh
  let e := !r.epoch
  let step : W64 := BitVec.ofNat 64 s.train.next
  let w := onRim s.wafer k (fun x =>
    { x with upd := { x.upd with epochs := mput x.upd.epochs (65536 * d.id + sh)
                                   (if e then { r with epoch := e, step1 := step } else { r with epoch := e, step0 := step })
                                 shards := x.upd.shards + 1, uncommitted := false }
             ctrs := bumpAt x.ctrs 0x30300 n })
  let w := regen w j.desc.seed d p (fastMaster w p d.id) (fun i => decide (shardOf p i = sh))
  let done := s.train.step.shards ++ [(d.id, sh)]
  let w := setEntries w p (doneEntries p (shardCount d p) (fun i => done.contains (d.id, i))) s.train.next
  onStep { s with wafer := w } (fun x => { x with shards := done })

/-- Bytes of the gradient's sources that a shard's elements use (R396). -/
def sourceBytes (d : Reduction) (first n : Nat) : Nat :=
  if d.low then 4 * d.rank * ((first + n - 1) / d.cols - first / d.cols + 1 + min d.cols n) else 16 * n

/-- The sources of a shard's gradients read: P̂ and the global Q image, none where one is uncorrectable (R398, R400). -/
def readSources (s : State) (d : Reduction) : Option (List W32 × List W32) × Wafer :=
  if d.low then
    let (ph, w) := loadImage s.wafer d .phat
    let (q, w) := loadImage w d .qglob
    (match ph, q with | some ph, some q => some (ph, q) | _, _ => none, w)
  else
    let (ok, w) := readAreas d.rim s.wafer (globalAreas s d)
    (if ok then some ([], []) else none, w)

/-- True where a master word or a state word of `n` elements of a tensor from `first` on is uncorrectable in a slot (R400). -/
def updateBad (w : Wafer) (d : Reduction) (p : Placement) (slot : Bool) (first n : Nat) : Bool :=
  devBad w (masterSlot p slot) (4 * first) (4 * n) ||
    (d.nstate != 0 && devBad w (stateSlot p slot) (4 * d.nstate * first) (4 * d.nstate * n))

/-- FAST_SHARD_COMMIT (R397, R400). -/
def commitShard (s : State) (t sh : Nat) : State :=
  match s.train.job, redOf s t, placeOf s t with
  | some j, some d, some p =>
    let k := shardRim p
    if d.slow || s.train.step.verdict != .apply || s.train.replay.isSome || s.train.step.shards.contains (t, sh) ||
        decide (shardCount d p ≤ sh) || (d.low && !((tstep s t).phat && (tstep s t).qglob)) || s.wafer.halted || s.wafer.frozen then s
    else
      let r := shardRec s.wafer p t sh
      let first := (shardElems d p sh).headD 0
      let n := (shardElems d p sh).length
      if updateBad s.wafer d p r.epoch first n then
        onW s (fun w => postRim (onRim w k (fun x => { x with upd := { x.upd with lastFault := 4 } })) k 0x0302 2 4 0)
      else
        match readSources s d with
        | (some (ph, q), w) =>
          let s := { s with wafer := carryRims w d.rim k (sourceBytes d first n) }
          let (inj, w) := rimInject s.wafer k 0x0307 0x0308
          let s := { s with wafer := w }
          if inj = some 0x0307 then shardError s k t sh
          else
            let rs := shardResults s j d p sh ph q
            let s := onW s (fun w => storeResults w d p (!r.epoch) rs)
            if inj.isSome || rs.any badResult then nonfiniteResult s k inj.isSome
            else flipShard s j d p sh rs.length
        | (none, w) => sourceError { s with wafer := w } k
  | _, _, _ => s

/-- The next basis of a LOWRANK tensor: ORTH of the global Q into slot 1 − RSEL (R386 event 12). -/
def nextBasis (w : Wafer) (rsel : Bool) (d : Reduction) : Wafer :=
  match loadImage w d .qglob with
  | (some q, w) =>
    let (b, z) := orth d.cols d.rank q
    rimBump (storeImage w d (if rsel then .basis0 else .basis1) b) d.rim 0x30310 z
  | (none, w) => w

/-! ### The slow tier (R402 to R408) -/

def slowAt (s : State) (t : Nat) : SlowTensor := mget .reset s.train.slow t
def onSlow (s : State) (t : Nat) (f : SlowTensor → SlowTensor) : State :=
  onTrain s (fun x => { x with slow := mput x.slow t (f (mget .reset x.slow t)) })

/-- The gradient of a slow-tier tensor as it is retained: P̂ and the global Q image, or every element's G (R402). -/
def slowImage (s : State) (d : Reduction) (ph q : List W32) : List W32 :=
  if d.low then ph ++ q else (List.range d.elems).map (gradient s d [] [])

/-- True where a slow-tier gradient is complete (R386 event 11). -/
def slowReady (s : State) (d : Reduction) : Bool :=
  if d.low then (tstep s d.id).phat && (tstep s d.id).qglob else d.areas.all (globalReady s d.rim)

/-- SLOW_TIER_TRANSFER (R402): the gradient with its λ reaches companion memory on VC5, where it is retained (R408). -/
def slowTransfer (s : State) (t : Nat) : State :=
  match redOf s t with
  | some d =>
    if d.slow && !(tstep s t).slow && s.train.step.barrier && s.train.replay.isNone && slowReady s d && !s.wafer.halted &&
        !s.wafer.frozen then
      (match readSources s d with
        | (some (ph, q), w) =>
          let l := slowImage s d ph q
          let s := { s with wafer := carryComp w d.rim (4 * l.length + 4) }
          onSlow (onTstep s t (fun x => { x with slow := true })) t (fun x =>
            { x with retained := x.retained.filter (fun g => decide (g.1 ≠ s.train.next)) ++ [(s.train.next, lamOf s d, l)] })
        | (none, w) => sourceError { s with wafer := w } d.rim)
    else s
  | none => s

/-- The gradient of an element from a retained image. -/
def slowGradient (d : Reduction) (lam : Int) (l : List W32) (i : Nat) : W32 :=
  if d.low then
    let ph := l.take (d.rows * d.rank)
    let q := l.drop (d.rows * d.rank)
    let ps := (List.range d.rank).map (fun j =>
      fpMul (f32Val (ph.getD (i / d.cols * d.rank + j) 0)) (f32Val (q.getD (i % d.cols * d.rank + j) 0)))
    (f32OfVal (match exactSum ps with | .fin x => .fin (x.shift (-lam)) | v => v)).1
  else l.getD i 0

/-- The slot step of a slow-tier tensor in force. -/
def SlowTensor.slot (x : SlowTensor) : W64 := if x.epoch then x.step1 else x.step0

/-- The oldest retained gradient whose step is committed with APPLY and not yet applied: slots carry `2^64 - 1` at job
open (R428), so a tensor's updates are counted by its retained gradients. -/
def slowNext (s : State) (x : SlowTensor) : Option (Nat × Int × List W32) :=
  x.retained.find? (fun g => decide (g.1 < s.train.next ∧ (x.slot = BitVec.allOnes 64 ∨ x.slot.toNat < g.1)))

/-- The master of a slow-tier tensor from which its copies in HBM were made, with its step: the newest published one, or the
one it began with. -/
def shownMaster (s : State) (d : Reduction) (p : Placement) (i : Nat) : W32 × W64 :=
  let x := slowAt s d.id
  match x.kept with
  | (u, m) :: _ => (m.getD i 0, u)
  | [] => (devWord s.wafer (masterSlot p x.epoch) (4 * i), x.slot)

/-- The oldest update of a slow-tier tensor that is committed and not published. -/
def SlowTensor.unshown (x : SlowTensor) : Option (W64 × List W32) := x.kept[1]?

/-- The step up to which a slow-tier tensor's copies are whole once step `next - 1` is committed (R42, R349): the newest of
the publish window before which no update waits. -/
def slowWhole (s : State) (j : Job) (t : Nat) : Int :=
  ((slowAt s t).retained.map (fun g => (g.1 : Int) - 1)).foldl min ((s.train.next : Int) - 1 - j.desc.staleness)

/-- The masters in force of a tensor, word by word in forward layout. -/
def masterWords (s : State) (d : Reduction) (p : Placement) : List W32 :=
  (List.range d.elems).map (fun i =>
    if d.slow then devWord s.wafer (masterSlot p (slowAt s d.id).epoch) (4 * i) else (fastMaster s.wafer p d.id i).1)

/-- An emission's words: master XOR base, and the base becomes the master (R447). A rim sends the differences of the fast tier to
the companion die on VC7. -/
def fillOne (s : State) (d : Reduction) (p : Placement) (x : GalDue) : GalDue × State :=
  let m := masterWords s d p
  let b := mget [] s.gal.bases d.id
  let diff := m.zipIdx.map (fun (v, i) => v ^^^ b.getD i 0)
  let slot := if d.slow then (slowAt s d.id).slot else (shardRec s.wafer p d.id 0).step
  let s := if d.slow then s else onW s (fun w => carryComp w (shardRim p) (4 * m.length))
  ({ x with words := some diff, slotStep := slot }, { s with gal := { s.gal with bases := mput s.gal.bases d.id m } })

/-- True where the slow tier has made every update of a tensor up to a step (R447). -/
def slowDone (s : State) (t step : Nat) : Bool :=
  let x := slowAt s t
  !x.retained.any (fun g => decide (g.1 ≤ step ∧ (x.slot = BitVec.allOnes 64 ∨ x.slot.toNat < g.1)))

/-- The emissions that have become possible take their words (R447). -/
def fillDues (s : State) : State :=
  let r := s.gal.due.foldl (fun (p : List GalDue × State) x =>
    match x.words, redOf p.2 x.tensor, placeOf p.2 x.tensor with
    | none, some d, some pl =>
      if !d.slow || slowDone p.2 x.tensor x.step then (let (y, s) := fillOne p.2 d pl x; (p.1 ++ [y], s)) else (p.1 ++ [x], p.2)
    | _, _, _ => (p.1 ++ [x], p.2)) ([], s)
  { r.2 with gal := { r.2.gal with due := r.1 } }

/-- SLOW_TIER_COMMIT (R403, R404, R407): the application cores update a tensor for its next committed step. -/
def slowCommit (s : State) (t : Nat) : State :=
  match s.train.job, redOf s t, placeOf s t with
  | some j, some d, some p =>
    let x := slowAt s t
    (match slowNext s x with
      | some (step, lam, l) =>
        if x.dead || s.wafer.halted || s.wafer.frozen || !s.ckpt.capturing.isEmpty then s
        else if updateBad s.wafer d p x.epoch 0 d.elems then
          onW s (fun w => postComp w 0x0434 2 t)
        else
          let norm := mget 0 (rimAt s.wafer 0).upd.norms step
          let rs := ((List.range d.elems).filter (fun i => !isPad d i)).map (fun i =>
            let ms := (List.range d.nstate).map (fun m => devWord s.wafer (stateSlot p x.epoch) (4 * d.nstate * i + 4 * m))
            (i, updateElem s j d step norm (slowGradient d lam l i) (devWord s.wafer (masterSlot p x.epoch) (4 * i)) ms))
          let kept := if x.kept.isEmpty then [(x.slot, masterWords s d p)] else x.kept
          if rs.any badResult then
            onW (onSlow s t (fun x => { x with dead := true })) (fun w => post w ⟨0x0308, 1, false, 5, 0xC0, 0, t, 0⟩)
          else
            let e := !x.epoch
            let st : W64 := BitVec.ofNat 64 step
            let s := onSlow (onW s (fun w => storeResults w d p e rs)) t (fun x =>
              if e then { x with epoch := e, step1 := st } else { x with epoch := e, step0 := st })
            fillDues (onSlow s t (fun x => { x with kept := kept ++ [(st, masterWords s d p)] }))
      | none => s)
  | _, _, _ => s

/-- SLOW_TIER_PUBLISH (R405): the copies of the oldest update that is not published, of step `u`, are written from its master
once step `u + d` is committed, and its readiness entries are set; the gradient is released (R408). A publish waits while
the job is HELD (R438). -/
def slowPublish (s : State) (t : Nat) : State :=
  match s.train.job, redOf s t, placeOf s t with
  | some j, some d, some p =>
    (match (slowAt s t).unshown with
      | some (u, m) =>
        if s.train.state = .held ∨ s.wafer.halted ∨ s.ckpt.capturing ≠ [] ∨ ¬(u.toNat + j.desc.staleness < s.train.next) then s
        else
          let w := regen s.wafer j.desc.seed d p (fun i => (m.getD i 0, u)) (fun _ => true)
          let s := onSlow { s with wafer := w } t (fun x =>
            { x with published := some u.toNat, kept := x.kept.tail
                     retained := x.retained.filter (fun g => decide (g.1 ≠ u.toNat)) })
          let r := slowWhole s j t
          let s := onW s (fun w => (List.range 16).foldl (fun w k => carryComp w k 8) (setReadiness w p r))
          onStep s (fun y => { y with publishs := y.publishs ++ [(t, r.toNat)] })
      | none => s)
  | _, _, _ => s

/-- The readiness of every tensor after the commit point of a step that was not applied: its copies hold every update up to
it (R42, R44, R349); that of the slow tier as its publish window moves on. -/
def raiseReadiness (s : State) (applied : Bool) : State :=
  match s.train.job with
  | none => s
  | some j => j.reds.foldl (fun s d =>
      match placeOf s d.id with
      | some p =>
        if d.slow then
          (if slowWhole s j d.id < 0 then s else onW s (fun w => setReadiness w p (slowWhole s j d.id)))
        else if applied then s
        else onW s (fun w => setReadiness w p ((s.train.next : Int) - 1))
      | none => s) s

/-! ### The drift audit (R410, R411) -/

/-- The master that produced an element's working copy, with its slot's step. -/
def auditMaster (s : State) (d : Reduction) (p : Placement) (i : Nat) : W32 × W64 :=
  if d.slow then shownMaster s d p i else fastMaster s.wafer p d.id i

/-- DRIFT_AUDIT of a tensor after step 63 mod 64: any difference is posted, counted, and the copies regenerated. -/
def driftAudit (s : State) (t : Nat) : State :=
  match s.train.job, redOf s t, placeOf s t, s.train.last with
  | some j, some d, some p, some step =>
    if step % 64 ≠ 63 ∨ s.train.step.begun then s
    else
      let hit (i : Nat) : Bool := decide (i % 1024 = step / 64 % 1024)
      let k := if d.slow then 0 else shardRim p
      let (inj, w) := rimInject s.wafer k 0x0309 0x0309
      let w' := regen w j.desc.seed d p (auditMaster s d p) hit
      let same := (List.range 16).all (fun k => (rimAt w' k).mem == (rimAt w k).mem)
      if inj.isNone && same then { s with wafer := w }
      else
        let w := regen w j.desc.seed d p (auditMaster s d p) (fun _ => true)
        let s := { s with wafer := postRim (rimBump (onRim w k (fun r =>
          { r with upd := { r.upd with lastFault := 6 } })) k 0x30318 1) k 0x0309 1 6 t inj.isSome }
        postEvent s 0x0C (BitVec.ofNat 32 t)
  | _, _, _, _ => s

/-! ### The commands -/

/-- AREA_OPEN (R382, R383, R514): an area of the open job takes its tensor's T, COUNT and EXPECT; in a tree the twin opens with it, after the area's own image, expecting this module and
each child. -/
def execAreaOpen (k : Fin 16) (a : Fin 256) (base count : Nat) (t : Int) (expect : Nat) (s : State) : Res :=
  let t := areaScale s k a t
  let (count, expect) := areaShape s k a count expect
  onWafer s (fun w =>
    let w := openArea w k a base count t expect
    if inTree s && decide (a.val < 128) then
      openArea w k (a + 128) ((base + 16 * count + count / 4 + 63) / 64 * 64) count t (1 + s.tree.cfg.children.length)
    else w)

/-- ORTH_P. -/
def execOrthP (t : Nat) (s : State) : Res := .next (settle (orthP s t))

/-- GLOBAL_Q_IMAGE. -/
def execGlobalQImage (t : Nat) (s : State) : Res := .next (settle (globalQ s t))

/-- TIE_SUM_COMPLETE. -/
def execTieSumComplete (k : Fin 16) (a : Fin 256) (owner : TileId) (region : W64) (s : State) : Res :=
  onWafer s (fun w => tieSum s.train.step.barrier w k a (tkey owner) region)

/-- NORM_SQUARE_SEND. -/
def execNormSquareSend (t : Nat) (s : State) : Res := .next (settle (sendNorm s t))

/-- NORM_VERDICT. -/
def execNormVerdict (s : State) : Res := .next (settle (normVerdict s))

/-- FAST_SHARD_COMMIT. -/
def execFastShardCommit (t sh : Nat) (s : State) : Res := .next (settle (commitShard s t sh))

/-- SLOW_TIER_TRANSFER. -/
def execSlowTierTransfer (t : Nat) (s : State) : Res := .next (settle (slowTransfer s t))

/-- SLOW_TIER_COMMIT. -/
def execSlowTierCommit (t : Nat) (s : State) : Res := .next (settle (slowCommit s t))

/-- SLOW_TIER_PUBLISH. -/
def execSlowTierPublish (t : Nat) (s : State) : Res := .next (settle (slowPublish s t))

/-- DRIFT_AUDIT. -/
def execDriftAudit (t : Nat) (s : State) : Res := .next (settle (driftAudit s t))

end Sys2Proof.Machine
end

