-- ==== Sys2Proof/Machine/Switch.lean ====
section
/-!
DEFINITION. The job context switch (08 R322, R323, with 03 R126, 05 R206, 06 R249, 07 R287, 09 R369), the debug level and
the debug wipe (16 R613, R614, R621, R628 to R630), and JOB_CLOSE's beginning (12 R477).
-/

namespace Sys2Proof.Machine

open Sys2Proof

/-! ### What the switch clears -/

/-- An injection register disarmed (R602). -/
def FiReg.disarm (r : FiReg) : FiReg := { r with armed := false }

/-- A tile after the switch: every register, memory and count of ch. 03, 05, 06, 07 and 08 at reset; the Simmer record,
the reliability counters and the array's Simmer stay (R322, R606). -/
def switchTile (x : Tile) : Tile :=
  { Tile.reset with
    arr := { Arr.reset with simmer := x.arr.simmer || x.cad.phase != .stopped, recClass := x.arr.recClass, recWin := x.arr.recWin }
    bds := { Bds.reset with refreshing := x.bds.refreshing }
    ctrs := x.ctrs.filter (fun p => decide (0x24100 ≤ p.1))
    fi := x.fi.disarm }

/-- A field's units after the switch: SIMMER_LEVEL and RELEASE_PENDING stay (R322). -/
def switchField (x : Field) : Field :=
  { Field.reset with
    level := x.level
    pending := x.pending
    bds := { BdsCtl.reset with hot := x.bds.hot }
    ctrs := x.ctrs.filter (fun p => decide (p.1 < 0xC000))
    fi := x.fi.disarm }

/-- Every entry of a numbered collection changed. -/
def mapAll {α : Type} (m : SMap α) (f : α → α) : SMap α := m.map (fun p => (p.1, f p.2))

/-- The wafer after the switch: the network is empty, its multicast tables and every group mask are clear, and the route
set and NET_BOUND stay (R287, R729). -/
def switchWafer (w : Wafer) : Wafer :=
  { w with
    tiles := mapAll w.tiles switchTile
    fields := mapAll w.fields switchField
    rims := mapAll w.rims (fun r => { switchRim r with fi := r.fi.disarm })
    net := { w.net with inflight := [], mcast := [], hubTable := [], rimTable := [] }
    lines := []
    groups := []
    comp := { zeroComp w.comp with windows := [] }
    halted := false
    dbgHalt := false
    seed := 0
    fiMod := w.fiMod.disarm }

/-- A packet in flight as the switch ends it (R206, R287): what a stopped core has stored reaches its destination, and a tile's
other request completes with status 0x3. Answers, streams and sync messages change nothing that the wipe leaves. -/
def endPacket (w : Wafer) (p : Packet) : Wafer :=
  match p.src, p.owner, p.kind with
  | .tile _, .core _, .nwr a bs => (serveWrite w p.dst a bs).2
  | .tile t, _, .rdReq _ _ => remoteFault w t 3 { p with owner := .none }
  | .tile t, _, .wr _ _ => remoteFault w t 3 { p with owner := .none }
  | .tile t, _, .nrd _ => remoteFault w t 3 { p with owner := .none }
  | .tile t, _, .nwr _ _ => remoteFault w t 3 { p with owner := .none }
  | _, _, _ => w

/-- The network quiesced. -/
def quiesce (w : Wafer) : Wafer := w.net.inflight.foldl endPacket w

/-- Both job keys destroyed (R621). -/
def destroyKeys (s : State) : State := { s with ckpt := { s.ckpt with key := none }, gal := { s.gal with key := none } }

/-- What is the job's outside the wafer cleared: its training state, checkpoints, landing records, replay slot, Gallery
stream, keys and tree exchange. CAPTURE_SEQ, the ports of the Gallery and the tree's place are kept. -/
def clearJob (s : State) : State :=
  destroyKeys { s with
    train := .reset
    ckpt := { Ckpt.reset with captureSeq := s.ckpt.captureSeq }
    gal := { Gallery.reset with net := s.gal.net, up0 := s.gal.up0, up1 := s.gal.up1 }
    tree := { s.tree with step := .reset, held := [] } }

/-! ### JOB_CLOSE and the switch -/

/-- The commands of the open job: every family but device, power, debug, attestation and injection, save the commands that
need no job open. -/
def ofJob (p : Prog) : Bool :=
  [2, 3, 4, 5, 6, 7, 9].contains (p.opcode / 256) && !([0x0201, 0x0203, 0x0404].contains p.opcode)

/-- The switch is accepted (R323, R477): the closing mark goes to the meter and every command of the job ends; the units
stop. -/
def acceptSwitch (s : State) : State :=
  let s := queueMark s 2 (jobIdOf s)
  let s := completeAll s ofJob 0x0B
  let s := onW s (fun w => { w with halted := true })
  onTrain s (fun t => { t with state := .closing, run := none, replay := none, step := .reset })

/-- True while the switch itself runs: the job is closing and no step of it does. -/
def switching (s : State) : Bool :=
  decide (s.train.state = .closing) && !s.wafer.frozen && s.train.run.isNone && s.train.replay.isNone && !s.train.step.begun

/-- The switch's work, at once: the network comes to rest before the wipe (R287, R323). -/
def runSwitch (s : State) : State := clearJob (onW s (fun w => switchWafer (quiesce w)))

/-- SWITCH_COMPLETE (R323, R723): once the config access accepted before it is over, JOB_CLOSE completes with the last step and
the held config accesses begin. -/
def finishSwitch (s : State) : State :=
  if switching s && s.host.cfg.cur.isNone then
    let last := lastStepWord s
    let s := runSwitch s
    releaseAccess (completeAll s (fun p => match p.state with | .jobClose _ => true | _ => false) 0 last)
  else s

/-- An open job stopped and switched away at once, as JOB_CLOSE in MODE 1 does (R629, R680). -/
def closeNow (s : State) : State :=
  if jobOpen s then
    let s := hurryAccess s
    let s := if switching s then s else acceptSwitch s
    runSwitch (completeAll s (fun p => match p.state with | .jobClose _ => true | _ => false) 0x0B)
  else s

/-! ### The debug level and the wipe -/

/-- Every block of every stack and of companion memory outside the firmware's region set to ZERO (R624, R629). -/
def zeroEverything (w : Wafer) : Wafer := { w with rims := mapAll w.rims (fun r => zeroBlocks r true), comp := zeroComp w.comp }

/-- Every injection point disarmed (R602). -/
def disarmAll (w : Wafer) : Wafer :=
  { w with tiles := mapAll w.tiles (fun x => { x with fi := x.fi.disarm })
           fields := mapAll w.fields (fun x => { x with fi := x.fi.disarm })
           rims := mapAll w.rims (fun x => { x with fi := x.fi.disarm })
           fiMod := w.fiMod.disarm }

/-- True where a field of the wafer is powered: outside Standby and Retention. -/
def waferPowered (s : State) : Bool := decide (s.pwr.phase = .active)

/-- A debug wipe (R629): the close of an open job has its own switch. -/
def debugWipe (s : State) : State :=
  let s := if jobOpen s then closeNow s else if waferPowered s then runSwitch (queueMark s 2 0) else s
  let s := onW s (fun w => disarmAll (zeroEverything w))
  destroyKeys { s with ckpt := { s.ckpt with replayRec := none } }

/-- A level record extended into MR4 (R613). -/
def levelRecord (s : State) (slot : Nat) : State :=
  extendMr s 4 (leBytes 1 (levelCode s.sec.level) ++ leBytes 1 slot ++ leBytes 6 0 ++ leBytes 8 s.sec.unlockSeq.toNat)

/-- The level changed, with its record; a level that stays leaves none. -/
def setLevel (s : State) (l : Level) (slot : Nat) : State :=
  if s.sec.level = l then s else levelRecord { s with sec := { s.sec with level := l } } slot

/-- The level becomes Closed; leaving Invasive or Factory runs the wipe first (R628, R630). -/
def dropLevel (s : State) : State :=
  let s := if levelCode s.sec.level ≥ 2 then debugWipe s else s
  setLevel s .closed 0xFF

end Sys2Proof.Machine
end

