-- ==== Sys2Proof/Machine/Repair.lean ====
section
/-!
DEFINITION. The repair map and what follows a field's loss or return (15 R593 to R598, 14 R545, R546, R561, R562, R568 to
R571, 07 R281, R286): reassignment, the forwarded clock and the route set.
-/

namespace Sys2Proof.Machine

open Sys2Proof

/-! ### The forwarded clock (R568, R569) -/

/-- The neighbours of a field with their CLK_SEL codes, in the tie order N, W, E, S. -/
def clockNear (f : Nat) : List (Nat × Nat) :=
  let p := fieldPos f
  let at? (code : Nat) (r c : Nat) (ok : Bool) : List (Nat × Nat) :=
    if ok then (match fieldNo r c with | some g => [(code, g)] | none => []) else []
  at? 0 (p.1 - 1) p.2 (decide (0 < p.1)) ++ at? 3 p.1 (p.2 - 1) (decide (0 < p.2)) ++ at? 1 p.1 (p.2 + 1) true ++
    at? 2 (p.1 + 1) p.2 true

/-- The entry fields of a PLL. -/
def entryFields (pll : Nat) : List Nat := if pll = 0 then [1, 2] else [81, 82]

/-- Forwarding hops of every powered field from the entry fields, by rounds. -/
def clockRounds (up : Nat → Bool) : Nat → Nat → List Nat → List (Nat × Nat) → List (Nat × Nat)
  | 0, _, _, done => done
  | fuel + 1, d, front, done =>
    let next := ((front.map (fun f => (clockNear f).map Prod.snd)).flatten.eraseDups).filter (fun g =>
      up g && !done.any (fun p => p.1 == g))
    clockRounds up fuel (d + 1) next (done ++ next.map (fun g => (g, d + 1)))

/-- The hops of every field the clock reaches. -/
def clockHops (w : Wafer) (pll : Nat) : List (Nat × Nat) :=
  let es := (entryFields pll).filter (fieldUp w)
  clockRounds (fieldUp w) 84 0 es (es.map (fun f => (f, 0)))

/-- The hops of one field, none where the clock does not reach it. -/
def hopsOf (hs : List (Nat × Nat)) (f : Nat) : Option Nat := (hs.find? (fun p => p.1 == f)).map Prod.snd

/-- The first of some neighbours that has the fewest hops, as its code. -/
def bestNear (hs : List (Nat × Nat)) (l : List (Nat × Nat)) : Nat :=
  let best := l.foldl (fun (b : Option (Nat × Nat)) x =>
    match hopsOf hs x.2, b with
    | some d, some (d', _) => if d < d' then some (d, x.1) else b
    | some d, none => some (d, x.1)
    | none, _ => b) none
  (best.map Prod.snd).getD 5

/-- CLK_SEL of a field (R569, R573). -/
def clockSel (w : Wafer) (pll : Nat) (hs : List (Nat × Nat)) (f : Nat) : Nat :=
  if (hopsOf hs f).isNone then 5
  else if (entryFields pll).contains f && fieldUp w f then 4
  else bestNear hs (clockNear f)

/-- The neighbour at a CLK_SEL code. -/
def nearAt (f code : Nat) : Option Nat := ((clockNear f).find? (fun x => x.1 == code)).map Prod.snd

/-- The backup input of a field: the next fewest hops, and not a field that takes its clock from this one. -/
def clockBackup (w : Wafer) (pll : Nat) (hs : List (Nat × Nat)) (f : Nat) : Nat :=
  let sel := clockSel w pll hs f
  bestNear hs ((clockNear f).filter (fun x =>
    x.1 != sel && nearAt x.2 (clockSel w pll hs x.2) != some f))

/-- The PLL that can clock the wafer, its own first (R568): one that is locked and has a powered entry field. -/
def pickPll (s : State) : Option Nat :=
  let ok (p : Nat) : Bool := (if p = 0 then s.pwr.pll0 else s.pwr.pll8) && (entryFields p).any (fieldUp s.wafer)
  if ok s.pwr.pllUse then some s.pwr.pllUse else if ok (8 - s.pwr.pllUse) then some (8 - s.pwr.pllUse) else none

/-! ### Reassignment (R596, R598) -/

/-- The lowest usable tile of a field that no position holds. -/
def spareIn (w : Wafer) (used : List Nat) (f : Nat) : Option Nat :=
  (fieldTiles f).find? (fun t => usable w t && !used.contains t)

/-- The tile a position of field `f` takes: from its own field, else from the nearest field that has one. -/
def spareFor (w : Wafer) (used : List Nat) (f : Nat) : Option Nat :=
  match spareIn w used f with
  | some t => some t
  | none =>
    let best := (List.range 84).foldl (fun (b : Option (Nat × Nat)) g =>
      match spareIn w used g, b with
      | some t, some (h, _) => if hops f g < h then some (hops f g, t) else b
      | some t, none => some (hops f g, t)
      | none, _ => b) none
    best.map Prod.snd

/-- Rows presented (R598). -/
def rowsFor (w : Wafer) : Nat := let u := (liveTiles w).length; if 5120 ≤ u then 64 else u / 80

/-- The assignment after R596 and R598: positions that keep a usable tile stay, the others take one in ascending order of
`y`, then `x`. A position without a tile looks from the field the manufacture map gave it (log 47). -/
def reassign (w : Wafer) : SMap (Option Nat) :=
  let rows := rowsFor w
  let keep : SMap (Option Nat) := w.repair.map.filter (fun p =>
    decide (p.1 / 80 < rows) && (match p.2 with | some t => usable w t | none => false))
  let need := (List.range (80 * rows)).filter (fun p => (mget none keep p).isNone)
  let r := need.foldl (fun (a : SMap (Option Nat) × List Nat) p =>
    let f := match mget none w.repair.map p with | some t => t / 64 | none => Config.factoryMap p / 64
    match spareFor w a.2 f with
    | some t => (mput a.1 p (some t), t :: a.2)
    | none => a) (keep, keep.filterMap Prod.snd)
  r.1

/-- The repair map as bytes, to be hashed: the spec gives the map no layout. -/
def mapBytes (r : Repair) : List Byte :=
  Config.layout 2 (leBytes 4 r.id.toNat ++ leBytes 1 r.rows ++
    (r.map.map (fun p => leBytes 2 p.1 ++ leBytes 2 (p.2.getD 0xFFFF))).flatten ++
    (r.retired.map (leBytes 2)).flatten ++ (r.fields.map (fun p => leBytes 1 p.1)).flatten ++ (r.rims.map (leBytes 1)).flatten)

/-- A new map in force (R28, R596): its ID rises by one, it is measured, and an open job is stopped where the mapping has
become reduced (R598). `listed` says that a list of the map has changed. -/
def remap (s : State) (listed : Bool) : State :=
  let w := s.wafer
  let m := reassign w
  let rows := rowsFor w
  if m = w.repair.map ∧ rows = w.repair.rows ∧ !listed then s
  else
    let r := { w.repair with map := m, rows := rows, id := w.repair.id + 1 }
    let s := onW s (fun w => { w with repair := r })
    let s := extendMr s 2 (beBytes 32 (Config.sm3 (mapBytes r)).toNat)
    if rows < w.repair.rows ∧ rows < 64 then stopJob s else s

/-! ### Fields that go dark and return -/

/-- A tile and a field's units without power: the RWS counts of R608 alone stay (R10, R606). -/
def lostTile (x : Tile) : Tile := { Tile.reset with ctrs := x.ctrs.filter (fun p => decide (0x24100 ≤ p.1)) }
def lostField (x : Field) : Field :=
  { Field.reset with ctrs := x.ctrs.filter (fun p => decide (0x9100 ≤ p.1 ∧ p.1 ≤ 0x9108)), level := x.level }

/-- The tiles of a field without their contents. -/
def loseTiles (m : SMap Tile) (f : Nat) : SMap Tile := m.map (fun p => if p.1 / 64 = f then (p.1, lostTile p.2) else p)

/-- A field without power: its tiles and units lose their contents, packets to and from it are gone, its power unit shows
`st`. -/
def darken (s : State) (f : Nat) (st : FieldPower) : State :=
  let s := onW s (fun w =>
    { w with tiles := loseTiles w.tiles f
             fields := mput w.fields f (lostField (fieldAt w f))
             off := w.off ||| (1#84 <<< f)
             net := { w.net with inflight := w.net.inflight.filter (fun p =>
               decide (p.src ≠ .unit f ∧ p.dst ≠ .unit f ∧ p.src ≠ .fru f) &&
                 (match p.src with | .tile t => t / 64 != f | _ => true)) } })
  let s := onPort s f (fun p => { p with state := .off })
  onFp s f (fun q => { q with state := st, clkSel := 5, backup := 5, duty := 16, hot := 0 })

/-- A field recorded in the failed-field list with its cause code (R546, R573). -/
def recordField (s : State) (f cause : Nat) : State :=
  if s.wafer.repair.fields.any (fun p => p.1 == f) then s
  else onW s (fun w => { w with repair := { w.repair with fields := w.repair.fields ++ [(f, cause)] } })

/-- The clock tree for the fields that are powered (R569, R571). Fields the clock does not reach are darkened first; they are
also those that no route joins to a rim (R286). -/
def retree (s : State) : State :=
  match pickPll s with
  | none => s
  | some pll =>
    let s := onPwr s (fun p => { p with pllUse := pll })
    let hs := clockHops s.wafer pll
    let lost := (List.range 84).filter (fun f => fieldUp s.wafer f && (hopsOf hs f).isNone)
    let s := lost.foldl (fun s f => darken s f .dark) s
    let w := s.wafer
    (List.range 84).foldl (fun s f =>
      if fieldUp w f then onFp s f (fun q => { q with clkSel := clockSel w pll hs f, backup := clockBackup w pll hs f }) else s) s

/-- The route set, the bounds and the multicast tables for the fields that are powered (R276, R281, R286, R291). -/
def reroute (w : Wafer) : Wafer :=
  let dark : BitVec 84 := (List.range 84).foldl (fun d f => if fieldUp w f then d else d ||| (1#84 <<< f)) 0
  loadTables { w with net := { w.net with dark := dark, routeSet := routeSetOf dark, bound := boundOf dark } }

/-- The clock tree and the route set for the fields that are powered. -/
def refit (s : State) : State := if (pickPll s).isNone then s else onW (retree s) reroute

/-- What follows a loss or a return between steps: the tree, the routes and the map. A wafer that no PLL can clock stops
its job and is held in Retention, which the caller enters (R568). -/
def settleMap (s : State) (listed : Bool) : State :=
  remap (refit { s with rel := { s.rel with mapDue := none } }) (listed || s.rel.mapDue == some true)

/-- A tile retired (R594, R595). -/
def retireTile (s : State) (t : Nat) : State :=
  if s.wafer.repair.retired.contains t then s
  else onW s (fun w => { w with repair := { w.repair with retired := insertUp t w.repair.retired } })

/-- The tiles whose second uncorrectable error retires them (R595). -/
def doomedTiles (s : State) : List Nat :=
  (s.rel.ues.filter (fun p => decide (2 ≤ p.2) && !s.wafer.repair.retired.contains p.1)).map Prod.fst

/-- The fields that a failing link takes out at this boundary (R590). -/
def failDue (s : State) : State :=
  s.rel.failing.foldl (fun s f => if fieldUp s.wafer f then recordField (darken s f .failed) f 6 else s)
    { s with rel := { s.rel with failing := [] } }

/-- The retirements that are due, as they take effect between an abort and the re-execution. -/
def retireDue (s : State) : State × Bool :=
  let l := doomedTiles s
  (failDue (l.foldl retireTile s), !l.isEmpty || !s.rel.failing.isEmpty)

/-- A powered field comes back (R562): its memories are zero, it holds the level of the others, and it is no longer
dark. -/
def restoreField (s : State) (f : Nat) : State :=
  let level := (fieldAt s.wafer 0).level
  let s := onW s (fun w =>
    { w with tiles := loseTiles w.tiles f
             fields := mput w.fields f { lostField (fieldAt w f) with level := level }
             off := w.off &&& ~~~(1#84 <<< f) })
  onFp s f (fun q => { q with state := .on, injected := false })

/-! ### Retention (R535, R632, R681) -/

/-- FLD_PWR_STATUS.STATE of a recorded field, by its cause. -/
def causePower (c : Nat) : FieldPower := if c = 4 then .short else if c = 5 then .sense else .failed

/-- A rim without power: its stack and its epoch table keep their contents, its registers are lost but for the RWS counts of
R608. -/
def rimOff (r : Rim) : Rim :=
  { Rim.reset with
    mem := r.mem, blocks := r.blocks, failed := r.failed, excluded := r.excluded, unc := r.unc, cor := r.cor
    repairs := r.repairs, upd := { Upd.reset with epochs := r.upd.epochs, startEpochs := r.upd.startEpochs }
    ctrs := r.ctrs.filter (fun p => decide (0x32100 ≤ p.1)) }

/-- The wafer without power: R632's loss of its state, and R10's RWS counts kept. -/
def waferOff (w : Wafer) : Wafer :=
  { Wafer.reset with
    tiles := mapAll w.tiles lostTile, fields := mapAll w.fields (fun x => { lostField x with level := 0 }), rims := mapAll w.rims rimOff, comp := w.comp, repair := w.repair, halted := w.halted, fiMod := w.fiMod }

/-- The boot stage shown in the mailbox. -/
def setStage (s : State) (c : Nat) : State := onHost s (fun h => { h with mb := { h.mb with stage := BitVec.ofNat 8 c } })

/-- The power units of fields that have been switched off. -/
def fieldsOff (s : State) : State :=
  (List.range 84).foldl (fun s f =>
    onFp s f (fun q =>
      let st := match s.wafer.repair.fields.find? (fun p => p.1 == f) with
        | some p => causePower p.2
        | none => .off
      { q with state := st, clkSel := 5, backup := 5, duty := 16, hot := 0 })) s

/-- Every port and laser off. -/
def portsOff (s : State) : State :=
  onTree s (fun t => { t with ports := mapAll t.ports (fun p => { Port.reset with ctrs := p.ctrs, moduleId := p.moduleId }), held := [] })

/-- The domains of the wafer switched off. -/
def dropWafer (s : State) : State :=
  fieldsOff (portsOff (onPwr (onW s waferOff) (fun p =>
    { p with phase := .retention, simmerHold := false, ramp := false, linked := false, throttleStep := [], hbmHot := [], pllUse := 0, pll0 := false,
             pll8 := false })))

/-- Entry to Retention (R632, R681): Invasive and Factory leave by a wipe, and the stage code is 0x11. -/
def enterRetention (s : State) : State :=
  let s := if levelCode s.sec.level ≥ 2 then dropLevel s else s
  setStage (dropWafer s) 0x11

/-- A stop that ends in Retention (R543, R556, R563, R568). -/
def stopToRetention (s : State) : State :=
  if s.pwr.phase = .active then enterRetention (if jobOpen s ∧ s.train.state ≠ .stopped then stopNow s else s) else s

/-- The map and the route set settled after a loss: between steps and with every packet gone (R28, R281), else they stay due. A
wafer that no PLL can clock is held in Retention (R568). -/
def settleLoss (s : State) (listed : Bool) : State :=
  if (pickPll s).isNone then stopToRetention s
  else if s.train.step.begun || !s.wafer.net.inflight.isEmpty then
    { s with rel := { s.rel with mapDue := some (listed || s.rel.mapDue == some true) } }
  else settleMap s listed

/-- What is due of it, where it may be settled now. -/
def settleDue (s : State) : State := match s.rel.mapDue with | some l => settleLoss s l | none => s

/-! ### The commands -/

/-- SWITCH_COMPLETE. -/
def execSwitchComplete (s : State) : Res := noting s (fun s => settle (settleDue (finishSwitch s)))

end Sys2Proof.Machine
end

