-- ==== Sys2Proof/Machine/Train.lean ====
section
/-!
DEFINITION. The training loop (01 R34 to R45, 11 R415 to R438, 12 R480 to R482, 13 R519 to R523): the beginning of a
step, the backward barrier, the abort, the landing record and the commit point.
-/

namespace Sys2Proof.Machine

open Sys2Proof

/-! ### The scale table and the step's registers (R375, R424, R346, R347) -/

/-- `2^e` in FP32. -/
def f32Pow2 (e : Int) : W32 := (f32OfVal (.fin ⟨1, e⟩)).1

/-- λ of a scale group. -/
def groupLam (s : State) (g : Nat) : Int := (mget ⟨s.train.lamG, []⟩ s.train.groups g).lam

/-- An entry of the scale table (R424). -/
def scaleEntry (lam : Int) : List Byte := leBytes 2 (uint 16 lam) ++ leBytes 2 0 ++ leBytes 4 (f32Pow2 lam).toNat

/-- Number of scale groups of the open job. -/
def groupCount (s : State) : Nat := match s.train.job with | some j => j.desc.groups | none => 0

/-- The scale table (R424). -/
def scaleTable (s : State) : List Byte := ((List.range (groupCount s)).map (fun g => scaleEntry (groupLam s g))).flatten

/-- The scale table written in HBM. -/
def writeScales (s : State) : State :=
  match s.train.job with
  | some j => onW s (fun w => devJobStore w j.desc.scaleTable.toNat (scaleTable s))
  | none => s

/-- F255 of every tile set to RSEL (R375). -/
def writeRsel (s : State) : State :=
  onW s (fun w => (liveTiles w).foldl (fun w t => setFlag w t 255 s.train.rsel) w)

/-- RIM_STEP written at every rim. -/
def writeRims (s : State) (n : Nat) : State :=
  onW s (fun w => (List.range 16).foldl (fun w k =>
    if (rimAt w k).failed then w else writeRimStep w k (BitVec.ofNat 64 n)) w)

/-- A hash as bytes (R611). -/
def sm3Bytes (l : List Byte) : List Byte := beBytes 32 (Config.sm3 l).toNat

/-! ### The master epoch state (R431) -/

/-- The trainable tensors in ascending TENSOR_ID order. -/
def tensorsUp (j : Job) : List Reduction :=
  ((j.reds.map (fun d => d.id)).foldr insertUp []).filterMap (fun t => j.reds.find? (fun d => d.id == t))

/-- The published step of a slow-tier tensor at the start of step `n`: the newest applied step that step `n` reads (R42,
R405), whether its copies are written yet or not (log 51). -/
def publishedAt (s : State) (j : Job) (t n : Nat) : W64 :=
  let x := slowAt s t
  let l := (x.published.toList ++ x.retained.map (fun g => g.1)).filter (fun u => decide (u + j.desc.staleness + 1 ≤ n))
  match l.foldl (fun (b : Option Nat) u => match b with | some v => some (max u v) | none => some u) none with
  | some u => BitVec.ofNat 64 u
  | none => BitVec.allOnes 64

/-- The master epoch state at the start of step `n`, as bytes; `flipped` gives the record of a shard. -/
def epochBytes (s : State) (n : Nat) (flipped : ShardRec → ShardRec) : List Byte :=
  match s.train.job with
  | none => []
  | some j => Config.layout 9 (((tensorsUp j).map (fun d =>
      if d.slow then leBytes 8 (publishedAt s j d.id n).toNat
      else match placeOf s d.id with
        | some p => ((List.range (shardCount d p)).map (fun sh =>
            let r := flipped (shardRec s.wafer p d.id sh)
            leBytes 1 (b2n r.epoch) ++ leBytes 8 r.step.toNat)).flatten
        | none => [])).flatten)

/-- A shard's record after the flip of step `n`. -/
def flipRec (n : Nat) (r : ShardRec) : ShardRec :=
  if r.epoch then { r with epoch := false, step0 := BitVec.ofNat 64 n } else { r with epoch := true, step1 := BitVec.ofNat 64 n }

/-! ### STEP_BEGIN and BATCH_WAIT_TIMEOUT (R44, R482) -/

/-- The batch staged for a step. -/
def batchOf (s : State) (n : Nat) : Option Batch := s.train.batches.find? (fun b => b.step == n)

/-- True where steps of the job are asked for. -/
def stepping (s : State) : Bool := s.train.run.isSome || s.train.replay.isSome

/-- The bundles that DEV_TREE_CONFIG named. -/
def namedBundles (s : State) : List Nat := s.tree.cfg.parent.toList ++ s.tree.cfg.children

/-- True where every bundle of the tree is up (R506). -/
def treeUp (s : State) : Bool := (namedBundles s).all (fun b => !(upPorts s b).isEmpty)

/-- True while GAL_POLICY 1 holds the next step (R450): an emission of an earlier step has not been sent. -/
def galHold (s : State) : Bool :=
  match s.train.job with
  | some j => decide (j.desc.galPolicy = 1) && s.gal.due.any (fun x => x.words.isSome && decide (x.step < currentStep s))
  | none => false

/-- Step `s + 2` waits for the capture of step `s` (R440). -/
def captureHold (s : State) : Bool := s.ckpt.capturing.any (fun c => decide (c.step + 2 ≤ currentStep s))

/-- True where the next step may begin. A job that closes begins no step, but re-executes the one it is in (R477). -/
def mayBegin (s : State) : Bool :=
  stepping s && !s.train.step.begun && !s.wafer.frozen && !s.wafer.halted && decide (s.pwr.phase = .active) &&
    (batchOf s (currentStep s)).isSome && !captureHold s && !galHold s && (!inTree s || treeUp s) && s.rel.mapDue.isNone &&
    (decide (s.train.state ≠ .closing) || decide (s.train.step.attempts ≠ 0))

/-- The step-start state that the landing record carries, and the cadence tables with their IDs (R37). -/
def startState (s : State) : StartState :=
  { epoch := Config.sm3 (epochBytes s (currentStep s) id), rsel := s.train.rsel, lamG := s.train.lamG, clean := s.train.clean
    skips := s.train.skips, fallback := s.train.fallback, groups := s.train.groups, hist := s.train.hist
    cads := s.wafer.tiles.map (fun p => (p.1, p.2.cad)) }

/-- True where the rims' schedules are started anew: the step follows no verdict of the same STEP_RUN (R347), or it is
re-executed (R346). -/
def freshStep (s : State) : Bool :=
  s.train.replay.isSome || decide (s.train.step.attempts ≠ 0) || (match s.train.run with | some r => r.fresh | none => false)

/-- A step begins or begins again: scale table, F255, RIM_STEP, and the step-start state (R37). -/
def openStep (s : State) : State :=
  let n := currentStep s
  let fresh := freshStep s
  let st := startState s
  let s := writeRsel (writeScales s)
  let s := if fresh then writeRims s n else s
  let s := onW s (fun w =>
    { w with ran := []
             rims := mapAll w.rims (fun r =>
               { r with readyAt0 := r.ready
                        upd := { r.upd with startEpochs := r.upd.epochs, shards := 0, verdict := 0, cause := 0, norm := 0
                                            reruns := [], uncommitted := false } }) })
  let un := if s.train.step.attempts ≠ 0 then s.train.step.unmet else match s.train.job with | some j => j.unmetered | none => false
  onTrain s (fun t =>
    { t with start := some st
             run := t.run.map (fun r => { r with fresh := false })
             step := { StepState.reset with begun := true, unmet := un, attempts := t.step.attempts, aborts := t.step.aborts } })

/-- STEP_BEGIN: what is due of the map and the route set comes first (R28, R281). -/
def beginStep (s : State) : State := let s := settleDue s; if mayBegin s then openStep s else s

/-- BATCH_WAIT_TIMEOUT (R482): event 0x06, once. -/
def batchWait (s : State) : State :=
  if stepping s && !s.train.step.begun && !s.train.step.waiting && (batchOf s (currentStep s)).isNone && !s.wafer.halted then
    postEvent (onStep s (fun x => { x with waiting := true })) 0x06
  else s

/-! ### The backward barrier and the amax table (R35, R421, R519, R520) -/

/-- True where a bank holds a Bw slot from slot `j` on (R112). -/
def bwFrom (c : Cad) (bank : Bool) (j : Nat) : Bool :=
  (List.range (cadLen c bank)).any (fun i => decide (j ≤ i) && (slotOf (slotBits c bank i)).kind == 3)

/-- True where a table that runs, or one armed to follow it, has Bw slots that have not issued (R35, R124). -/
def bwAhead (x : Tile) : Bool :=
  let c := x.cad
  let p := x.arr.pos
  c.run && decide (x.arr.phase ≠ .tableEnd) &&
      (bwFrom c p.bank p.slot || (decide (p.iter + 1 < cadIters c p.bank) && bwFrom c p.bank 0)) ||
    (c.run && c.arm && bwFrom c (!c.active) 0)

/-- True where a tile still has a Bw slot to issue, or an output tile in progress or in its drain buffer. -/
def draining (x : Tile) : Bool := bwAhead x || x.arr.tile.isSome || !x.arr.closing.isEmpty || x.arr.drain.isSome

/-- A value that a maximum over magnitudes takes: non-finite if either is, else the larger (R421, R519). -/
def maxAmax (a b : W32) : W32 := if !f32Finite a then a else if !f32Finite b then b else if a.toNat < b.toNat then b else a

/-- Fresh amax values for every group: what the compiled code has written into the amax table, whose place the spec does
not give (log 52). -/
def drawAmax : Nat → Nat → State → SMap W32 × State
  | 0, _, s => ([], s)
  | n + 1, g, s =>
    let (k, s) := drawFree s
    let (l, s) := drawAmax n (g + 1) s
    ((g, (Config.freeWord k).setWidth 32 &&& 0x7FFFFFFF) :: l, s)

/-- The module's amax table with those of its children. -/
def joinedAmax (s : State) : List W32 :=
  (List.range (groupCount s)).map (fun g =>
    (childBundles s).foldl (fun a b => maxAmax a (mget 0 (mget [] s.tree.step.amaxFrom b) g)) (mget 0 s.train.step.amax g))

/-- A table sent in packets of 16 values in group order. -/
def sendAmax (s : State) (b : Nat) (l : List W32) (final : Bool) : State :=
  (List.range ((l.length + 15) / 16)).foldl (fun s i => linkSend s b (.amax (16 * i) ((l.drop (16 * i)).take 16) final)) s

/-- The amax exchange where it can go on (R519, R520): a worker's joined table goes up, the manager's goes down. -/
def passAmax (s : State) : State :=
  let full := (childBundles s).all (fun b => decide ((mget [] s.tree.step.amaxFrom b).length = groupCount s))
  if !inTree s || !s.train.step.barrier || s.tree.step.amaxSent || !full then s
  else
    let l := joinedAmax s
    let s := onTree s (fun t => { t with step := { t.step with amaxSent := true } })
    match parentBundle s with
    | some b => sendAmax s b l false
    | none =>
      (childBundles s).foldl (fun s b => sendAmax s b l true)
        (onTree s (fun t => { t with step := { t.step with amaxFinal := l.zipIdx.map (fun (v, g) => (g, v)) } }))

/-- BACKWARD_BARRIER (R35): every tile has drained its last slot. -/
def backwardBarrier (s : State) : State :=
  if s.train.step.begun && !s.train.step.barrier && !s.wafer.halted && !s.wafer.frozen &&
      !s.wafer.tiles.any (fun p => usable s.wafer p.1 && draining p.2) then
    let (l, s) := drawAmax (groupCount s) 0 s
    passAmax (onStep s (fun x => { x with barrier := true, amax := l }))
  else s

/-! ### The abort (R39, R313, R401, R406, R522, R523, R585, R587, R595, R597) -/

/-- A tile after an abort: its engines have stopped, its flags and counters are clear, and what the firmware loads anew
is whole (R313, R585). -/
def quietTile (x : Tile) : Tile :=
  { x with
    cad := { x.cad with run := false, arm := false, phase := .stopped, fault := 0 }
    arr := { Arr.reset with simmer := x.arr.simmer || x.cad.phase != .stopped, recClass := x.arr.recClass, recWin := x.arr.recWin }
    vc := { x.vc with run := false, phase := .stopped, fault := 0, loops := [], wakeDue := false, watchOn := false, waits := [] }
    join := .reset
    dma0 := { x.dma0 with posted := [], queue := [], fault := 0 }
    dma1 := { x.dma1 with posted := [], queue := [], fault := 0 }
    sync := { x.sync with flags := 0, ctrs := [] }
    cfgBad := [] }

/-- A field's units after an abort: no watch, no arrival, an empty reduction unit, and no descriptor to fence. -/
def quietField (x : Field) : Field :=
  { x with watches := [], arrived := [], fru := .reset, bds := { x.bds with fence := mapAll x.bds.fence (fun _ => []) } }

/-- The wafer after an abort: the network is empty and the areas are discarded (R385). -/
def quietWafer (w : Wafer) : Wafer :=
  { w with
    tiles := mapAll w.tiles quietTile
    fields := mapAll w.fields quietField
    rims := mapAll w.rims (fun r => { r with areas := [], cache := [] })
    lines := mapAll w.lines (fun l => { l with compArrived := false, sent := false })
    net := { w.net with inflight := [] }
    ran := [] }

/-- The cadence tables of the tiles as at step start, with their IDs and the bank in use (R37; log 103). -/
def restoreTables (w : Wafer) (cads : SMap Cad) : Wafer :=
  { w with tiles := w.tiles.map (fun p =>
      let c := mget .reset cads p.1
      (p.1, { p.2 with cad := { p.2.cad with
        bank0 := c.bank0, bank1 := c.bank1, hdr0 := c.hdr0, hdr1 := c.hdr1, active := c.active } })) }

/-- Working copies with an uncorrectable granule regenerated whole (R585). -/
def mendCopies (s : State) : State :=
  match s.train.job with
  | none => s
  | some j => onW s (fun w => j.reds.foldl (fun w d =>
      match placeOf s d.id with
      | some p =>
        if devBad w p.wc 0 (copyBytes d) || (d.back && devBad w p.bwc 0 (copyBytes d)) then
          let w := heal w p.wc.toNat (copyBytes d)
          let w := if d.back then heal w p.bwc.toNat (copyBytes d) else w
          regen w j.desc.seed d p (auditMaster s d p) (fun _ => true)
        else w
      | none => w) w)

/-- The readiness entries that slow-tier publishes set in the aborted step, written again (R406). -/
def rewriteReadiness (s : State) : State :=
  s.train.step.publishs.foldl (fun s x =>
    match placeOf s x.1 with | some p => onW s (fun w => setReadiness w p x.2) | none => s) s

/-- The staged batch of the step, where it cannot be read, is released (R585). -/
def dropBadBatch (s : State) : State :=
  let n := currentStep s
  match batchOf s n with
  | some b =>
    if s.wafer.comp.unc.any (fun g => decide (b.offset < 64 * g + 64 ∧ 64 * g < b.offset + b.bytes)) then
      onTrain s (fun t => { t with batches := t.batches.filter (fun x => x.step != n) })
    else s
  | none => s

/-- A slow-tier gradient that an aborted step or one without APPLY transferred is dropped (R402). -/
def dropGradients (s : State) (n : Nat) : State :=
  onTrain s (fun t => { t with slow := mapAll t.slow (fun x => { x with retained := x.retained.filter (fun g => g.1 != n) }) })

/-- The exchange of the step over the tree forgotten, but not the traffic that waits. -/
def freshTree (s : State) : State := onTree s (fun t => { t with step := { TreeStep.reset with joins := t.step.joins } })

/-- The step in progress aborted for `causes` and begun again (R39, R587): the module returns to the step-start state,
retirements and a new map take effect, and the step re-executes if its batch is still staged. -/
def abortStep (s : State) (causes : BitVec 8) : State :=
  if !s.train.step.begun || s.tree.step.prepSent then s
  else
    let n := s.train.step.attempts + 1
    let aborts := s.train.step.aborts ||| causes
    let s := setSticky s 13
    if 8 ≤ n then stopJob (onStep s (fun x => { x with attempts := n, aborts := aborts, due := 0 }))
    else
      let s := onW s (fun w => restoreTables (quietWafer w) ((s.train.start.map StartState.cads).getD []))
      let s := mendCopies (rewriteReadiness (undoFlips s))
      let s := dropBadBatch (dropGradients s (currentStep s))
      let (s, new) := retireDue s
      let s := freshTree (postEvent s 0x09 (causes.setWidth 32))
      let s := onTrain s (fun t => { t with step := { StepState.reset with attempts := n, aborts := aborts, unmet := s.train.step.unmet } })
      let s := if new || s.rel.mapDue.isSome then settleLoss s new else s
      if (batchOf s (currentStep s)).isSome && !s.wafer.frozen && !s.wafer.halted then openStep s else s

/-- An abort that begins at this module: ABORT goes over every bundle that is up (R522). -/
def abortHere (s : State) (causes : BitVec 8) : State :=
  if s.train.step.begun && !s.tree.step.prepSent then
    let s := if inTree s then toUpNeighbours s (.abort (currentStep s) s.train.step.attempts causes) else s
    abortStep s causes
  else s

/-- STEP_ABORT (R39, R587): the causes that are due make one abort. -/
def stepAbort (s : State) (cause : Nat) : State :=
  let due := s.train.step.due
  if due.getLsbD cause && !s.wafer.frozen && !s.wafer.halted then abortHere s due else s

/-! ### The landing record (R430 to R433, R480) -/

/-- Per-tensor scaling in force for a group (R422). -/
def perTensor (t : Train) (j : Job) (g : Nat) : Bool := t.fallback || j.flagged.getD g false

/-- What SCALE_HASH covers: the scale table and every amax history at step start. -/
def scaleBytes (st : StartState) (n : Nat) : List Byte :=
  let g (i : Nat) : ScaleGroup := mget ⟨st.lamG, []⟩ st.groups i
  Config.layout 7 (((List.range n).map (fun i => scaleEntry (g i).lam)).flatten ++
    ((List.range n).map (fun i => wordBytes (g i).hist)).flatten)

/-- The step constants of every program in force for a step. -/
def constBytes (t : Train) (n : Nat) : List Byte :=
  wordBytes (((List.range 16).map (fun p => let k := stepConsts t.consts p n; (List.range 8).map (fun i => k.getD i 0))).flatten)

/-- A record's bytes with those replaced that are read as zero for PREV_HASH. -/
def maskRecord (r : List Byte) : List Byte :=
  r.zipIdx.map (fun (b, i) =>
    if i = 6 then b &&& 0xEB else if i = 7 ∨ (24 ≤ i ∧ i ≤ 28) ∨ i = 30 ∨ 272 ≤ i then 0 else b)

/-- The record of the step before `n`. -/
def recordBefore (s : State) (n : Nat) : List Byte :=
  match (s.train.records.filter (fun r => r.1 + 1 == n)).getLast? with | some r => r.2 | none => s.ckpt.prevBytes

/-- True where the step is traced. -/
def tracing (s : State) : Bool := s.train.replay.isSome || (match s.train.run with | some r => r.trace | none => false)

/-- The landing record of the step in progress (R430); `ends` is the master epoch state at the start of the next step. -/
def landingRecord (s : State) (j : Job) (st : StartState) (v cause : Nat) (norm : W32) (ends : List Byte) : List Byte :=
  let n := currentStep s
  let x := s.train.step
  let replay := s.train.replay.isSome
  let scaled := st.fallback || (List.range j.desc.groups).all (fun g => j.flagged.getD g false)
  let flags := b2n st.rsel + 2 * b2n x.unmet + 4 * b2n replay + 8 * b2n scaled + 16 * b2n (tracing s)
  let batch := match batchOf s n with
    | some b => leBytes 8 b.step ++ leBytes 8 b.offset ++ leBytes 8 b.bytes ++ slice b.desc 0 64
    | none => []
  let image := beBytes 32 j.sm3.toNat
  let prev := recordBefore s n
  leBytes 2 1 ++ leBytes 2 j.id.toNat ++ leBytes 1 v ++ leBytes 1 cause ++ leBytes 1 flags ++ leBytes 1 (min 255 x.attempts) ++
    leBytes 8 n ++ leBytes 8 j.desc.seed.toNat ++ leBytes 4 s.wafer.repair.id.toNat ++ leBytes 1 s.wafer.net.routeSet.toNat ++
    leBytes 1 j.desc.staleness ++ leBytes 1 x.aborts.toNat ++ leBytes 1 0 ++ leBytes 2 (uint 16 st.lamG) ++ leBytes 2 0 ++
    leBytes 4 st.clean ++ leBytes 4 norm.toNat ++ leBytes 4 (medianNorm st.hist).toNat ++ sm3Bytes batch ++
    beBytes 32 st.epoch.toNat ++ sm3Bytes ends ++ sm3Bytes ((s.wafer.ran.map (fun i => leBytes 4 i.toNat)).flatten) ++
    sm3Bytes (scaleBytes st j.desc.groups) ++ sm3Bytes (constBytes s.train n) ++
    (if n = 0 then image else sm3Bytes (maskRecord prev)) ++ (if n = 0 then image else sm3Bytes prev) ++ leBytes 16 0

/-- The non-reserved fields of a landing record as (offset, length), in order (R430, R480). -/
def recordFields : List (Nat × Nat) :=
  [(0, 2), (2, 2), (4, 1), (5, 1), (6, 1), (7, 1), (8, 8), (16, 8), (24, 4), (28, 1), (29, 1), (30, 1), (32, 2), (36, 4), (40, 4),
   (44, 4), (48, 32), (80, 32), (112, 32), (144, 32), (176, 32), (208, 32), (240, 32), (272, 32)]

/-- The mismatch mask of two records (R433, R480). -/
def recordMask (a b : List Byte) : Nat :=
  ((recordFields.zipIdx.filter (fun (f, i) =>
    if [5, 8, 9, 11, 23].contains i then false
    else if i = 4 then (a.getD 6 0 &&& 0xEB) != (b.getD 6 0 &&& 0xEB)
    else slice a f.1 f.2 != slice b f.1 f.2)).map (fun p => 2 ^ p.2)).sum

/-- The reference record of a step in a verifying run (R436): from the ring, a slot's landing section, or the host. A step
without one is compared with zeros (log 53). -/
def reference (s : State) (r : Run) (n : Nat) : List Byte :=
  let last (l : List (Nat × List Byte)) : List Byte :=
    match (l.filter (fun x => x.1 == n)).getLast? with | some x => x.2 | none => []
  match r.ref with
  | 0 => last s.train.records
  | 1 => (match mget none s.ckpt.slots r.slot with | some c => last c.snap.landing | none => [])
  | _ =>
    last ((List.range (r.refs.length / 320)).map (fun i => (fieldN r.refs (320 * i + 8) 8, slice r.refs (320 * i) 320)))

/-! ### The commit-point rules (R416 to R424) -/

/-- ⌊log₂⌋ of a positive finite FP32 value. -/
def f32Log (x : W32) : Int := match f32Val x with | .fin d => Nat.log2 d.m.natAbs + d.e | _ => 0

/-- λ of a group from its history (R423). -/
def lamRule (d : JobDesc) (per : Bool) (lamG : Int) (hist : List W32) : Int :=
  let l := (hist.filter (fun x => f32Finite x && x &&& 0x7FFFFFFF != 0)).map BitVec.toNat
  match per, l.foldl max 0 with
  | true, h + 1 => max d.lsMin (min d.lsMax (d.amaxTgt - f32Log (BitVec.ofNat 32 (h + 1))))
  | _, _ => lamG

/-- The amax of a group in this step. -/
def amaxAt (s : State) (g : Nat) : W32 :=
  if inTree s then mget 0 s.tree.step.amaxFinal g else mget 0 s.train.step.amax g

/-- The commit-point updates of loss scale, counts and histories (R424). -/
def atCommit (s : State) (j : Job) (v : Verdict) : State :=
  if v = .quarantine then s
  else
    let d := j.desc
    let t := s.train
    let skip := decide (v = .skip)
    let nobody := skip && t.step.named.isEmpty
    let hist (g : Nat) : List W32 :=
      let a := amaxAt s g
      let a := if !f32Finite a || (skip && (nobody || t.step.named.contains g)) then
        f32Pow2 ((d.amaxTgt : Int) - groupLam s g + 1) else a
      a :: (mget ⟨t.lamG, []⟩ t.groups g).hist.take 15
    let clean := t.clean + 1
    let up := decide (clean = d.cleanN)
    let lamG := if skip then max d.lsMin (t.lamG - 1) else if up then min d.lsMax (t.lamG + 1) else t.lamG
    let t' := { t with
      lamG := lamG
      clean := if skip then 0 else if up then 0 else clean
      skips := if skip then t.skips + 1 else 0
      fallback := t.fallback || (skip && decide (t.skips + 1 = 3)) }
    let gs := (List.range d.groups).map (fun g => let h := hist g; (g, ScaleGroup.mk (lamRule d (perTensor t' j g) lamG h) h))
    { s with train := { t' with groups := gs } }

/-! ### What the commit point sets going (R439, R447) -/

/-- A device range read whole; an uncorrectable granule stops the job (R585). -/
def readRange (w : Wafer) (a : W64) (off n : Nat) : List Byte × Wafer :=
  if n = 0 then ([], w) else let (r, w) := devLoad w (a.toNat + off) n 2; (r.getD [], w)

/-- One thing of every element of a list read from the wafer. -/
def collect {α β : Type} (f : Wafer → α → β × Wafer) : Wafer → List α → List β × Wafer
  | w, [] => ([], w)
  | w, a :: l => let (b, w) := f w a; let (bs, w) := collect f w l; (b :: bs, w)

/-- The committed state that a checkpoint of step `n` holds (R439). -/
def takeSnapshot (s : State) (n : Nat) : Snapshot × State :=
  match s.train.job with
  | none => (⟨n, 0, 0, 0, false, false, [], [], [], [], [], [], [], []⟩, s)
  | some j =>
    let ds := (tensorsUp j).filterMap (fun d => (placeOf s d.id).map (fun p => (d, p)))
    let shards := ((ds.filter (fun x => !x.1.slow)).map (fun x => (List.range (shardCount x.1 x.2)).map (fun sh => (x, sh)))).flatten
    let (fast, w) := collect (fun w (x : (Reduction × Placement) × Nat) =>
      let (d, p) := x.1
      let r := shardRec w p d.id x.2
      let es := shardElems d p x.2
      let (m, w) := readRange w (masterSlot p r.epoch) (4 * es.headD 0) (4 * es.length)
      let (c, w) := readRange w (stateSlot p r.epoch) (4 * d.nstate * es.headD 0) (4 * d.nstate * es.length)
      ((d.id, x.2, r, m, c), w)) s.wafer shards
    let (slow, w) := collect (fun w (x : Reduction × Placement) =>
      let (d, p) := x
      let q := slowAt s d.id
      let (m, w) := readRange w (masterSlot p q.epoch) 0 (4 * d.elems)
      let (c, w) := readRange w (stateSlot p q.epoch) 0 (4 * d.nstate * d.elems)
      ((d.id, q, m, c), w)) w (ds.filter (fun x => x.1.slow))
    let (copies, w) := collect (fun w (x : Reduction × Placement) =>
      let (d, p) := x
      let (a, w) := readRange w p.wc 0 (copyBytes d)
      let (b, w) := if d.back then readRange w p.bwc 0 (copyBytes d) else ([], w)
      ((d.id, a, b), w)) w (ds.filter (fun x => x.1.slow))
    let (basis, w) := collect (fun w (x : Reduction × Placement) =>
      let (b, w) := loadImage w x.1 (if s.train.rsel then .basis1 else .basis0)
      ((x.1.id, b.getD []), w)) w (ds.filter (fun x => x.1.low))
    let t := s.train
    ({ step := n, lamG := t.lamG, clean := t.clean, skips := t.skips, fallback := t.fallback, rsel := t.rsel, groups := t.groups
       hist := t.hist, fast := fast, slow := slow, copies := copies, basis := basis, bases := s.gal.bases
       landing := t.records.filter (fun r => s.ckpt.since.contains r.1) }, { s with wafer := w })

/-- The oldest slot that the host is not reading, an empty one first (R441). -/
def pickSlot (s : State) : Option Nat :=
  let n := match s.train.job with | some j => j.desc.ckptSlots | none => 0
  let free := (List.range n).filter (fun i => match mget none s.ckpt.slots i with | some c => !c.reading | none => true)
  let age (i : Nat) : Nat := match mget none s.ckpt.slots i with | some c => c.seq.toNat + 1 | none => 0
  free.foldl (fun (b : Option Nat) i => match b with | some k => if age i < age k then some i else b | none => some i) none

/-- A capture that starts at the commit point of step `n` (R440), or is skipped where every slot is being read (R441). -/
def startCapture (s : State) (n : Nat) : State :=
  if (pickSlot s).isNone then
    completeAll (postEvent s 0x04) (fun p => decide (p.state = .capture)) 0x0A
  else
    let (c, s) := takeSnapshot s n
    { s with ckpt := { s.ckpt with capturing := s.ckpt.capturing ++ [c], since := [] } }

/-- The capture that is due at the commit point of step `n`: every CKPT_EVERY steps, and when asked (R439, R486). -/
def dueCapture (s : State) (j : Job) (n : Nat) : State :=
  if s.ckpt.asked || (j.desc.ckptEvery != 0 && decide ((n + 1) % j.desc.ckptEvery = 0)) then
    startCapture { s with ckpt := { s.ckpt with asked := false } } n
  else s

/-- The emissions of step `n` (R447). -/
def dueEmissions (s : State) (j : Job) (n : Nat) : State :=
  if j.gallery ≠ [] ∧ (n + 1) % j.desc.galEvery = 0 then
    fillDues { s with gal := { s.gal with due := s.gal.due ++ j.gallery.map (fun t => ⟨n, t, 0, none, 0⟩), seals := s.gal.seals ++ [n] } }
  else s

/-! ### The commit point (R38, R41, R436, R438, R477, R482) -/

/-- The KIND of every capture in a tile's drain log, which traces record (R113, R130). -/
def traceKinds (x : Tile) : List Byte := x.cad.log.map (fun p => (p.2.extractLsb' 38 2).setWidth 8)

/-- The bytes of a trace of some tiles with a free draw: the spec gives a trace no layout, and of its records KIND alone (R113,
log 45). -/
def traceBytes (xs : List Tile) (k n : Nat) : List Byte :=
  let l := Config.layout 5 (leBytes 8 k ++ (xs.map traceKinds).flatten)
  (List.range n).map (fun i => l.getD i (Config.freeByte k i))

/-- The trace written to its buffer in host memory. -/
def writeTrace (s : State) (l : List HostSeg) : State :=
  if l = [] then s
  else
    let (k, s) := drawFree s
    let bs := traceBytes (s.wafer.tiles.map Prod.snd) k ((l.map (fun g => g.len)).sum)
    (l.foldl (fun (p : State × Nat) g => (hostWrite p.1 g.addr (slice bs p.2 g.len), p.2 + g.len)) (s, 0)).1

/-- The tensors of a tier. -/
def tierOf (j : Job) (slow : Bool) : List Reduction := j.reds.filter (fun d => d.slow == slow)

/-- Every fast-tier shard has flipped and every slow-tier gradient is in companion memory (R38). -/
def updatesDone (s : State) (j : Job) : Bool :=
  (tierOf j false).all (fun d => match placeOf s d.id with
    | some p => (List.range (shardCount d p)).all (fun sh => s.train.step.shards.contains (d.id, sh))
    | none => true) &&
  (tierOf j true).all (fun d => (tstep s d.id).slow)

/-- True where every LOWRANK tensor has the images that the commit point comes after (R386): the local Q image, and under APPLY
P-hat and the global Q image. -/
def imagesWritten (s : State) (j : Job) : Bool :=
  (j.reds.filter (fun d => d.low)).all (fun d =>
    let x := tstep s d.id
    x.qloc && (decide (s.train.step.verdict ≠ .apply) || (x.phat && x.qglob)))

/-- True where the step in progress has met R38 but for its landing record. Event 7 of R386, which follows the local Q images,
is not recorded anywhere, and the command vouches for it (log 50). -/
def meetsCommit (s : State) : Bool :=
  match s.train.job with
  | some j =>
    s.train.step.begun && !s.wafer.halted && !s.wafer.frozen && decide (s.train.step.verdict ≠ .pending) &&
      (decide (s.train.step.due = 0) || s.tree.step.prepSent) && imagesWritten s j &&
      (s.train.replay.isSome || decide (s.train.step.verdict ≠ .apply) || updatesDone s j)
  | none => false

/-- The next bases of every LOWRANK tensor (R386 event 12). -/
def nextBases (w : Wafer) (j : Job) (rsel : Bool) : Wafer :=
  (j.reds.filter (fun d => d.low)).foldl (fun w d => nextBasis w rsel d) w

/-- What ends a STEP_RUN after a commit point, and the state after it (R474, R482). -/
def afterCommit (s : State) (r : Run) (mask : Nat) : State :=
  let hold : Bool := match s.train.job with | some j => j.desc.qhold && decide (s.train.lastV = .quarantine) | none => false
  let left := r.left.map (fun n => n - 1)
  let s := onTrain s (fun t => { t with run := some { r with left := left } })
  let leave (s : State) (result cause : Nat) : State :=
    let s := endRun (writeTrace s r.traceTo) result cause (BitVec.ofNat 64 mask)
    onTrain s (fun t => { t with state := if hold then .held else .ready })
  let s := if hold then postEvent s 0x02 else s
  if s.train.state = .closing then acceptSwitch (endRun (writeTrace s r.traceTo) (if mask = 0 then 0 else 0x0E) 4 (BitVec.ofNat 64 mask))
  else if mask ≠ 0 then leave s 0x0E 5
  else if hold then leave s 0 2
  else if r.stop then leave s 0 1
  else if left = some 0 then leave s 0 0
  else s

/-- The areas of the step freed and the step closed (R385). -/
def closeStep (s : State) (n : Nat) : State :=
  let s := onW s (fun w => { w with rims := mapAll w.rims (fun r => { r with areas := [], cache := [] }) })
  freshTree (onTrain s (fun t => { t with start := none, step := .reset, batches := t.batches.filter (fun b => b.step != n) }))

/-- The commit point of the step in progress. -/
def takeCommit (s : State) : State :=
  match s.train.job, s.train.start with
  | some j, some st =>
    let n := s.train.next
    let v := s.train.step.verdict
    let norm := s.train.step.norm
    let stopDue := s.tree.step.stopDue
    let s := if v = .apply then onW s (fun w => nextBases w j st.rsel) else s
    let rec' := landingRecord s j st (verdictCode v) s.train.step.cause.toNat norm (epochBytes s (n + 1) id)
    let mask := match s.train.run with
      | some r => if r.verify then recordMask rec' (reference s r n) else 0
      | none => 0
    let s := atCommit s j v
    let s := if v = .apply then s else dropGradients s n
    let s := onW s (fun w => onRim w 0 (fun r => { r with upd := { r.upd with norms := mput r.upd.norms n norm } }))
    let s := onTrain s (fun t =>
      { t with rsel := if v = .apply then !t.rsel else t.rsel
               hist := if v = .apply then norm :: t.hist.take 31 else t.hist
               next := n + 1, last := some n, lastV := v
               records := let l := t.records ++ [(n, rec')]; l.drop (l.length - j.desc.lrDepth) })
    let s := raiseReadiness { s with ckpt := { s.ckpt with prevBytes := rec', since := s.ckpt.since ++ [n] } } (decide (v = .apply))
    let s := dueCapture (dueEmissions (closeStep s n) j n) j n
    let s := if s.rel.failing.isEmpty then settleDue s else settleLoss (failDue s) true
    if stopDue || s.train.slow.any (fun p => p.2.dead) then stopNow s
    else match s.train.run with
      | some r => afterCommit s r mask
      | none => s
  | _, _ => s

/-- The end of a dry replay (R434): its record goes to the replay slot and nothing is committed. A replay under APPLY
takes the verdict its update results would give (R400). -/
def endReplay (s : State) (r : Replay) : State :=
  match s.train.job, s.train.start with
  | some j, some st =>
    let n := r.step
    let x := s.train.step
    let bad := decide (x.verdict = .apply) && (tierOf j false).any (fun d =>
      match placeOf s d.id with
      | some p =>
        let ph := if d.low then ((loadImage s.wafer d .phat).1).getD [] else []
        let q := if d.low then ((loadImage s.wafer d .qglob).1).getD [] else []
        (List.range (shardCount d p)).any (fun sh => (shardResults s j d p sh ph q).any badResult)
      | none => false)
    let v : Verdict := if bad then .quarantine else x.verdict
    let cause := if bad then 5 else x.cause.toNat
    let ends := epochBytes s (n + 1) (if v = .apply then flipRec n else id)
    let rec' := landingRecord s j st (verdictCode v) cause x.norm ends
    let s := { s with ckpt := { s.ckpt with replayRec := some rec' } }
    let s := writeTrace s r.traceTo
    let s := completeAll s (fun p => decide (p.state = .replay)) 0 (BitVec.ofNat 64 (verdictCode v)) (x.norm.setWidth 64)
    let s := onTrain (closeStep s n) (fun t => { t with replay := none })
    if s.train.state = .closing then acceptSwitch s else s
  | _, _ => s

/-- The factor images that the commit reads can be read: one that cannot makes the abort due (R400). -/
def imagesGood (s : State) : Bool × State :=
  match s.train.job with
  | some j =>
    if s.train.step.verdict = .apply ∧ s.train.replay.isNone then
      let (l, w) := collect (fun w d => loadImage w d .qglob) s.wafer (j.reds.filter (fun d => d.low))
      (l.all Option.isSome, { s with wafer := w })
    else (true, s)
  | none => (true, s)

/-- PREPARED goes up once this module and its children are prepared; the manager answers with COMMIT (R521). -/
def prepare (s : State) : State :=
  if !s.tree.step.met || s.tree.step.prepSent || !(childBundles s).all (fun b => s.tree.step.prepFrom.contains b) then s
  else
    let s := onTree s (fun t => { t with step := { t.step with prepSent := true } })
    match parentBundle s with
    | some b => linkSend s b (.prepared (currentStep s))
    | none =>
      let s := (childBundles s).foldl (fun s b => linkSend s b (.commit (currentStep s))) s
      takeCommit (onTree s (fun t => { t with step := { t.step with committed := true } }))

/-- COMMIT_POINT (R38, R521). -/
def commitPoint (s : State) : State :=
  if meetsCommit s then
    let (good, s) := imagesGood s
    if !good then s
    else match s.train.replay with
      | some r => endReplay s r
      | none => if inTree s then prepare (onTree s (fun t => { t with step := { t.step with met := true } })) else takeCommit s
  else s

/-! ### The commands -/

/-- STEP_BEGIN. -/
def execStepBegin (s : State) : Res := .next (settle (beginStep s))

/-- BATCH_WAIT_TIMEOUT. -/
def execBatchWaitTimeout (s : State) : Res := noting s batchWait

/-- BACKWARD_BARRIER. -/
def execBackwardBarrier (s : State) : Res := .next (settle (backwardBarrier s))

/-- COMMIT_POINT. -/
def execCommitPoint (s : State) : Res := noting s (fun s => settle (commitPoint s))

/-- STEP_ABORT. -/
def execStepAbort (cause : Fin 5) (s : State) : Res := noting s (fun s => settle (stepAbort s cause))

end Sys2Proof.Machine
end

