-- ==== Sys2Proof/Machine/Export.lean ====
section
/-!
DEFINITION. State that leaves the module (11 R439 to R451, 12 R486, R487): checkpoints with their manifests, restores, and
the Gallery stream.
-/

namespace Sys2Proof.Machine

open Sys2Proof

/-! ### Checkpoint sections (R439) -/

/-- A section before it is stored: its type, its tensor (0 for none) and its content. -/
structure Section where
  kind    : Nat
  tensor  : Nat
  content : List Byte
  deriving DecidableEq, Repr

/-- The bytes of a section; the spec gives the content no layout (log 45). -/
def sectionBytes (x : Section) : List Byte := Config.layout 8 (leBytes 1 x.kind ++ leBytes 4 x.tensor ++ x.content)

/-- The JOB_STATE content of a snapshot. -/
def jobStateBytes (j : Job) (c : Snapshot) : List Byte :=
  leBytes 8 c.step ++ leBytes 8 j.desc.seed.toNat ++ leBytes 2 (uint 16 c.lamG) ++ leBytes 4 c.clean ++ leBytes 4 c.skips ++
    leBytes 1 (b2n c.fallback) ++ leBytes 1 (b2n c.rsel) ++ leBytes 1 c.hist.length ++ wordBytes c.hist ++
    ((List.range j.desc.groups).map (fun g =>
      let x := mget ⟨c.lamG, []⟩ c.groups g
      leBytes 2 (uint 16 x.lam) ++ leBytes 1 (b2n (j.flagged.getD g false)) ++ wordBytes x.hist)).flatten

/-- The sections of a snapshot in ascending type and, within a type, ascending tensor (log 54). -/
def snapSections (j : Job) (c : Snapshot) : List Section :=
  [⟨1, 0, jobStateBytes j c⟩] ++
  c.fast.map (fun x => ⟨2, x.1, leBytes 4 x.2.1 ++ leBytes 1 (b2n x.2.2.1.epoch) ++ leBytes 8 x.2.2.1.step.toNat ++ x.2.2.2.1 ++ x.2.2.2.2⟩) ++
  c.slow.map (fun x => ⟨3, x.1, leBytes 8 x.2.1.slot.toNat ++ leBytes 8 ((x.2.1.published.map (fun n => n)).getD (2 ^ 64 - 1)) ++
    x.2.2.1 ++ x.2.2.2⟩) ++
  c.slow.map (fun x => ⟨4, x.1, (x.2.1.retained.map (fun g => leBytes 8 g.1 ++ leBytes 2 (uint 16 g.2.1) ++ wordBytes g.2.2)).flatten⟩) ++
  c.copies.map (fun x => ⟨5, x.1, x.2.1 ++ x.2.2⟩) ++
  c.basis.map (fun x => ⟨7, x.1, wordBytes x.2⟩) ++
  c.bases.map (fun x => ⟨8, x.1, wordBytes x.2⟩) ++
  [⟨9, 0, (c.landing.map Prod.snd).flatten⟩]

/-! ### The manifest (R442 to R444) -/

/-- The capture key (R444). -/
def captureKey (key : List Byte) (serial : W64) (seq : W64) : List Byte :=
  (sm3Bytes (key ++ leBytes 8 serial.toNat ++ leBytes 8 seq.toNat)).take 16

/-- The IV of a section. -/
def sectionIv (step index : Nat) (job : BitVec 16) : List Byte := leBytes 8 step ++ leBytes 2 index ++ leBytes 2 job.toNat

/-- Bytes 0 to 23 of a manifest entry. -/
def entryHead (kind index tensor off len : Nat) : List Byte :=
  leBytes 1 kind ++ leBytes 1 0 ++ leBytes 2 index ++ leBytes 4 tensor ++ leBytes 8 off ++ leBytes 8 len

/-- A 16-byte GCM tag. -/
def tagBytes (key iv aad pt : List Byte) : List Byte := beBytes 16 (Config.gcmTag key iv aad pt).toNat

/-- Stored sections and manifest entries from section `index` on, which lies at offset `off`. -/
def storeSections (key : Option (List Byte)) (step : Nat) (job : BitVec 16) : Nat → Nat → List Section → List Byte × List Byte
  | _, _, [] => ([], [])
  | index, off, x :: l =>
    let pt := sectionBytes x
    let h := entryHead x.kind index x.tensor off pt.length
    let iv := sectionIv step index job
    let (bs, tag) := match key with
      | some k => (Config.gcmSeal k iv h pt, tagBytes k iv h pt)
      | none => (pt, leBytes 16 0)
    let (rest, es) := storeSections key step job (index + 1) (off + pt.length) l
    (bs ++ rest, h ++ tag ++ sm3Bytes bs ++ leBytes 8 0 ++ es)

/-- The 128 header bytes of a manifest (R442). -/
def manifestHead (j : Job) (c : Snapshot) (n : Nat) (moduleId : BitVec 32) (seq : W64) : List Byte :=
  let record := match (c.landing.filter (fun r => r.1 == c.step)).getLast? with | some r => r.2 | none => []
  leBytes 4 1 ++ leBytes 2 j.id.toNat ++ leBytes 2 n ++ leBytes 8 c.step ++ leBytes 4 moduleId.toNat ++
    leBytes 1 (b2n j.desc.ckptSm4 + 2 * b2n j.unmetered) ++ leBytes 3 0 ++ sm3Bytes record ++ beBytes 32 j.sm3.toNat ++
    leBytes 8 seq.toNat ++ leBytes 8 Config.serial.toNat ++ leBytes 24 0

/-- A checkpoint as it stands in its slot: sections, then manifest with its signature under the identity key (R443, R616).
With encryption selected and no key installed the checkpoint key is empty (log 55). -/
def checkpointBytes (s : State) (j : Job) (c : Snapshot) (seq : W64) : List Byte :=
  let key := if j.desc.ckptSm4 then some (captureKey (s.ckpt.key.getD []) Config.serial seq) else none
  let xs := snapSections j c
  let (body, es) := storeSections key c.step j.id 0 0 xs
  let m := manifestHead j c xs.length s.tree.cfg.moduleId seq ++ es
  body ++ m ++ beBytes 64 (Config.sm2Sign 1 m).toNat

/-- CHECKPOINT_CAPTURE (R439 to R444, R486): the oldest capture under way reaches its slot, which point 0x0434 spoils. -/
def capture (s : State) : State :=
  match s.train.job, s.ckpt.capturing with
  | some j, c :: rest =>
    if s.wafer.halted then s
    else
      let s := { s with ckpt := { s.ckpt with capturing := rest } }
      match pickSlot s with
      | none => completeAll (postEvent s 0x04) (fun p => decide (p.state = .capture)) 0x0A
      | some i =>
        let seq := s.ckpt.captureSeq + 1
        let (inj, w) := modInject s.wafer 0x0434 0x0434
        let slot : CkptSlot := ⟨c, seq, checkpointBytes s j c seq, false, false, inj.isSome⟩
        let s := { s with wafer := w }
        let s := { s with ckpt := { s.ckpt with captureSeq := seq, slots := mput s.ckpt.slots i (some slot) } }
        let s := postEvent s 0x03
        if rest = [] then
          completeAll s (fun p => decide (p.state = .capture)) 0 (BitVec.ofNat 64 c.step) (BitVec.ofNat 64 i)
        else s
  | _, _ => s

/-! ### Restore (R445) -/

/-- Entry count and offset of the manifest that ends a checkpoint. -/
def manifestOf (bs : List Byte) : Option (Nat × Nat) :=
  ((List.range (bs.length / 80)).map (fun n => (n, bs.length - (192 + 80 * n)))).find? (fun x =>
    decide (192 + 80 * x.1 ≤ bs.length) && fieldN bs x.2 4 == 1 && fieldN bs (x.2 + 6) 2 == x.1)

/-- The checks of R445: signature under a trusted signer, the job image, every section's HASH and every tag. -/
def restoreGood (s : State) (j : Job) (bs : List Byte) : Bool :=
  match manifestOf bs with
  | none => false
  | some (n, m) =>
    let step := fieldN bs (m + 8) 8
    let job : BitVec 16 := BitVec.ofNat 16 (fieldN bs (m + 4) 2)
    let signed := slice bs m (128 + 80 * n)
    let sig := slice bs (m + 128 + 80 * n) 64
    let key := captureKey (s.ckpt.key.getD []) (BitVec.ofNat 64 (fieldN bs (m + 96) 8)) (BitVec.ofNat 64 (fieldN bs (m + 88) 8))
    let enc := bitOf (fieldN bs (m + 20) 1) 0
    let entry (i : Nat) : Bool :=
      let e := m + 128 + 80 * i
      let body := slice bs (fieldN bs (e + 8) 8) (fieldN bs (e + 16) 8)
      let tag : BitVec 128 := BitVec.ofNat 128 (leNat (slice bs (e + 24) 16).reverse)
      slice bs (e + 40) 32 == sm3Bytes body &&
        (!enc || (Config.gcmOpen key (sectionIv step i job) (slice bs e 24) body tag).isSome)
    j.signers.any (fun k => Config.sm2Verify k signed sig) && slice bs (m + 56) 32 == beBytes 32 j.sm3.toNat &&
      (List.range n).all entry

/-- The checkpoint's sections in the clear, in order. -/
def openSections (s : State) (bs : List Byte) : List Byte :=
  match manifestOf bs with
  | none => []
  | some (n, m) =>
    let step := fieldN bs (m + 8) 8
    let job : BitVec 16 := BitVec.ofNat 16 (fieldN bs (m + 4) 2)
    let key := captureKey (s.ckpt.key.getD []) (BitVec.ofNat 64 (fieldN bs (m + 96) 8)) (BitVec.ofNat 64 (fieldN bs (m + 88) 8))
    let enc := bitOf (fieldN bs (m + 20) 1) 0
    ((List.range n).map (fun i =>
      let e := m + 128 + 80 * i
      let body := slice bs (fieldN bs (e + 8) 8) (fieldN bs (e + 16) 8)
      let tag : BitVec 128 := BitVec.ofNat 128 (leNat (slice bs (e + 24) 16).reverse)
      if enc then (Config.gcmOpen key (sectionIv step i job) (slice bs e 24) body tag).getD [] else body)).flatten

/-- The fast tier of a snapshot written back (R439, R445): slots, epoch records, copies and readiness. -/
def restoreFast (s : State) (j : Job) (c : Snapshot) : State :=
  let s := c.fast.foldl (fun s x =>
    match redOf s x.1, placeOf s x.1 with
    | some d, some p =>
      let r := x.2.2.1
      let first := (shardElems d p x.2.1).headD 0
      onW s (fun w =>
        let w := devJobStore (heal w ((masterSlot p r.epoch).toNat + 4 * first) x.2.2.2.1.length)
          ((masterSlot p r.epoch).toNat + 4 * first) x.2.2.2.1
        let w := if d.nstate = 0 then w else
          devJobStore (heal w ((stateSlot p r.epoch).toNat + 4 * d.nstate * first) x.2.2.2.2.length)
            ((stateSlot p r.epoch).toNat + 4 * d.nstate * first) x.2.2.2.2
        onRim w (shardRim p) (fun q => { q with upd := { q.upd with epochs := mput q.upd.epochs (65536 * x.1 + x.2.1) r } }))
    | _, _ => s) s
  (tierOf j false).foldl (fun s d =>
    match placeOf s d.id with
    | some p => onW s (fun w =>
        let w := heal w p.wc.toNat (copyBytes d)
        let w := if d.back then heal w p.bwc.toNat (copyBytes d) else w
        setReadiness (regen w j.desc.seed d p (fastMaster w p d.id) (fun _ => true)) p c.step)
    | none => s) s

/-- The slow tier of a snapshot written back. -/
def restoreSlow (s : State) (c : Snapshot) : State :=
  let s := c.slow.foldl (fun s x =>
    match redOf s x.1, placeOf s x.1 with
    | some d, some p =>
      let q := x.2.1
      let s := onW s (fun w =>
        let w := devJobStore w (masterSlot p q.epoch).toNat x.2.2.1
        let w := if d.nstate = 0 then w else devJobStore w (stateSlot p q.epoch).toNat x.2.2.2
        setReadiness w p (match q.published with | some n => n | none => -1))
      onSlow s x.1 (fun _ => q)
    | _, _ => s) s
  c.copies.foldl (fun s x =>
    match redOf s x.1, placeOf s x.1 with
    | some d, some p => onW s (fun w =>
        let w := devJobStore (heal w p.wc.toNat x.2.1.length) p.wc.toNat x.2.1
        if d.back then devJobStore (heal w p.bwc.toNat x.2.2.length) p.bwc.toNat x.2.2 else w)
    | _, _ => s) s

/-- A restore's writes: the job is READY with step `c.step + 1` next. The residual regions are not restored (log 49). -/
def restoreSnap (s : State) (j : Job) (c : Snapshot) : State :=
  let s := onW s (fun w => { quietWafer w with halted := false })
  let s := restoreSlow (restoreFast s j c) c
  let s := c.basis.foldl (fun s x =>
    match redOf s x.1 with
    | some d => onW s (fun w => storeImage w d (if c.rsel then .basis1 else .basis0) x.2)
    | none => s) s
  let s := onW s (fun w => onRim w 0 (fun r =>
    { r with upd := { r.upd with norms := c.landing.foldl (fun m x => mput m x.1 (BitVec.ofNat 32 (fieldN x.2 40 4))) r.upd.norms } }))
  let record := match (c.landing.filter (fun r => r.1 == c.step)).getLast? with | some r => r.2 | none => []
  let v : Verdict := match fieldN record 4 1 with | 1 => .apply | 2 => .skip | 3 => .quarantine | _ => .pending
  let s := { s with gal := { s.gal with bases := c.bases, due := [], seals := [] }
                    ckpt := { s.ckpt with prevBytes := record, since := [], capturing := [] } }
  let s := onTrain s (fun t =>
    { t with state := .ready, next := c.step + 1, last := some c.step, lastV := v, rsel := c.rsel, lamG := c.lamG, clean := c.clean
             skips := c.skips, fallback := c.fallback, groups := c.groups, hist := c.hist, start := none, step := .reset
             records := let l := t.records ++ c.landing; l.drop (l.length - j.desc.lrDepth) })
  freshTree (raiseReadiness s true)

/-! ### Gallery records (R449) -/

/-- The literals that open a list of words: those before the next zero, as many as fit. -/
def takeLits : Nat → List W32 → List W32
  | 0, _ => []
  | _, [] => []
  | n + 1, x :: l => if x = 0 then [] else x :: takeLits n l

/-- The zeros that open a list of words, at most `n`. -/
def countZeros : Nat → List W32 → Nat
  | 0, _ => 0
  | _, [] => 0
  | n + 1, x :: l => if x = 0 then countZeros n l + 1 else 0

/-- Groups for the words of `l` within `room` payload bytes: the payload and the words covered. -/
def groupWords : Nat → Nat → List W32 → List Byte × Nat
  | 0, _, _ => ([], 0)
  | fuel + 1, room, l =>
    if l = [] ∨ room < 4 then ([], 0)
    else
      let z := countZeros 65535 l
      let lits := takeLits (min 65535 ((room - 4) / 4)) (l.drop z)
      if z = 0 ∧ lits = [] then ([], 0)
      else
        let (bs, n) := groupWords fuel (room - 4 - 4 * lits.length) (l.drop (z + lits.length))
        (leBytes 2 z ++ leBytes 2 lits.length ++ wordBytes lits ++ bs, z + lits.length + n)

/-- The window's size in bytes. -/
def galRoom (s : State) : Nat := match s.train.job with | some j => j.desc.galWindow * 2 ^ 30 | none => 0

/-- Bytes that the window holds. -/
def galUsed (s : State) : Nat := (s.gal.window.map (fun r => r.bytes.length)).sum

/-- The oldest records dropped until `n` bytes fit (GAL_POLICY 0, R450). -/
def dropOldest (room n : Nat) : List GalRecord → List GalRecord
  | [] => []
  | r :: l => if ((r :: l).map (fun x => x.bytes.length)).sum + n ≤ room then r :: l else dropOldest room n l

/-- A record's bytes: its 80-byte header and its payload, sealed under the Gallery key where the job selects it. The
additional data is empty (log 56). -/
def recordBytes (s : State) (type step tensor first elements slot : Nat) (payload : List Byte) : List Byte :=
  let enc := match s.train.job with | some j => j.desc.galSm4 | none => false
  let key := s.gal.key.getD []
  let iv := leBytes 8 s.gal.seq ++ leBytes 2 0 ++ leBytes 2 (jobIdOf s).toNat
  leBytes 2 1 ++ leBytes 1 type ++ leBytes 1 (b2n enc) ++ leBytes 2 (jobIdOf s).toNat ++ leBytes 2 0 ++ leBytes 8 s.gal.seq ++
    leBytes 8 step ++ leBytes 4 s.tree.cfg.moduleId.toNat ++ leBytes 4 tensor ++ leBytes 8 first ++ leBytes 4 elements ++
    leBytes 4 payload.length ++ leBytes 8 slot ++ leBytes 8 0 ++ (if enc then tagBytes key iv [] payload else leBytes 16 0) ++
    (if enc then Config.gcmSeal key iv [] payload else payload)

/-- The port of a record (R449): by its SEQ, the other where that one is down or has no address. -/
def galPort (s : State) (seq : Nat) : Option Nat :=
  let ok (p : Nat) : Bool := (if p = 0 then s.gal.up0 else s.gal.up1) && (mget none s.gal.net p).isSome
  if ok (seq % 2) then some (seq % 2) else if ok (1 - seq % 2) then some (1 - seq % 2) else none

/-- A record's datagram leaves the module. -/
def emitRecord (s : State) (seq : Nat) (bytes : List Byte) : State :=
  match galPort s seq with | some p => { s with out := s.out ++ [.gallery p bytes] } | none => s

/-- True where the job drops the oldest records (GAL_POLICY 0). -/
def galDrops (s : State) : Bool := match s.train.job with | some j => decide (j.desc.galPolicy = 0) | none => true

/-- A record sent and kept in the window; none where GAL_POLICY 1 holds it. -/
def sendRecord (s : State) (type step tensor first elements slot : Nat) (payload : List Byte) : Option State :=
  let bs := recordBytes s type step tensor first elements slot payload
  if galUsed s + bs.length ≤ galRoom s || galDrops s then
    let r : GalRecord := ⟨s.gal.seq, step, type, payload, bs⟩
    let w := dropOldest (galRoom s) bs.length s.gal.window
    some { (emitRecord s s.gal.seq bs) with gal := { s.gal with seq := s.gal.seq + 1, window := w ++ [r] } }
  else none

/-- One emission sent from its next word on, record by record, as far as it fits; the emission left, none when it is all
sent. -/
def sendDue : Nat → State → GalDue → List W32 → Option GalDue × State
  | 0, s, x, l => (if l = [] then none else some x, s)
  | fuel + 1, s, x, l =>
    if l = [] then (none, s)
    else
      let (bs, n) := groupWords 2048 8192 l
      match sendRecord s 1 x.step x.tensor x.first n x.slotStep.toNat bs with
      | none => (some x, s)
      | some s' =>
        let s' := { s' with gal := { s'.gal with sent := s'.gal.sent ++ [(x.step, s.gal.seq, bs)] } }
        sendDue fuel s' { x with first := x.first + n, words := some (l.drop n) } (l.drop n)

/-- GALLERY_EMISSION (R447, R450): the tensor's oldest emission goes out. -/
def emit (s : State) (t : Nat) : State :=
  if s.wafer.halted then s
  else
    match s.gal.due.find? (fun x => x.tensor == t) with
    | some x =>
      (match x.words with
        | some l =>
          let (rest, s') := sendDue l.length s x l
          { s' with gal := { s'.gal with due := s'.gal.due.filterMap (fun y => if y = x then rest else some y) } }
        | none => s)
    | none => s

/-- SEAL (R448): the oldest step whose emissions have all been sent. -/
def sealStep (s : State) : State :=
  match s.gal.seals with
  | n :: rest =>
    if s.gal.due.any (fun x => x.step == n) then s
    else
      let mine := s.gal.sent.filter (fun x => x.1 == n)
      let record := match (s.train.records.filter (fun r => r.1 == n)).getLast? with | some r => r.2 | none => s.ckpt.prevBytes
      let first := (mine.head?.map (fun x => x.2.1)).getD 0
      let last := (mine.getLast?.map (fun x => x.2.1)).getD 0
      let body := record ++ leBytes 8 first ++ leBytes 8 last ++ sm3Bytes ((mine.map (fun x => x.2.2)).flatten)
      let head := (recordBytes s 2 n 0 0 0 0 (body ++ leBytes 64 0)).take 64 ++ leBytes 16 0
      let payload := body ++ beBytes 64 (Config.sm2Sign 1 (head ++ body)).toNat
      (match sendRecord s 2 n 0 0 0 0 payload with
        | some s => { s with gal := { s.gal with seals := rest, sent := s.gal.sent.filter (fun x => x.1 != n) } }
        | none => s)
  | [] => s

/-- A datagram of the receiver is taken: it comes from the configured destination, and point 0x0436 does not spoil it. -/
def takeDatagram (s : State) (fromConfigured : Bool) : Bool × State :=
  if !fromConfigured then (false, s)
  else
    match modInject s.wafer 0x0436 0x0436 with
    | (some _, w) => (false, { s with wafer := w })
    | (none, w) => (true, { s with wafer := w })

/-- ACK (R450, R487). -/
def takeAck (s : State) (seq : Nat) (fromConfigured : Bool) : State :=
  let (ok, s) := takeDatagram s fromConfigured
  if ok then
    let n := min s.gal.seq (max s.gal.acked seq)
    { s with gal := { s.gal with acked := n, window := s.gal.window.filter (fun r => decide (n ≤ r.seq)) } }
  else s

/-- RESEND (R450, R487): held records go out again; a GAP names those that can no longer be sent, and posts event 0x05. A
GAP's STEP is zero (log 56). -/
def takeResend (s : State) (first count : Nat) (fromConfigured : Bool) : State :=
  let (ok, s) := takeDatagram s fromConfigured
  if ok then
    let oldest := match s.gal.window with | r :: _ => r.seq | [] => s.gal.seq
    let s := (s.gal.window.filter (fun r => decide (first ≤ r.seq ∧ r.seq < first + count))).foldl (fun s r => emitRecord s r.seq r.bytes) s
    let lost := min (first + count) oldest - first
    if lost = 0 then s
    else match sendRecord s 3 0 0 first lost 0 [] with
      | some s => postEvent s 0x05
      | none => s
  else s

/-! ### The commands -/

/-- CHECKPOINT_CAPTURE. -/
def execCheckpointCapture (s : State) : Res := noting s capture

/-- GALLERY_EMISSION. -/
def execGalleryEmission (tensor : Nat) (s : State) : Res := noting s (fun s => emit s tensor)

/-- SEAL. -/
def execSeal (s : State) : Res := noting s sealStep

/-- ACK. -/
def execAck (seq : Nat) (fromConfigured : Bool) (s : State) : Res := noting s (fun s => takeAck s seq fromConfigured)

/-- RESEND. -/
def execResend (first count : Nat) (fromConfigured : Bool) (s : State) : Res := noting s (fun s => takeResend s first count fromConfigured)

end Sys2Proof.Machine
end

