-- ==== Sys2Proof/Machine/Command.lean ====
section
/-!
DEFINITION. What every host command shares (12 R466 to R474, R492): its record, the checks before its work, and host
buffers.
-/

namespace Sys2Proof.Machine

open Sys2Proof

/-! ### Result codes (R471) -/

/-- The result codes by name. -/
inductive Result where
  | ok | badOpcode | badArg | badState | busy | noJob | jobMismatch | notPermitted | authFail | hostDma | noSpace | aborted
  | dupId | tooLate | mismatch | fault | image | unmetered | recovery | rollback
  deriving DecidableEq, Repr

/-- The code of a result. -/
def Result.code : Result → Nat
  | .ok => 0 | .badOpcode => 1 | .badArg => 2 | .badState => 3 | .busy => 4 | .noJob => 5 | .jobMismatch => 6
  | .notPermitted => 7 | .authFail => 8 | .hostDma => 9 | .noSpace => 10 | .aborted => 11 | .dupId => 12 | .tooLate => 13
  | .mismatch => 14 | .fault => 15 | .image => 16 | .unmetered => 17 | .recovery => 18 | .rollback => 19

/-- What a command's work comes to: it completes with a result and result data, or it waits on. -/
inductive Work where
  | done (s : State) (r : Result) (d0 d1 d2 : W64)
  | wait (s : State)

/-- Completed with no result data. -/
def Work.say (s : State) (r : Result) : Work := .done s r 0 0 0

/-- Completed with DCP_OK and no data. -/
def Work.good (s : State) : Work := .done s .ok 0 0 0

/-! ### The job-state check (R474) -/

/-- The job states in which a command is accepted. -/
def acceptedIn (op : Nat) (st : JobState) : Bool :=
  if [0x0201, 0x0404, 0x0104, 0x0111, 0x0112, 0x0105].contains op then decide (st = .none)
  else if op = 0x0202 then decide (st = .loaded)
  else if op = 0x0301 then decide (st = .ready)
  else if op = 0x0302 then decide (st = .running)
  else if op = 0x0303 then decide (st = .held)
  else if op = 0x0304 then [JobState.ready, .held].contains st
  else if op = 0x0305 ∨ op = 0x0403 then [JobState.loaded, .ready, .running, .held].contains st
  else if op = 0x0605 then [JobState.loaded, .ready, .stopped].contains st
  else if op = 0x0601 then [JobState.ready, .running, .held].contains st
  else if [0x0606, 0x0702, 0x0701].contains op then [JobState.loaded, .ready].contains st
  else if op = 0x0203 ∨ [5, 6, 7, 9].contains (op / 256) then [JobState.loaded, .ready, .running, .held, .stopped].contains st
  else if op / 256 = 3 then decide (st ≠ .closing)
  else true

/-- The refusal of a command in the present job state. -/
def stateCheck (s : State) (op : Nat) : Option Result :=
  if acceptedIn op s.train.state then none
  else if s.train.state = .none then some .noJob
  else some .badState

/-- The commands that the recovery loader accepts (R492). -/
def recoveryOps : List Nat := [0x0101, 0x0102, 0x0110, 0x0111, 0x0112]

/-- Why a command does not do its work: the recovery loader, the job state, JOBCHK, reserved bytes, arguments. -/
def refusedFor (s : State) (h : CmdHdr) (op : Nat) (argsOk : Bool) : Option Result :=
  if inRecovery s && !recoveryOps.contains op then some .recovery
  else match stateCheck s op with
    | some r => some r
    | none =>
      if h.jobchk && jobOpen s && h.jobId != jobIdOf s then some .jobMismatch
      else if h.rsvd || !argsOk then some .badArg
      else none

/-! ### Commands in progress -/

/-- The record of a command that has been taken and whose work has not been done. -/
def progOf (s : State) (h : CmdHdr) (op : Nat) : Option Prog :=
  s.host.progs.find? (fun p => decide (p.ring = h.ring.val ∧ p.cmdId = h.cmdId ∧ p.opcode = op ∧ p.state = .taken))

/-- A host command: where it has been taken, its checks and then its work. -/
def hostCmd (s : State) (h : CmdHdr) (op : Nat) (argsOk : Bool) (f : State → Prog → Work) : State :=
  match progOf s h op with
  | none => s
  | some p =>
    match refusedFor s h op argsOk with
    | some r => complete s p r.code
    | none =>
      match f s p with
      | .done s r d0 d1 d2 => complete s p r.code d0 d1 d2
      | .wait s => s

/-- A command's record put into another state of progress. -/
def holdProg (s : State) (p : Prog) (st : ProgState) (d : W64 := 0) : State := updProg s p { p with state := st, rdata0 := d }

/-! ### Host buffers (R470) -/

/-- Length of a buffer. -/
def bufSize (b : HostBuf) : Nat := (b.segs.map (fun g => g.len)).sum

/-- What is wrong with a buffer: a KIND that does not exist, a list entry before the last that is not page-aligned, or one
that the module cannot reach. -/
def bufBad (b : HostBuf) : Option Result :=
  if b.kind > 1 then some .badArg
  else if b.segs.dropLast.any (fun g => g.addr % 4096 != 0 || g.len % 4096 != 0) then some .badArg
  else if !b.reachable then some .hostDma
  else none

/-- The bytes that a read of a buffer returns. -/
def bufRead (b : HostBuf) : List Byte := slice b.data 0 (bufSize b)

/-- Bytes written to the pieces of a buffer; what does not fit is cut. -/
def writeSegs (s : State) : List HostSeg → List Byte → State
  | _, [] => s
  | [], _ => s
  | g :: l, b :: bs =>
    let s := if g.len = 0 then s else hostWrite s g.addr ((b :: bs).take g.len)
    writeSegs s l ((b :: bs).drop g.len)

/-- A command that answers into a buffer. -/
def answer (s : State) (b : HostBuf) (bs : List Byte) (d0 d1 d2 : W64 := 0) : Work :=
  match bufBad b with
  | some r => .say s r
  | none => .done (writeSegs s b.segs bs) .ok d0 d1 d2

/-- A command's effect with its notices and what the firmware makes of the wafer. -/
def serve (s : State) (f : State → State) : Res := noting s (fun s => settle (f s))

end Sys2Proof.Machine
end

