-- ==== Sys2Proof/Machine/JobOpen.lean ====
section
/-!
DEFINITION. The job image and the job family (12 R475 to R479, R737, R395, 10 R376, 11 R428, 15 R586, R592, R595, 14 R562,
13 R510): JOB_OPEN, JOB_START and JOB_CLOSE.
-/

namespace Sys2Proof.Machine

open Sys2Proof

/-! ### The descriptor (R478) -/

/-- The descriptor with the defaults of R478 in place of zeros. -/
def withDefaults (d : JobDesc) : JobDesc :=
  { d with lsInit := 15, lsMin := 0, lsMax := 24, amaxTgt := 12, cleanN := 2000, lrDepth := 65536 }

/-- The descriptor's fields as they stand. -/
def rawDesc (b : List Byte) : JobDesc :=
  let f := fieldN b 21 1
  { seed := BitVec.ofNat 64 (fieldN b 8 8), qmult := BitVec.ofNat 32 (fieldN b 16 4), staleness := fieldN b 20 1
    qhold := bitOf f 0, unmeteredOk := bitOf f 1, ckptSm4 := bitOf f 2, galSm4 := bitOf f 3
    lsInit := sint 8 (fieldN b 22 1), lsMin := sint 8 (fieldN b 23 1), lsMax := sint 8 (fieldN b 24 1), amaxTgt := fieldN b 25 1
    groups := fieldN b 26 2, cleanN := fieldN b 28 4, ckptEvery := fieldN b 32 2, ckptSlots := fieldN b 34 1
    galStart := fieldN b 35 1, galPolicy := fieldN b 36 1, galWindow := fieldN b 37 1, galEvery := fieldN b 38 2
    ckptBytes := fieldN b 40 8, lrDepth := fieldN b 48 4, tensors := fieldN b 52 4, scaleTable := BitVec.ofNat 64 (fieldN b 56 8) }

/-- True where the fields that DEFAULTS replaces are zero. -/
def defaultsZero (d : JobDesc) : Bool :=
  decide (d.lsInit = 0 ∧ d.lsMin = 0 ∧ d.lsMax = 0 ∧ d.amaxTgt = 0 ∧ d.cleanN = 0 ∧ d.lrDepth = 0)

/-- The ranges of R415, R420, R432, R446 and R478; the scale table must lie in HBM (R424). -/
def descGood (d : JobDesc) : Bool :=
  decide (-32 ≤ d.lsMin ∧ d.lsMin ≤ 40 ∧ -32 ≤ d.lsMax ∧ d.lsMax ≤ 40 ∧ d.lsMin ≤ d.lsInit ∧ d.lsInit ≤ d.lsMax) &&
  decide (1 ≤ d.cleanN ∧ d.cleanN ≤ 1000000 ∧ d.amaxTgt ≤ 30 ∧ 1 ≤ d.groups ∧ d.groups ≤ 1024) &&
  decide (1 ≤ d.staleness ∧ d.staleness ≤ 4 ∧ 1 ≤ d.ckptSlots ∧ d.ckptSlots ≤ 4) &&
  decide (d.galStart ≤ 1 ∧ d.galPolicy ≤ 1 ∧ 1 ≤ d.galWindow ∧ d.galWindow ≤ 64 ∧ 1 ≤ d.galEvery) &&
  decide (1024 ≤ d.lrDepth ∧ d.lrDepth ≤ 1048576) &&
  (match place Wafer.reset 0 d.scaleTable.toNat with
    | .hbm _ off => decide (off + 8 * d.groups ≤ rimReserved)
    | _ => false)

/-- The descriptor of an image, checked. -/
def parseDesc (b : List Byte) : Option JobDesc :=
  let d := rawDesc b
  let f := fieldN b 21 1
  if b.length < 256 ∨ fieldN b 0 2 ≠ 1 ∨ fieldN b 4 4 ≠ b.length ∨ !zeros b 64 256 ∨ 32 ≤ f then none
  else if bitOf f 4 && !defaultsZero d then none
  else
    let d := if bitOf f 4 then withDefaults d else d
    if descGood d then some d else none

/-! ### The directory (R479) -/

/-- The sections as (type, bytes), in directory order; none where an entry is malformed. -/
def parseDir (b : List Byte) : Option (List (Nat × List Byte)) :=
  let n := fieldN b 2 2
  let es := (List.range n).map (fun i =>
    let e := 256 + 16 * i
    (fieldN b e 2, fieldN b (e + 2) 2, fieldN b (e + 4) 4, fieldN b (e + 8) 8))
  let once := [1, 2, 3, 5, 6, 7, 8, 9, 10].all (fun k => decide ((es.filter (fun e => e.1 == k)).length ≤ 1))
  if 256 + 16 * n ≤ b.length && once &&
      es.all (fun e => decide (1 ≤ e.1 ∧ e.1 ≤ 10 ∧ e.2.1 = 0 ∧ e.2.2.2 + e.2.2.1 ≤ b.length)) then
    some (es.map (fun e => (e.1, slice b e.2.2.2 e.2.2.1)))
  else none

/-- A section's bytes, none listed counting as empty. -/
def sectionOf (l : List (Nat × List Byte)) (k : Nat) : List Byte := ((l.find? (fun e => e.1 == k)).map Prod.snd).getD []

/-- A byte list cut into records of `n` bytes. -/
def records (n : Nat) (b : List Byte) : List (List Byte) := (List.range (b.length / n)).map (fun i => slice b (n * i) n)

/-! ### Reductions (R372, R479) -/

/-- A reduction record. -/
def parseRed (r : List Byte) : Reduction :=
  let b6 := fieldN r 6 1
  let b7 := fieldN r 7 1
  { id := fieldN r 0 3, toff := sint 8 (fieldN r 3 1), rank := fieldN r 4 2, low := bitOf b6 0, slow := bitOf b6 1
    wcRnd := bitOf b6 2, back := bitOf b6 3, nstate := bits b6 5 4, prog := bits b7 3 0, rim := bits b7 7 4
    wcFmt := fieldN r 8 1, pArea := fieldN r 9 1, qArea := fieldN r 10 1, group := fieldN r 11 1, fbase := fieldN r 16 8
    n := fieldN r 24 4, k := fieldN r 28 4, sgroup := fieldN r 32 2
    consts := (List.range 16).map (fun i => BitVec.ofNat 32 (fieldN r (48 + 4 * i) 4)) }

/-- A reduction record's own checks (R737). -/
def redGood (r : List Byte) (d : Reduction) (groups : Nat) : Bool :=
  let images := 4 * d.rank * (3 * d.cols + d.rows + d.cols)
  decide (fieldN r 6 1 < 64 ∧ d.group < 128 ∧ 1 ≤ d.n ∧ 1 ≤ d.k ∧ d.wcFmt ≤ 8 ∧ d.sgroup < groups) && zeros r 12 16 && zeros r 34 48 &&
    (!d.low || decide (4 ≤ d.rank ∧ d.rank ≤ 256 ∧ d.fbase % 2097152 = 0 ∧ d.fbase + images ≤ rimReserved))

/-- The areas of all tensors: in range and named once (R514, R737). -/
def areasGood (tree : Bool) (ds : List Reduction) : Bool :=
  let all := (ds.map (fun d => d.areas.map (fun a => (d.rim, a)))).flatten
  all.all (fun x => decide (x.2 < if tree then 128 else 256)) && decide all.Nodup

/-! ### Programs (R392 to R395) -/

/-- Number of operands an operation uses. -/
def operandCount (op : Nat) : Nat :=
  if [0x05, 0x0C].contains op then 3 else if [0x02, 0x03, 0x04, 0x06, 0x09, 0x0A].contains op then 2 else 1

/-- A reserved operand code. -/
def operandBad (c : Nat) : Bool := decide (c = 0x17 ∨ 0x30 ≤ c)

/-- One word before the first END. -/
def updWordGood (nstate : Nat) (v : Nat) : Bool :=
  let op := bits v 31 26
  let dst := bits v 25 20
  let n := operandCount op
  let src (i : Nat) : Nat := bits v (19 - 6 * i) (14 - 6 * i)
  decide (op ≤ 0x0F) && decide (dst ≤ 0x0F ∨ dst = 0x11 ∨ (0x12 ≤ dst ∧ dst < 0x12 + nstate ∧ dst ≤ 0x14)) &&
    (List.range 3).all (fun i => if i < n then !operandBad (src i) else decide (src i = 0)) && decide (bits v 1 0 = 0)

/-- A program's words from its start (R395). -/
def programGood (nstate : Nat) : List W32 → Bool
  | [] => false
  | v :: l => if bits v.toNat 31 26 = 0 then decide (v = 0) else updWordGood nstate v.toNat && programGood nstate l

/-- Every program against the state words of the tensors that use it. -/
def programsGood (words : List W32) (ds : List Reduction) : Bool :=
  (List.range 16).all (fun p =>
    let l := (words.drop (256 * p)).take 256
    let ns := (ds.filter (fun d => d.prog == p)).map (fun d => d.nstate)
    (if ns = [] then [3] else ns).all (fun n => programGood n l))

/-! ### The other sections -/

/-- Config-load records: an address and its words. -/
def parseLoads : Nat → List Byte → Option (List (Nat × List W64))
  | _, [] => some []
  | 0, _ => none
  | fuel + 1, b =>
    let n := fieldN b 8 4
    let a := fieldN b 0 8
    if b.length < 16 ∨ 2 ^ 40 ≤ a ∨ n = 0 ∨ fieldN b 12 4 ≠ 0 ∨ b.length < 16 + 8 * n ∨ 0x1FFFFFF < bits a 24 0 + 8 * (n - 1) then none
    else
      (parseLoads fuel (b.drop (16 + 8 * n))).map (fun l =>
        (a, (List.range n).map (fun i => BitVec.ofNat 64 (fieldN b (16 + 8 * i) 8))) :: l)

/-- A stream entry (R348). -/
def parseEntry (e : List Byte) : Option StreamEntry :=
  let fl := fieldN e 18 1
  let x : StreamEntry :=
    { src := fieldN e 0 8, bytes := fieldN e 8 4, dst := fieldN e 12 4, group := fieldN e 16 2, vc3 := bitOf fl 0
      gateEn := bitOf fl 1, gateLine := fieldN e 19 1, gateDelta := fieldN e 20 2, readyId := fieldN e 22 2, lag := fieldN e 24 1
      layer := fieldN e 26 2 }
  if x.src < 2 ^ 36 ∧ x.src % 64 = 0 ∧ x.bytes % 64 = 0 ∧ 64 ≤ x.bytes ∧ x.dst < 2 ^ 29 ∧ x.dst % 64 = 0 ∧ x.group < 1024 ∧ fl < 4 ∧
      x.gateLine < 16 ∧ x.readyId < 4096 ∧ (x.lag ≤ 4 ∨ x.lag = 255) ∧ fieldN e 25 1 = 0 ∧ fieldN e 28 4 = 0 then some x
  else none

/-- All of a list's entries, or none where one is malformed. -/
def allSome {α : Type} : List (Option α) → Option (List α)
  | [] => some []
  | x :: l => match x, allSome l with | some a, some r => some (a :: r) | _, _ => none

/-- True where the layers of a schedule never fall. -/
def layersRise : List StreamEntry → Bool
  | a :: b :: l => decide (a.layer ≤ b.layer) && layersRise (b :: l)
  | _ => true

/-- Schedules by rim (R346, R479). -/
def parseSchedules : Nat → List Byte → Option (List (Nat × List StreamEntry))
  | _, [] => some []
  | 0, _ => none
  | fuel + 1, b =>
    let n := fieldN b 4 4
    let k := fieldN b 0 1
    if b.length < 8 ∨ 16 ≤ k ∨ fieldN b 1 3 ≠ 0 ∨ 8192 < n ∨ b.length < 8 + 32 * n then none
    else match allSome ((records 32 (slice b 8 (32 * n))).map parseEntry), parseSchedules fuel (b.drop (8 + 32 * n)) with
      | some es, some l => if layersRise es then some ((k, es) :: l) else none
      | _, _ => none

/-- The 128 HBM windows and 8 companion windows; none where one breaks R341 or R343. -/
def parseWindows (b : List Byte) : Option (List Window) :=
  if b = [] then some ((List.range 136).map (fun _ => Window.none))
  else if b.length ≠ 2176 then none
  else
    let l := (records 16 b).map (fun r => Window.mk (fieldN r 0 8) (fieldN r 8 8))
    if l.zipIdx.all (fun (w, i) =>
      decide (w.limit = 0 ∨ (w.base % 2097152 = 0 ∧ w.limit % 2097152 = 0 ∧ w.base < w.limit ∧
        w.limit ≤ if i < 128 then rimReserved else fwRegion))) then some l
    else none

/-- A placement record. -/
def parsePlace (r : List Byte) : Placement :=
  let a (i : Nat) : W64 := BitVec.ofNat 64 (fieldN r (4 + 8 * i) 8)
  { id := fieldN r 0 4, master0 := a 0, master1 := a 1, state0 := a 2, state1 := a 3, wc := a 4, bwc := a 5
    first := fieldN r 52 2, count := fieldN r 54 2 }

/-- The extents of a tensor's placement that are used: address, bytes, and whether it must lie in companion memory. -/
def extents (d : Reduction) (p : Placement) : List (W64 × Nat × Bool) :=
  [(p.master0, 4 * d.elems, d.slow), (p.master1, 4 * d.elems, d.slow), (p.wc, copyBytes d, false)] ++
    (if d.nstate = 0 then [] else [(p.state0, 4 * d.nstate * d.elems, d.slow), (p.state1, 4 * d.nstate * d.elems, d.slow)]) ++
    (if d.back then [(p.bwc, copyBytes d, false)] else [])

/-- An extent's checks (R737). -/
def extentGood (x : W64 × Nat × Bool) : Bool :=
  x.1.toNat % 64 == 0 &&
  (match place Wafer.reset 0 x.1.toNat with
    | .hbm _ off => !x.2.2 && decide (off + x.2.1 ≤ rimReserved)
    | .comp off => x.2.2 && decide (off + x.2.1 ≤ fwRegion)
    | _ => false)

/-- A placement record's checks, but for what its blocks hold. -/
def placeGood (d : Reduction) (p : Placement) : Bool :=
  let slots := [p.master0, p.master1] ++ (if d.nstate = 0 then [] else [p.state0, p.state1])
  (extents d p).all extentGood && (d.slow || slots.all (fun a => (stackOf a).1 == (stackOf p.master0).1))

/-- Fast-tier shards by the rim that commits them. -/
def shardsAt (ds : List Reduction) (ps : List Placement) (k : Nat) : Nat :=
  (ds.map (fun d =>
    match ps.find? (fun p => p.id == d.id) with
    | some p => if !d.slow && shardRim p == k then shardCount d p else 0
    | none => 0)).sum

/-- A step-constant record (R481). -/
def parseConst (r : List Byte) : Option ConstRec :=
  if fieldN r 0 1 < 16 ∧ zeros r 1 8 then
    some ⟨fieldN r 0 1, fieldN r 8 8, (List.range 8).map (fun i => BitVec.ofNat 32 (fieldN r (16 + 4 * i) 4))⟩
  else none

/-- A job image as it is checked. -/
structure JobImage where
  desc      : JobDesc
  reds      : List Reduction
  words     : List W32
  flagged   : List Bool
  loads     : List (Nat × List W64)
  schedules : List (Nat × List StreamEntry)
  windows   : List Window
  places    : List Placement
  gallery   : List Nat
  signers   : List (List Byte)
  consts    : List ConstRec

/-- The sections that R737 lists, against each other. -/
def crossGood (tree : Bool) (d : JobDesc) (raw : List (List Byte)) (ds : List Reduction) (words : List W32) (ps : List Placement)
    (gal : List Nat) : Bool :=
  decide (ds.length = d.tensors) && decide (ds.map (fun x => x.id)).Nodup && (List.zipWith (fun r x => redGood r x d.groups) raw ds).all id &&
    areasGood tree ds && programsGood words ds && decide (ps.length = ds.length) && decide (ps.map (fun x => x.id)).Nodup &&
    ds.all (fun x => match ps.find? (fun p => p.id == x.id) with | some p => placeGood x p | none => false) &&
    (List.range 16).all (fun k => decide (shardsAt ds ps k ≤ 65536)) && gal.all (fun t => ds.any (fun x => x.id == t))

/-- A job image checked under R737, but for the checks that depend on blocks; the sections R737 does not name are checked
for their own form (log 57). -/
def parseImage (tree : Bool) (b : List Byte) : Option JobImage :=
  match parseDesc b, parseDir b with
  | some d, some dir =>
    let s1 := sectionOf dir 1
    let raw := records 112 s1
    let ds := raw.map parseRed
    let s2 := sectionOf dir 2
    let words := if s2 = [] then (List.range 4096).map (fun _ => (0 : W32)) else bytesWords s2
    let s3 := sectionOf dir 3
    let s7 := sectionOf dir 7
    let ps := (records 60 s7).map parsePlace
    let s8 := sectionOf dir 8
    let gal := (records 4 s8).map (fun r => fieldN r 0 4)
    let s9 := sectionOf dir 9
    let s10 := sectionOf dir 10
    let loads := allSome ((dir.filter (fun e => e.1 == 4)).map (fun e => parseLoads (e.2.length + 1) e.2))
    (match loads, parseSchedules (b.length + 1) (sectionOf dir 5), parseWindows (sectionOf dir 6), allSome ((records 48 s10).map parseConst) with
      | some loads, some sch, some ws, some cs =>
        if s1.length % 112 = 0 && (decide (s2 = [] ∨ s2.length = 16384)) && (decide (s3 = [] ∨ s3.length = d.groups)) &&
            s3.all (fun x => decide (x.toNat < 2)) && s7.length % 60 == 0 && (records 60 s7).all (fun r => zeros r 56 60) &&
            s8.length % 4 == 0 && s9.length % 64 == 0 && s10.length % 48 == 0 && crossGood tree d raw ds words ps gal then
          some ⟨d, ds, words, s3.map (fun x => x == 1), loads.flatten, sch, ws, ps, gal, records 64 s9, cs⟩
        else none
      | _, _, _, _ => none)
  | _, _ => none

/-! ### What JOB_OPEN does before it loads -/

/-- A bit that the spec leaves to the module: whether a self-test passes, a repair resource is left. -/
def drawBit (s : State) : Bool × State := let (k, s) := drawFree s; (Config.freeBit k, s)

/-- Darkened fields that are not recorded return (R562, R601): one that an injection took out at once, the others where 60 s
have passed and their self-test passes (log 58). -/
def returnFields (s : State) : State :=
  let dark := (List.range 84).filter (fun f =>
    s.wafer.off.getLsbD f && !s.wafer.repair.fields.any (fun p => p.1 == f))
  let r := dark.foldl (fun (a : State × Bool) f =>
    let (ok, s) := if (fpAt a.1 f).injected then (true, a.1) else drawBit a.1
    if ok then (restoreField s f, true) else (s, a.2)) (s, false)
  if r.2 then settleLoss r.1 false else r.1

/-- Tiles whose self-test is due (R595). -/
def retestTiles (s : State) : State :=
  let r := s.rel.retest.foldl (fun (a : State × Bool) t =>
    let (ok, s) := drawBit a.1
    if ok then (s, a.2) else (retireTile s t, true)) ({ s with rel := { s.rel with retest := [] } }, false)
  if r.2 then settleLoss r.1 true else r.1

/-- HBM rows repaired, or their blocks excluded where the stack has no resource left (R586, log 58). -/
def repairRows (s : State) : State :=
  s.rel.hbmRows.foldl (fun s x =>
    let (ok, s) := drawBit s
    onW s (fun w => onRim w x.1 (fun r =>
      if ok then { r with repairs := r.repairs ++ [x.2] }
      else if r.excluded.contains (x.2 / 32768) then r else { r with excluded := r.excluded ++ [x.2 / 32768] })))
    { s with rel := { s.rel with hbmRows := [] } }

/-- True where an image names a RETAINED or an excluded block (R586, R737). -/
def namesBadBlock (w : Wafer) (m : JobImage) : Bool :=
  m.reds.any (fun d => match m.places.find? (fun p => p.id == d.id) with
    | some p => (extents d p).any (fun x => match place Wafer.reset 0 x.1.toNat with
        | .hbm k off => !blocksAll off x.2.1 (fun b => (rimAt w k).block b != .retained && !(rimAt w k).excluded.contains b)
        | .comp off => !blocksAll off x.2.1 (fun b => mget .zero w.comp.blocks b != .retained)
        | _ => false)
    | none => false) ||
  (m.windows.take 128).zipIdx.any (fun (x, i) =>
    decide (x.limit ≠ 0) && !blocksAll x.base (x.limit - x.base) (fun b => !(rimAt w (i / 8)).excluded.contains b))

/-- Bytes that a checkpoint of the job holds at least: masters and state, slow copies, residuals, bases, Gallery bases. -/
def checkpointSize (m : JobImage) : Nat :=
  (m.reds.map (fun d =>
    4 * (1 + d.nstate) * d.elems + (if d.slow then copyBytes d + (if d.back then copyBytes d else 0) else 0) +
      (if d.low then 4 * d.elems + 4 * d.cols * d.rank else 0) + (if m.gallery.contains d.id then 4 * d.elems else 0))).sum

/-! ### JOB_OPEN (R475) -/

/-- Config-load words written under R20; true where none set an error. -/
def loadConfig (s : State) (l : List (Nat × List W64)) : Bool × State :=
  l.foldl (fun (a : Bool × State) r =>
    r.2.zipIdx.foldl (fun (a : Bool × State) (v, i) =>
      match cfgAddr (r.1 + 8 * i) with
      | some (tgt, off) =>
        let (e, s) := bridgeWrite a.2 .firmware tgt off v
        (a.1 && e.err == 0, s)
      | none => (false, a.2)) a) (true, s)

/-- The windows, schedules and epoch records of a job set in the rims and companion memory (R341, R343, R346, R428). -/
def loadRims (s : State) (m : JobImage) : State :=
  let epochs (k : Nat) : SMap ShardRec := m.reds.foldl (fun e d =>
    match m.places.find? (fun p => p.id == d.id) with
    | some p =>
      if !d.slow && shardRim p == k then
        mputAll e ((List.range (shardCount d p)).map (fun sh => 65536 * d.id + sh)) { ShardRec.reset with step0 := BitVec.allOnes 64 }
      else e
    | none => e) []
  let win (a : Nat) : SMap Window := (List.range 8).map (fun i => (i, m.windows.getD (a + i) .none))
  onW s (fun w =>
    let w := (List.range 16).foldl (fun w k => onRim w k (fun r =>
      { r with windows := win (8 * k), ready := [], areas := []
               stream := { Stream.reset with schedule := ((m.schedules.filter (fun x => x.1 == k)).map Prod.snd).flatten }
               upd := { Upd.reset with epochs := epochs k } })) w
    { w with comp := { w.comp with windows := win 128 }, seed := m.desc.seed })

/-- The job that JOB_OPEN loads. -/
def jobOf (m : JobImage) (id : BitVec 16) (sm3 : BitVec 256) (bytes : Nat) (unmetered : Bool) : Job :=
  { id := id, sm3 := sm3, bytes := bytes, desc := m.desc, reds := m.reds, programs := m.words.zipIdx.map (fun (v, i) => (i, v))
    flagged := m.flagged, places := m.places, gallery := m.gallery, signers := m.signers, consts := m.consts, unmetered := unmetered }

/-- The training state of a job just opened: λG is LS_INIT, RSEL 0, no history (R376, R391, R415, R428). -/
def openTrain (j : Job) : Train :=
  { Train.reset with
    state := .loaded
    job := some j
    lamG := j.desc.lsInit
    groups := (List.range j.desc.groups).map (fun g => (g, ⟨j.desc.lsInit, []⟩))
    slow := (tierOf j true).foldl (fun m d => mput m d.id { SlowTensor.reset with step0 := BitVec.allOnes 64, step1 := BitVec.allOnes 64 }) [] }

/-- The image loaded: everything after the checks. -/
def loadJob (s : State) (m : JobImage) (j : Job) : State :=
  let s := loadRims s m
  let s := onW s (fun w =>
    let w := (m.reds.filter (fun d => d.low)).foldl (fun w d => storeImage w d .basis0 (initialBasis m.desc.seed d)) w
    loadTables { w with
      net := { w.net with mcast := (List.range 1024).map (fun g => (g, Config.mcastGroup j.sm3 g)) }, halted := false })
  let s := { s with train := openTrain j, gal := { Gallery.reset with net := s.gal.net, up0 := s.gal.up0, up1 := s.gal.up1 }
                    ckpt := { Ckpt.reset with captureSeq := s.ckpt.captureSeq }, rel := { s.rel with seen := [] } }
  queueMark (extendMr s 5 (beBytes 32 j.sm3.toNat)) 1 j.id

/-- Why no job may open (R547, R592, R612, R622). -/
def jobsBarred (s : State) : Bool :=
  s.sec.life == .blank || s.sec.life == .scrapped || (s.sec.life == .returned && s.sec.level != .factory) || s.pwr.noJobs || s.sec.badCode ||
    (rimAt s.wafer 0).ucie == 0 || (rimAt s.wafer 8).ucie == 0

/-- JOB_OPEN's work: it waits for a config access in progress (R20) and for a map and route set that are due (R281, R595). -/
def openJob (s : State) (id : BitVec 16) (buf : HostBuf) (sm3 : BitVec 256) : Work :=
  if jobsBarred s then .say s .notPermitted
  else if s.pwr.phase ≠ .active then .say s .badState
  else match bufBad buf with
    | some r => .say s r
    | none =>
      let b := bufRead buf
      if Config.sm3 b ≠ sm3 then .say s .authFail
      else
        let s := settleDue (repairRows (retestTiles (returnFields s)))
        if bridgeBusy s || s.rel.mapDue.isSome then .wait s
        else match parseImage (inTree s) b with
        | none => .say s .image
        | some m =>
          if namesBadBlock s.wafer m then .say s .notPermitted
          else if m.desc.ckptBytes < checkpointSize m then .say s .noSpace
          else if !metered s && !m.desc.unmeteredOk then .say s .unmetered
          else
            let (ok, s) := loadConfig s m.loads
            if ok then .done (loadJob s m (jobOf m id sm3 b.length (!metered s))) .ok (BitVec.ofNat 64 b.length) 0 0
            else .say (onW s switchWafer) .image

/-! ### JOB_START (R476, R481, R510) -/

/-- Every epoch bit is 0, every copy is regenerated, and step 0 is next; the image's constants apply. -/
def startLocal (s : State) (j : Job) : State :=
  let s := onW s (fun w => { w with rims := mapAll w.rims (fun r =>
    { r with upd := { r.upd with epochs := mapAll r.upd.epochs (fun e => { e with epoch := false }) } }) })
  let s := j.reds.foldl (fun s d =>
    match placeOf s d.id with
    | some p => onW s (fun w => regen w j.desc.seed d p (fun i => (devWord w p.master0 (4 * i), BitVec.allOnes 64)) (fun _ => true))
    | none => s) s
  let bases : SMap (List W32) := if j.desc.galStart = 1 then
    j.gallery.foldl (fun m t => match redOf s t, placeOf s t with
      | some d, some p => mput m t (masterWords s d p)
      | _, _ => m) [] else []
  onTrain { s with gal := { s.gal with bases := bases } } (fun t => { t with consts := j.consts, next := 0, last := none })

/-- The job is READY and JOB_START completes. -/
def finishStart (s : State) (r : Result) : State :=
  let s := if r = .ok then onTrain s (fun t => { t with state := .ready }) else s
  let s := onTree s (fun t => { t with step := { t.step with joins := [], joinSent := false } })
  completeAll s (fun p => decide (p.state = .jobStart)) r.code

/-- The JOIN exchange where it can go on (R510): a child whose values differ is answered at once, and a module whose
children have all joined joins its parent; the manager answers down. -/
def passJoin (s : State) : State :=
  match s.train.job with
  | some j =>
    if !s.host.progs.any (fun p => decide (p.state = .jobStart)) || s.tree.step.joinSent then s
    else
      let same (x : Nat × BitVec 16 × BitVec 256) : Bool := decide (x.2 = (j.id, j.sm3))
      let bad := s.tree.step.joins.filter (fun x => !same x)
      let s := bad.foldl (fun s x => linkSend s x.1 (.join j.id j.sm3 true false)) s
      let s := onTree s (fun t => { t with step := { t.step with joins := t.step.joins.filter same } })
      if (childBundles s).all (fun b => s.tree.step.joins.any (fun x => x.1 == b)) then
        match parentBundle s with
        | some b => linkSend (onTree s (fun t => { t with step := { t.step with joinSent := true } })) b (.join j.id j.sm3 false true)
        | none => finishStart ((childBundles s).foldl (fun s b => linkSend s b (.join j.id j.sm3 true true)) s) .ok
      else s
  | none => s

/-- JOB_START's work. -/
def startJob (s : State) (p : Prog) : Work :=
  match s.train.job with
  | some j =>
    if s.pwr.phase ≠ .active then .say s .badState
    else
      let s := startLocal s j
      if inTree s then .wait (passJoin (holdProg s p .jobStart))
      else .done (onTrain s (fun t => { t with state := .ready })) .ok 0 0 0
  | none => .say s .noJob

/-! ### JOB_CLOSE (R477) -/

/-- JOB_CLOSE's work. A run between steps ends at once. -/
def closeJob (s : State) (p : Prog) (mode : Nat) : Work :=
  let s := onTrain (holdProg s p (.jobClose mode)) (fun t => { t with state := .closing })
  if mode = 1 then .wait (acceptSwitch s)
  else if s.train.run.isNone ∧ s.train.replay.isNone then .wait (acceptSwitch s)
  else if !s.train.step.begun ∧ s.train.step.attempts = 0 ∧ s.train.replay.isNone then .wait (acceptSwitch (endRun s 0 4))
  else .wait s

/-! ### The commands -/

/-- JOB_OPEN. -/
def execJobOpen (h : CmdHdr) (jobId : BitVec 16) (buf : HostBuf) (imageSm3 : BitVec 256) (s : State) : Res :=
  serve s (fun s => hostCmd s h 0x0201 true (fun s _ => openJob s jobId buf imageSm3))

/-- JOB_START. -/
def execJobStart (h : CmdHdr) (s : State) : Res := serve s (fun s => hostCmd s h 0x0202 true startJob)

/-- JOB_CLOSE. -/
def execJobClose (h : CmdHdr) (mode : Nat) (s : State) : Res :=
  serve s (fun s => hostCmd s h 0x0203 (decide (mode ≤ 1)) (fun s p => closeJob s p mode))

end Sys2Proof.Machine
end

