-- ==== Sys2Proof/Machine/Links.lean ====
section
/-!
DEFINITION. The field ports (13 R493 to R506, R524, 15 R588, R591), the exchange over the tree or ring (13 R510 to R523), a
Banister line's release (08 R309, R310, 13 R511, R512), the long waits of Simmer (08 R319 to R321), and the accumulation
packets whose areas a tree adds up (09 R357 to R363).
-/

namespace Sys2Proof.Machine

open Sys2Proof

/-! ### Link training (R500 to R503) -/

/-- The lowest `n` positions of a mask. -/
def lowestOf (m : BitVec 18) (n : Nat) : BitVec 18 :=
  (((List.range 18).filter (fun i => m.getLsbD i)).take n).foldl (fun a i => a ||| (1#18 <<< i)) 0

/-- The state of a port that carries traffic, by its working lanes (R503). -/
def laneState (p : Port) : PortState :=
  if ones p.rxPos < 8 ∨ ones p.txPos < 8 then .down
  else if ones p.rxPos < 16 ∨ ones p.txPos < 16 then .degraded
  else .up

/-- True where a bundle that DEV_TREE_CONFIG named has its own laser source. -/
def sourceLit (s : State) (b : Nat) : Bool :=
  (namedBundles s).contains b && s.tree.lasers.getLsbD b && !s.pwr.laserOff && (waferPowered s || decide (s.host.mb.stage = 0x07))

/-- True where that source shines: an armed point 0x0440 to 0x044B disables it until it is disarmed. -/
def bundleLit (s : State) (b : Nat) : Bool :=
  sourceLit s b && !(s.wafer.fiMod.armed && decide (s.wafer.fiMod.point.toNat = 0x0440 + b))

/-- A port starts training from phase 1 (R500, R528). -/
def startTraining (s : State) (f : Nat) : State :=
  portBump (onPort s f (fun p => { p with state := .training, identity := false })) f 0xB130 1

/-- A port that stops carrying traffic. -/
def portDown (s : State) (f : Nat) : State :=
  onPort s f (fun p => { p with state := .down, identity := false, rxPos := 0, txPos := 0 })

/-- This module's ID packet at a port (R505); an armed point 0x0235 inverts its TREE_ID. -/
def sendId (s : State) (f : Nat) : State :=
  let (inj, w) := fieldInject s.wafer f 0x0235 0x0235
  let c := s.tree.cfg
  let p : IdPacket :=
    { moduleId := c.moduleId, treeId := if inj.isSome then ~~~c.treeId else c.treeId, side := c.parent == some (f / 7)
      bundle := Fin.ofNat 16 (f / 7), index := Fin.ofNat 8 (f % 7), role := c.role }
  let s := { s with wafer := w, out := s.out ++ [.link f (.id p)] }
  portBump s f 0xB100 1

/-- LINK_TRAINING: phases 1 to 5 with what they find, and the ID packet of phase 6. A failed lock, or fewer than 8 lanes in
a direction, starts again from phase 1. An armed point 0x0234 makes position 0 crossed, and phase 3 retires it. -/
def trainPort (s : State) (f : Nat) (r : TrainResult) : State :=
  if (portAt s f).state ≠ .training ∨ (portAt s f).identity ∨ !fieldUp s.wafer f ∨ !bundleLit s (f / 7) then s
  else
    let (inj, w) := fieldInject s.wafer f 0x0234 0x0234
    let s := { s with wafer := if inj.isSome ∨ r.crossed ≠ 0 then postField w f 0x0234 0 0 0 inj.isSome else w }
    let crossed := if inj.isSome then r.crossed ||| 1 else r.crossed
    let bad (m : BitVec 18) : BitVec 18 := ~~~(if inj.isSome then m &&& ~~~1#18 else m)
    let swapped := if s.tree.cfg.parent = some (f / 7) then 0 else crossed
    let s := onPort s f (fun p =>
      { p with badRx := bad r.rxGood, badTx := bad r.txGood, swapped := swapped, crossed := ones swapped
               rxPos := lowestOf (~~~bad r.rxGood) 16, txPos := lowestOf (~~~bad r.txGood) 16 })
    let p := portAt s f
    let s := if p.badRx ≠ 0 ∨ p.badTx ≠ 0 then setSticky s 2 else s
    if !r.locked ∨ laneState p = .down then startTraining s f
    else sendId (onPort s f (fun p => { p with identity := true })) f

/-- PORT_RETRAIN_TIMER (R500): every port that is down trains again. -/
def retrainPorts (s : State) : State :=
  (List.range 84).foldl (fun s f =>
    if (portAt s f).state = .down ∧ fieldUp s.wafer f ∧ bundleLit s (f / 7) then startTraining s f else s) s

/-- LOSS_OF_LIGHT (R502, R503): the receiving end retires the position, tells the partner, and restripes. -/
def loseLight (s : State) (f pos : Nat) (inj : Bool := false) : State :=
  let p := portAt s f
  if portUp p && p.rxPos.getLsbD pos then
    let s := detectAt (setSticky (portBump s f 0xB128 1) 2) 0x0233 0 f pos inj
    let s := onPort s f (fun p => { p with badRx := p.badRx ||| (1#18 <<< pos), rxPos := p.rxPos &&& ~~~(1#18 <<< pos) })
    if laneState (portAt s f) = .down then portDown s f
    else
      let s := onPort s f (fun p => { p with state := laneState p })
      if mayLink (portAt s f) (.lane true pos) then sendOnPort s f (.lane true pos)
      else onTree s (fun t => { t with held := t.held ++ [(f / 7, .lane true pos)] })
  else s

/-- SPARE_LANE_UP (R502): a good position that carries nothing becomes a working lane of a direction that lacks one. -/
def spareUp (s : State) (f : Nat) (d : LinkDir) (pos : Nat) : State :=
  let p := portAt s f
  let fit (bad work : BitVec 18) : Bool := !bad.getLsbD pos && !work.getLsbD pos && decide (ones work < 16)
  if !portUp p then s
  else match d with
    | .rx =>
      if fit p.badRx p.rxPos then
        onPort s f (fun p => let q := { p with rxPos := p.rxPos ||| (1#18 <<< pos) }; { q with state := laneState q })
      else s
    | .tx =>
      if fit p.badTx p.txPos then
        onPort s f (fun p => let q := { p with txPos := p.txPos ||| (1#18 <<< pos) }; { q with state := laneState q })
      else s

/-! ### Identity (R505, R506) -/

/-- The lowest-numbered other port of a port's bundle that has passed its checks. -/
def passedPort (s : State) (f : Nat) : Option Port :=
  ((bundlePorts (f / 7)).filter (fun g => g != f)).findSome? (fun g =>
    if portUp (portAt s g) then some (portAt s g) else none)

/-- The first check of R506 that an ID packet fails. -/
def idCheck (s : State) (f : Nat) (p : IdPacket) : Nat :=
  let c := s.tree.cfg
  if p.treeId ≠ c.treeId then 1
  else if p.moduleId = c.moduleId then 2
  else if p.side = (c.parent == some (f / 7)) then 3
  else if (match passedPort s f with
      | some q => q.moduleId != p.moduleId || q.bundle != BitVec.ofNat 4 p.bundle.val
      | none => false) then 4
  else if p.index.val ≠ f % 7 then 5
  else 0

/-- A port held in mismatch posts a fault record with the code, the field and the partner's MODULE_ID. -/
def holdMismatch (s : State) (f code : Nat) : State :=
  let s := onPort s f (fun p => { p with state := .mismatch, mismatch := BitVec.ofNat 4 code, identity := true })
  detect s ⟨0x0235, 0, false, code, f, 0, (portAt s f).moduleId.toNat, 0⟩

/-- A port comes up: what its replay buffer holds goes out again, and what waited follows (R524). -/
def portRises (s : State) (f : Nat) : State :=
  let s := onPort s f (fun p => { p with state := laneState p, mismatch := 0, identity := false })
  let s := if (portAt s f).state = .degraded then setSticky s 2 else s
  flushLinks { s with out := s.out ++ (portAt s f).sent.map (fun b => .link f b.body) }

/-- ID: checked in phase 6 or while the port is held in mismatch. -/
def takeId (s : State) (f : Nat) (p : IdPacket) : State :=
  let q := portAt s f
  if decide (q.state = .training ∨ q.state = .mismatch) && q.identity then
    let s := portBump s f 0xB108 1
    let s := onPort s f (fun q =>
      { q with moduleId := p.moduleId, bundle := BitVec.ofNat 4 p.bundle.val, index := BitVec.ofNat 3 p.index.val })
    let code := idCheck s f p
    if code = 0 then portRises s f else holdMismatch s f code
  else s

/-- ID_TIMEOUT. -/
def idMissing (s : State) (f : Nat) : State :=
  let q := portAt s f
  if decide (q.state = .training) && q.identity then holdMismatch s f 6 else s

/-- MISMATCH_RESEND. -/
def resendId (s : State) (f : Nat) : State := if (portAt s f).state = .mismatch then sendId s f else s

/-- FEC_RETRAIN (R591). -/
def fecRetrainPort (s : State) (f : Nat) : State := if portUp (portAt s f) then startTraining s f else s

/-! ### Blocks and credits (R497 to R499) -/

/-- True where a block is at or before `ack`, modulo 2^16. -/
def ackedBy (ack seq : BitVec 16) : Bool := decide ((ack - seq).toNat < 32768)

/-- A block with an uncorrectable codeword or a wrong CRC (R498): the port answers with NAK and names the latest good block. -/
def refuseBlock (s : State) (f : Nat) (tr : Trailer) : State :=
  let s := detectAt s (if tr.uncorrectable = 0 then 0x0231 else 0x0232) 0 f 0
  { s with out := s.out ++ [.link f (.nak (portAt s f).lastAck)] }

/-- BLOCK_TRAILER: of a good block, blocks acknowledged leave the replay buffer, a NAK sends the others again, and credits
return. The codewords of every block are counted (R528). -/
def takeTrailer (s : State) (f : Nat) (tr : Trailer) : State :=
  if !portUp (portAt s f) then s
  else
    let s := portBump (portBump s f 0xB110 tr.corrected) f 0xB118 tr.uncorrectable
    if tr.crcBad || decide (tr.uncorrectable ≠ 0) then refuseBlock s f tr
    else
    let s := onPort s f (fun p =>
      { p with lastAck := tr.seq, sent := p.sent.filter (fun b => !ackedBy tr.ack b.seq)
               credits := mput p.credits tr.cvc.val (mget 0 p.credits tr.cvc.val - tr.credits) })
    let again := (portAt s f).sent
    let s := if tr.nak then
        { portBump s f 0xB120 ((again.map (fun b => (linkFlits b.body + 6) / 7)).sum) with
          out := s.out ++ again.map (fun b => .link f b.body) }
      else s
    flushLinks s

/-- A packet that arrives at a port which carries traffic, from the bundle a message of its kind comes over. -/
def receive (s : State) (f flits : Nat) (from' : Bool) (g : State → State) : State :=
  if portUp (portAt s f) && from' then g (portBump s f 0xB108 flits) else s

/-- True where a port's bundle leads to a child, for control messages and barriers. -/
def isChild (s : State) (f : Nat) : Bool := (childBundles s).contains (f / 7)

/-- True where a port's bundle leads to the parent. -/
def isParent (s : State) (f : Nat) : Bool := parentBundle s == some (f / 7)

/-! ### JOIN (R510) -/

/-- JOIN on its way up, and its answer on its way down. -/
def takeJoin (s : State) (f : Nat) (id : BitVec 16) (sm3 : BitVec 256) (down ok : Bool) : State :=
  if down then
    (match s.train.job with
      | some j =>
        if isParent s f && s.host.progs.any (fun p => decide (p.state = .jobStart)) then
          let good := ok && decide (id = j.id ∧ sm3 = j.sm3)
          let s := (childBundles s).foldl (fun s b => linkSend s b (.join j.id j.sm3 true good)) s
          finishStart s (if good then .ok else .image)
        else s
      | none => s)
  else if isChild s f then
    passJoin (onTree s (fun t =>
      { t with step := { t.step with joins := t.step.joins.filter (fun x => x.1 != f / 7) ++ [(f / 7, id, sm3)] } }))
  else s

/-! ### Banister lines (R309, R310, R511, R512) -/

/-- True where every child has sent its ARRIVE for a line. -/
def childrenArrived (s : State) (l : Nat) : Bool :=
  (childBundles s).all (fun b => (mget [] s.tree.step.arrives l).contains b)

/-- Every powered field raises the generation, clears its arrivals and evaluates the watches on it (R310). -/
def raiseGen (w : Wafer) (l : Nat) : Wafer :=
  let fs := (List.range 84).filter (fieldUp w)
  let w := fs.foldl (fun w f => onField w f (fun x =>
    { x with banGen := mput x.banGen l (mget 0 x.banGen l + 1), arrived := mput x.arrived l 0
             ctrs := bumpAt x.ctrs 0xF218 1 })) w
  fs.foldl (fun w f => evalWatches w f (.gen l)) (onLine w l (fun x => { x with compArrived := false, sent := false }))

/-- A line released at this module: the SYNC_ARRIVE commands that wait for it complete (R483). -/
def releaseLine (s : State) (l : Nat) : State :=
  let s := onTree (onW s (fun w => raiseGen w l)) (fun t => { t with step := { t.step with arrives := mput t.step.arrives l [] } })
  s.host.progs.foldl (fun s p => if p.state = .arrive l then complete s p 0 p.rdata0 else s) s

/-- The generation of a line as the companion die reads it, at rim0. -/
def lineGen (s : State) (l : Nat) : W32 := rimGen s.wafer 0 l

/-- A complete line goes on: it releases, or in a tree its ARRIVE goes up, or the manager releases it everywhere. -/
def passLine (s : State) (l : Nat) : State :=
  let b := lineAt s.wafer l
  if !lineDone s.wafer l || s.wafer.halted then s
  else if !b.tree then releaseLine s l
  else if !childrenArrived s l || b.sent then s
  else match parentBundle s with
    | some p =>
      linkSend (onW s (fun w => onLine w l (fun x => { x with sent := true }))) p (.arrive (jobIdOf s) l (lineGen s l))
    | none =>
      let g := lineGen s l
      (childBundles s).foldl (fun s c => linkSend s c (.release (jobIdOf s) l g)) (releaseLine s l)

/-- LINK_ARRIVE: a message of another job or of another generation is a stale one (log 63). -/
def takeArrive (s : State) (f : Nat) (id : BitVec 16) (l : Nat) (gen : W32) : State :=
  if id ≠ jobIdOf s ∨ !jobOpen s ∨ gen ≠ mget 0 (fieldAt s.wafer f).banGen l then onW s (fun w => fieldBump w f 0xF210 1)
  else
    passLine (onTree s (fun t => { t with step := { t.step with
      arrives := mput t.step.arrives l ((mget [] t.step.arrives l).filter (fun b => b != f / 7) ++ [f / 7]) } })) l

/-- The record of a stale RELEASE, whose detector and severity the spec does not give (log 63). -/
def recordStale (s : State) (f : Nat) : State :=
  let (k, s) := drawFree s
  let v := (Config.freeWord k).toNat
  postRecord s ⟨v % 65536, v / 65536 % 4, false, 0, f, 0, 0, 0⟩

/-- LINK_RELEASE: it releases a line with TREE set alone; the others release on their local completion (R309). -/
def takeRelease (s : State) (f : Nat) (id : BitVec 16) (l : Nat) (gen : W32) : State :=
  if id ≠ jobIdOf s ∨ !jobOpen s then onW s (fun w => fieldBump w f 0xF210 1)
  else if gen ≠ mget 0 (fieldAt s.wafer f).banGen l then recordStale (onW s (fun w => fieldBump w f 0xF210 1)) f
  else if !(lineAt s.wafer l).tree then s
  else (childBundles s).foldl (fun s c => linkSend s c (.release id l gen)) (releaseLine s l)

/-! ### Areas over the tree (R514 to R517) -/

/-- The twin of an area; a link packet names the area, or the twin itself (log 64). -/
def twinOf (a : Nat) : Nat := a % 128 + 128

/-- The source that a port's partials come from (R515). -/
def portSource (f : Nat) : Endpoint := .tile (64 * (112 + f / 7) + f % 7)

/-- Where a module stands to a line's segment in a ring (R517): the arrivals its twin line expects, whether it then holds the
global value, whether it sends the line on as PART, and whether it forwards the line's GLOBAL. -/
def ringLine (m p l : Nat) : Nat × Bool × Bool × Bool :=
  let j := l % m
  let start := decide (p = (j + 1) % m)
  (if start then 1 else 2, decide (p = j), decide (p ≠ j), decide ((p + 1) % m ≠ j))

/-- The TDECL of an area before its first PART. -/
def declare (s : State) (b k tw : Nat) : State :=
  if s.tree.step.twinSent.contains (256 * k + tw) then s
  else
    let s := onTree s (fun t => { t with step := { t.step with twinSent := (256 * k + tw) :: t.step.twinSent } })
    linkSend s b (.tdecl k (tw - 128) (areaAt (rimAt s.wafer k) tw).t)

/-- A line of a twin as a link packet. -/
def twinLine (s : State) (k tw l : Nat) : LinkLine :=
  let r := rimAt s.wafer k
  ⟨Fin.ofNat 16 k, Fin.ofNat 256 (tw - 128), l, (areaAt r tw).oor, lineVals r tw l⟩

/-- A twin line that holds its global value. -/
def markGlobal (s : State) (k tw l : Nat) : State :=
  onTree s (fun t =>
    let ls := mget [] t.step.globals (256 * k + tw)
    { t with step := { t.step with globals := mput t.step.globals (256 * k + tw) (if ls.contains l then ls else l :: ls) } })

/-- A ring's twin whose every line is global is the global area: its lines go back to HBM (R517). -/
def ringComplete (s : State) (k tw : Nat) : State :=
  let x := areaAt (rimAt s.wafer k) tw
  if decide (x.state = .open) && decide ((mget [] s.tree.step.globals (256 * k + tw)).length = x.lines) then
    onW s (fun w => onArea (flushArea w k tw) k tw (fun y => { y with state := .complete }))
  else s

/-- A ring's twin line that holds its arrivals goes on. -/
def ringPass (s : State) (m p k tw l : Nat) : State :=
  let (expect, last, part, _) := ringLine m p l
  if arrivalsOf (rimAt s.wafer k) tw l ≠ expect then s
  else match s.tree.cfg.children.head? with
    | none => s
    | some b =>
      if part then linkSend (declare s b k tw) b (.part (twinLine s k tw l))
      else if last then ringComplete (linkSend (markGlobal s k tw l) b (.glob (twinLine s k tw l))) k tw
      else s

/-- A tree's twin that is complete goes on: up as PART, or from the manager down as GLOBAL (R516). -/
def treePass (s : State) (k tw : Nat) : State :=
  let x := areaAt (rimAt s.wafer k) tw
  if x.state ≠ .complete ∨ s.tree.step.twinSent.contains (256 * k + tw) then s
  else
    let (whole, w) := readArea s.wafer k tw
    let s := { s with wafer := w }
    if !whole then sourceError s k
    else match parentBundle s with
      | some b => (List.range x.lines).foldl (fun s l => linkSend s b (.part (twinLine s k tw l))) (declare s b k tw)
      | none =>
        let s := onTree s (fun t => { t with step := { t.step with twinSent := (256 * k + tw) :: t.step.twinSent } })
        (List.range x.lines).foldl (fun s l =>
          (childBundles s).foldl (fun s b => linkSend s b (.glob (twinLine s k tw l))) (markGlobal s k tw l)) s

/-- A line's elements added into the same line of another area as one arrival of exact-128 partials (R362). -/
def addPartial (w : Wafer) (k tw l : Nat) (vals : List (BitVec 128)) : Wafer :=
  match fetchLine w k tw l with
  | (some c, w) => addLine w k c (vals.map .inr)
  | (none, w) => w

/-- A completed local area added into its twin once both are ready (R515); the area's out-of-range flag goes with it. -/
def feedTwin (s : State) (k a : Nat) : State :=
  let x := areaAt (rimAt s.wafer k) a
  let tw := a + 128
  if !inTree s || decide (128 ≤ a) || decide (x.state ≠ .complete) || decide ((areaAt (rimAt s.wafer k) tw).state ≠ .open) ||
      s.tree.step.twinIn.contains (256 * k + a) then s
  else
    let (whole, w) := readArea s.wafer k a
    let s := { s with wafer := w }
    if !whole then sourceError s k
    else
    let s := onTree s (fun t => { t with step := { t.step with twinIn := (256 * k + a) :: t.step.twinIn } })
    let s := onW s (fun w =>
      let w := (List.range x.lines).foldl (fun w l => addPartial w k tw l (lineVals (rimAt w k) a l)) w
      completeArea (onArea w k tw (fun y => { y with oor := y.oor || x.oor })) k tw)
    match ringPlace s with
    | some (m, p) => (List.range x.lines).foldl (fun s l => ringPass s m p k tw l) s
    | none => treePass s k tw

/-- What follows a completed area: the local Q image, and the twin in a tree. -/
def afterArea (s : State) (k a : Nat) : State := feedTwin (areaDone s k a) k a

/-- ACC (R357 to R362): packet `n` arrives; it waits while its area is ZEROING. The rim and the area that it may have
completed come with the state. -/
def accArrives (w : Wafer) (n : Nat) (x : NetWaits) : Option (Nat × Nat) × Wafer :=
  match arriving w n with
  | some p =>
    (match p.kind, p.dst with
      | .acc addr bs, .rim k =>
        let a := bits addr 35 28
        if (areaAt (rimAt w k) a).state = .zeroing then (none, w)
        else
          let (st, w) := accumulateAt (takeIn w n p x) k (bits addr 43 40) a (bits addr 27 0) p.src bs
          let w := sendPkt w (.rim k) p.src p.vc (.wrAck st) p.owner addr p.tag
          (if (areaAt (rimAt w k) a).state = .complete then some (k, a) else none, w)
      | _, _ => (none, w))
  | none => (none, w)

/-- ACC: before the backward barrier of a step no gradient traffic reaches a rim; a packet that was sent too early waits (R35,
DESIGN CHOICE 101). -/
def takeAcc (s : State) (n : Nat) (x : NetWaits) : State :=
  if s.wafer.halted || (s.train.step.begun && !s.train.step.barrier) then s
  else
    let (done, w) := accArrives s.wafer n x
    let s := { s with wafer := w }
    match done with
    | some (k, a) => afterArea s k a
    | none => s

/-- AREA_ZEROING_DONE: an area that is open; a twin may take its local values at once. -/
def zeroingDone (s : State) (k a : Nat) : State :=
  let s := onW s (fun w => zeroArea w k a)
  if 128 ≤ a then feedTwin s k (a - 128) else s

/-- The bundle PARTs come over: a child's, or in a ring the one before. -/
def fromBelow (s : State) (f : Nat) : Bool :=
  if (ringPlace s).isSome then s.tree.cfg.parent == some (f / 7) else isChild s f

/-- The bundle GLOBALs come over. -/
def fromAbove (s : State) (f : Nat) : Bool :=
  if (ringPlace s).isSome then s.tree.cfg.parent == some (f / 7) else isParent s f

/-- PART: added as exact-128 partials of the port's source. It waits while the twin is not open yet, and a line that holds
its arrivals takes no more. -/
def takePart (s : State) (f : Nat) (x : LinkLine) : State :=
  let k := x.rim.val
  let tw := twinOf x.area.val
  let full (l : Nat) : Bool := match ringPlace s with
    | some (m, p) => decide ((ringLine m p l).1 ≤ arrivalsOf (rimAt s.wafer k) tw l)
    | none => false
  if full x.line then s
  else
    let bs := (x.vals.map (fun v => leBytes 16 v.toNat)).flatten
    let s := onW s (fun w =>
      let w := if x.oor then onArea w k tw (fun y => { y with oor := true }) else w
      (accumulateAt w k 9 tw (512 * x.line) (portSource f) bs).2)
    match ringPlace s with
    | some (m, p) => ringPass s m p k tw x.line
    | none => treePass s k tw

/-- True where a link packet for an area can be taken now. -/
def twinOpen (s : State) (x : LinkLine) : Bool :=
  let y := areaAt (rimAt s.wafer x.rim.val) (twinOf x.area.val)
  !s.wafer.halted && !s.wafer.frozen && decide (y.state = .open ∨ y.state = .complete) && decide (x.vals.length = 32 ∧ x.line < y.lines)

/-! ### Amax and the verdict (R519, R520) -/

/-- A worker adopts the verdict once it, the amax table and every global area of the step are there. -/
def adopt (s : State) : State :=
  match s.tree.step.verdict, s.train.job with
  | some v, some j =>
    if s.tree.cfg.role = 2 && decide (s.train.step.verdict = .pending) && s.train.step.begun && !s.wafer.halted &&
        decide (s.tree.step.amaxFinal.length = j.desc.groups) && j.reds.all (fun d => d.areas.all (globalReady s d.rim)) then
      let named := (j.reds.filter (fun d => tensorOor s d || tensorBad s d)).map (fun d => d.sgroup)
      let verdict : Verdict := if v.v = 1 then .apply else if v.v = 2 then .skip else if v.v = 3 then .quarantine else .pending
      if verdict = .pending then s else startPrefetch (setVerdict s verdict v.cause v.norm named)
    else s
  | _, _ => s

/-- GLOBAL: the line replaces the twin's values and goes on; in a ring as far as its segment's last module. -/
def takeGlobal (s : State) (x : LinkLine) : State :=
  let k := x.rim.val
  let tw := twinOf x.area.val
  let s := onW s (fun w =>
    let w := putLine w k ⟨tw, x.line, x.vals, arrivalsOf (rimAt w k) tw x.line⟩
    onArea w k tw (fun y => { y with oor := y.oor || x.oor }))
  let s := markGlobal s k tw x.line
  adopt (match ringPlace s with
    | some (m, p) =>
      let s := if (ringLine m p x.line).2.2.2 then (s.tree.cfg.children.take 1).foldl (fun s b => linkSend s b (.glob x)) s else s
      ringComplete s k tw
    | none => (childBundles s).foldl (fun s b => linkSend s b (.glob x)) s)

/-- AMAX: a child's values, or the final table from above, which goes on down. -/
def takeAmax (s : State) (f first : Nat) (vals : List W32) (final : Bool) : State :=
  let put (m : SMap W32) : SMap W32 :=
    (vals.zipIdx.filter (fun (_, i) => decide (first + i < groupCount s))).foldl (fun m (v, i) => mput m (first + i) v) m
  if final then
    if isParent s f then
      let s := onTree s (fun t => { t with step := { t.step with amaxFinal := put t.step.amaxFinal } })
      adopt ((childBundles s).foldl (fun s b => linkSend s b (.amax first vals true)) s)
    else s
  else if isChild s f then
    passAmax (onTree s (fun t =>
      { t with step := { t.step with amaxFrom := mput t.step.amaxFrom (f / 7) (put (mget [] t.step.amaxFrom (f / 7))) } }))
  else s

/-- VERDICT: it goes on down, and is adopted when it can be. -/
def takeVerdict (s : State) (v cause : Nat) (norm : W32) : State :=
  let s := onTree s (fun t => { t with step := { t.step with verdict := some ⟨v, cause, norm⟩ } })
  adopt ((childBundles s).foldl (fun s b => linkSend s b (.verdict v cause norm)) s)

/-! ### Commit and abort (R521 to R523) -/

/-- PREPARED from a child. -/
def takePrepared (s : State) (f step : Nat) : State :=
  if isChild s f && s.train.step.begun && decide (step = currentStep s) then
    prepare (onTree s (fun t =>
      { t with step := { t.step with prepFrom := t.step.prepFrom.filter (fun b => b != f / 7) ++ [f / 7] } }))
  else s

/-- COMMIT: forwarded, and then the worker's commit point. -/
def takeCommitMsg (s : State) (f step : Nat) : State :=
  if isParent s f && s.tree.step.prepSent && decide (step = currentStep s) then
    let s := (childBundles s).foldl (fun s b => linkSend s b (.commit step)) s
    takeCommit (onTree s (fun t => { t with step := { t.step with committed := true } }))
  else s

/-- An attempt that is aborted elsewhere before the step begins here counts here too (R522). -/
def countAbort (s : State) (causes : BitVec 8) : State :=
  let n := s.train.step.attempts + 1
  let un := match s.train.job with | some j => j.unmetered | none => false
  let s := setSticky (onStep s (fun x => { x with attempts := n, aborts := x.aborts ||| causes, unmet := un })) 13
  if 8 ≤ n then stopJob s else postEvent s 0x09 (causes.setWidth 32)

/-- ABORT for the current attempt: forwarded over the other bundles that are up, and acted on; a module that has sent PREPARED
acts on it too, and a stop that waited for it takes place (R523, R735). -/
def takeAbort (s : State) (f step attempt : Nat) (causes : BitVec 8) : State :=
  if (isChild s f || isParent s f) && stepping s && decide (step = currentStep s ∧ attempt = s.train.step.attempts) &&
      !s.tree.step.committed then
    let s := ((treeBundles s).filter (fun b => b != f / 7 && !(upPorts s b).isEmpty)).foldl
      (fun s b => linkSend s b (.abort step attempt causes)) s
    let stop := s.tree.step.stopDue
    let s := onTree s (fun t => { t with step := { t.step with prepSent := false, stopDue := false } })
    if stop then stopNow s else if s.train.step.begun then abortStep s causes else countAbort s causes
  else s

/-- FAULT (R524, R735): the module stops its job and forwards the message. -/
def takeFault (s : State) (f : Nat) : State := if isChild s f || isParent s f then stopJob s else s

/-- BUNDLE_DOWN_TIMEOUT (R524). -/
def bundleTimeout (s : State) (b : Nat) : State :=
  if inTree s && (namedBundles s).contains b && (upPorts s b).isEmpty then stopJob s else s

/-! ### Simmer (R319 to R321) -/

/-- True where ALL_SIMMER reads 1 in every powered field. -/
def allSimmer (w : Wafer) : Bool :=
  allTiles.all (fun t => !usable w t || inSimmer w t)

/-- The level of every field moved by one, within 0 to 16. -/
def moveLevels (w : Wafer) (up : Bool) : Wafer :=
  (List.range 84).foldl (fun w n => onField w n (fun x =>
    { x with level := if up then (if x.level.toNat < 16 then x.level + 1 else x.level) else if x.level = 0 then 0 else x.level - 1 })) w

/-- True where a release is held in some field, or a command asks for the ramp (R320). -/
def rampAsked (s : State) : Bool := s.pwr.ramp || s.wafer.fields.any (fun p => p.2.pending && fieldUp s.wafer p.1)

/-- SIMMER_SAMPLE: consecutive samples that found every array in Simmer are counted. -/
def simmerSample (s : State) : State :=
  if s.pwr.phase ≠ .active then s
  else onPwr s (fun p => { p with longWait := if allSimmer s.wafer then p.longWait + 1 else 0 })

/-- SIMMER_STEP_DOWN: in a wait of 2 ms, no release held. -/
def simmerDown (s : State) : State :=
  if 20 ≤ s.pwr.longWait ∧ !rampAsked s ∧ !allAt s.wafer 0 ∧ s.pwr.phase = .active ∧ !s.wafer.frozen then
    onPwr (onW s (fun w => moveLevels w false)) (fun p => { p with simmerHold := true })
  else s

/-- SIMMER_STEP_UP: at level 16 the ramp is over, and what asked for it completes. -/
def simmerUp (s : State) : State :=
  if rampAsked s ∧ !allAt s.wafer 16 ∧ s.pwr.phase = .active ∧ !s.wafer.frozen then
    let s := onW s (fun w => moveLevels w true)
    if allAt s.wafer 16 then
      let s := onW s (fun w => { w with fields := mapAll w.fields (fun x => { x with pending := false }) })
      completeAll (onPwr s (fun p => { p with simmerHold := false, ramp := false, longWait := 0 }))
        (fun p => decide (p.state = .rampUp)) 0
    else onPwr s (fun p => { p with longWait := 0 })
  else s

/-! ### The commands -/

/-- LINE_RELEASE. -/
def execLineRelease (line : Fin 16) (s : State) : Res := serve s (fun s => passLine s line)

/-- SIMMER_SAMPLE. -/
def execSimmerSample (s : State) : Res := .next (simmerSample s)

/-- SIMMER_STEP_DOWN. -/
def execSimmerStepDown (s : State) : Res := noting s simmerDown

/-- SIMMER_STEP_UP. -/
def execSimmerStepUp (s : State) : Res := noting s simmerUp

/-- ACC. -/
def execAcc (n : Arrival) (s : State) : Res := .next (settle (takeAcc s n.place n.waits))

/-- AREA_ZEROING_DONE. -/
def execAreaZeroingDone (k : Fin 16) (a : Fin 256) (s : State) : Res := .next (settle (zeroingDone s k a))

/-- LINK_TRAINING. -/
def execLinkTraining (f : Fin 84) (r : TrainResult) (s : State) : Res := serve s (fun s => trainPort s f r)

/-- PORT_RETRAIN_TIMER. -/
def execPortRetrainTimer (s : State) : Res := .next (retrainPorts s)

/-- LOSS_OF_LIGHT. -/
def execLossOfLight (f : Fin 84) (pos : Fin 18) (s : State) : Res := serve s (fun s => loseLight s f pos)

/-- SPARE_LANE_UP. -/
def execSpareLaneUp (f : Fin 84) (dir : LinkDir) (pos : Fin 18) (s : State) : Res := .next (spareUp s f dir pos)

/-- BLOCK_TRAILER. -/
def execBlockTrailer (f : Fin 84) (tr : Trailer) (s : State) : Res := serve s (fun s => takeTrailer s f tr)

/-- FEC_RETRAIN. -/
def execFecRetrain (f : Fin 84) (s : State) : Res := .next (fecRetrainPort s f)

/-- ID. -/
def execId (f : Fin 84) (p : IdPacket) (s : State) : Res := serve s (fun s => takeId s f p)

/-- ID_TIMEOUT. -/
def execIdTimeout (f : Fin 84) (s : State) : Res := serve s (fun s => idMissing s f)

/-- MISMATCH_RESEND. -/
def execMismatchResend (f : Fin 84) (s : State) : Res := serve s (fun s => resendId s f)

/-- PART. -/
def execPart (f : Fin 84) (l : LinkLine) (s : State) : Res :=
  serve s (fun s => receive s f 8 (fromBelow s f && twinOpen s l) (fun s => takePart s f l))

/-- GLOBAL. -/
def execGlobalLine (f : Fin 84) (l : LinkLine) (s : State) : Res :=
  serve s (fun s => receive s f 8 (fromAbove s f && twinOpen s l) (fun s => takeGlobal s l))

/-- TDECL. -/
def execTdecl (f : Fin 84) (k : Fin 16) (a : Fin 256) (t : Int) (s : State) : Res :=
  serve s (fun s => receive s f 1 (fromBelow s f && twinOpen s ⟨k, a, 0, false, List.replicate 32 0⟩) (fun s =>
    onW s (fun w => (accumulateAt w k 10 (twinOf a) 0 (portSource f) (leBytes 2 (uint 16 t))).2)))

/-- LINK_ARRIVE. -/
def execLinkArrive (f : Fin 84) (jobId : BitVec 16) (line : Fin 16) (gen : W32) (s : State) : Res :=
  serve s (fun s => receive s f 1 (isChild s f) (fun s => takeArrive s f jobId line gen))

/-- LINK_RELEASE. -/
def execLinkRelease (f : Fin 84) (jobId : BitVec 16) (line : Fin 16) (gen : W32) (s : State) : Res :=
  serve s (fun s => receive s f 1 (isParent s f) (fun s => takeRelease s f jobId line gen))

/-- JOIN. -/
def execJoin (f : Fin 84) (jobId : BitVec 16) (imageSm3 : BitVec 256) (down ok : Bool) (s : State) : Res :=
  serve s (fun s => receive s f 1 true (fun s => takeJoin s f jobId imageSm3 down ok))

/-- AMAX. -/
def execAmax (f : Fin 84) (first : Nat) (vals : List W32) (final : Bool) (s : State) : Res :=
  serve s (fun s => receive s f 2 true (fun s => takeAmax s f first vals final))

/-- VERDICT. -/
def execVerdict (f : Fin 84) (v cause : Nat) (norm : W32) (s : State) : Res :=
  serve s (fun s => receive s f 1 (isParent s f) (fun s => takeVerdict s v cause norm))

/-- PREPARED. -/
def execPrepared (f : Fin 84) (step : Nat) (s : State) : Res :=
  serve s (fun s => receive s f 1 true (fun s => takePrepared s f step))

/-- COMMIT. -/
def execCommit (f : Fin 84) (step : Nat) (s : State) : Res :=
  serve s (fun s => receive s f 1 true (fun s => takeCommitMsg s f step))

/-- ABORT. -/
def execAbort (f : Fin 84) (step attempt : Nat) (causes : BitVec 8) (s : State) : Res :=
  serve s (fun s => receive s f 1 true (fun s => takeAbort s f step attempt causes))

/-- FAULT. -/
def execFault (f : Fin 84) (s : State) : Res := serve s (fun s => receive s f 1 true (fun s => takeFault s f))

/-- BUNDLE_DOWN_TIMEOUT. -/
def execBundleDownTimeout (b : Fin 12) (s : State) : Res := serve s (fun s => bundleTimeout s b)

end Sys2Proof.Machine
end

