-- ==== Sys2Proof/Machine/Power.lean ====
section
/-!
DEFINITION. Power, clocks and heat (14 R529 to R575, 18 R679, 19 R691): feeds, freezes, shorts and sensing faults, the
governor, throttling, the other thermal limits, the wafer clock and the laser sources.
-/

namespace Sys2Proof.Machine

open Sys2Proof

/-! ### Powering off -/

/-- What a rim keeps without any power: the list entries that live in the stack or in OTP (R546, R586). -/
def rimCold (r : Rim) : Rim := { Rim.reset with failed := r.failed, excluded := r.excluded, repairs := r.repairs }

/-- Every switched domain off and its contents lost (R544, R632, R699): OTP, the non-volatile store, what is plugged in and
the Demitasse stay. The boot stage becomes `stage`. -/
def coldState (s : State) (stage : Nat) : State :=
  let z := State.reset
  let t := fieldsOff { z with
    wafer := { z.wafer with rims := mapAll s.wafer.rims rimCold, repair := s.wafer.repair }
    host := { z.host with
      fw := { z.host.fw with stored := s.host.fw.stored, raise := s.host.fw.raise }
      mb := { z.host.mb with stage := BitVec.ofNat 8 stage }
      perst := s.host.perst }
    ckpt := { z.ckpt with captureSeq := s.ckpt.captureSeq }
    gal := { z.gal with up0 := s.gal.up0, up1 := s.gal.up1 }
    tree := { z.tree with cfg := s.tree.cfg, lasers := s.tree.lasers }
    pwr := { z.pwr with
      feedA := s.pwr.feedA
      feedB := s.pwr.feedB
      fields := mapAll s.pwr.fields (fun q => { FieldPwr.reset with darkenings := q.darkenings })
      converters := s.pwr.converters
      thermistors := s.pwr.thermistors
      gov := { z.pwr.gov with inlet := s.pwr.gov.inlet, flow := s.pwr.gov.flow }
      noJobs := s.pwr.noJobs }
    rel := { z.rel with ues := s.rel.ues, ces := s.rel.ces, retest := s.rel.retest, hbmRows := s.rel.hbmRows }
    sec := { z.sec with
      life := s.sec.life, revoked := s.sec.revoked, owner := s.sec.owner, rollback := s.sec.rollback
      unlockSeq := s.sec.unlockSeq, returns := s.sec.returns, badCode := s.sec.badCode }
    dmt := { z.dmt with nextSeq := s.dmt.nextSeq }
    meter := s.meter
    out := s.out
    free := s.free
    pending := s.pending }
  t

/-- FULL_RESET (R544): the start begins again at stage 1. -/
def resetAll (s : State) : State := coldState s 0x01

/-- Stages 3 to 7 of a start. -/
def starting (s : State) : Bool := decide (3 ≤ s.host.mb.stage.toNat ∧ s.host.mb.stage.toNat ≤ 7)

/-! ### Freezes (R540, R541, R543, R679) -/

/-- Issue freezes. During stages 3 to 7 the wafer powers down and the start goes back to stage 3. -/
def freeze (s : State) : State :=
  if s.wafer.frozen then s
  else
    let s := onPwr s (fun p => { p with ctrs := bumpAt p.ctrs 0x31108 1, longWait := 0 })
    if starting s then
      let s := setStage (dropWafer s) 3
      onW s (fun w => { w with frozen := true })
    else if waferPowered s then
      onW s (fun w =>
        { w with frozen := true, fields := mapAll w.fields (fun x => { x with level := 0 }) })
    else s

/-- A feed by its letter. -/
def feedOf (s : State) (d : Feed) : FeedState := match d with | .a => s.pwr.feedA | .b => s.pwr.feedB
def onFeed (s : State) (d : Feed) (f : FeedState → FeedState) : State :=
  onPwr s (fun p => match d with | .a => { p with feedA := f p.feedA } | .b => { p with feedB := f p.feedB })

/-- The detector of a feed, and its location (R578, R599). -/
def feedDet (d : Feed) (base : Nat) : Nat := match d with | .a => base | .b => base + 1
def feedLoc (d : Feed) : Nat := match d with | .a => 0xC3 | .b => 0xC4

/-- FEED_BELOW_44V. -/
def feedLow (s : State) (d : Feed) (inj : Bool := false) : State :=
  if (feedOf s d).runs || inj then freeze (detectAt s (feedDet d 0x0401) 1 (feedLoc d) 0 inj) else s

/-- True where a rail's domain is on. -/
def railOn (s : State) (r : Rail) : Bool :=
  let wafer := waferPowered s || starting s
  match r with
  | .bus12 => true
  | .vddF f => wafer && fieldUp s.wafer f
  | .vddM f => wafer && fieldUp s.wafer f
  | .vddR k => wafer && !(rimAt s.wafer k).failed
  | .laser => false
  | _ => true

/-- RAIL_BELOW_WARNING: every rail but the laser rail freezes issue; three of them have a detector. -/
def railLow (s : State) (r : Rail) (inj : Bool := false) : State :=
  if !railOn s r && !inj then s
  else
    let s := match r with
      | .vddF f => detectAt s 0x0228 1 f 0 inj
      | .vddM f => detectAt s 0x0229 1 f 0 inj
      | .bus12 => detectAt s 0x0409 1 0xC2 0 inj
      | _ => s
    freeze s

/-- True where one feed runs the module. -/
def oneFeed (s : State) : Bool := s.pwr.feedA.runs != s.pwr.feedB.runs

/-- FREEZE_RECOVERY: on one feed the clock becomes 1.0 GHz (R542); the step is aborted, with the causes that fell into the
freeze, and the arrays ramp up before they issue. -/
def recoverFreeze (s : State) : State :=
  if !s.wafer.frozen then s
  else
    let s := onW s (fun w => { w with frozen := false })
    let s := onPwr s (fun p => { p with gov := { p.gov with hold := 500 } })
    let s := if oneFeed s then onPwr s (fun p => { p with gov := { p.gov with
      clock := 40, slew := none, vddHigh := false, vddDue := none } }) else s
    if waferPowered s then
      let s := onPwr s (fun p => { p with ramp := stepping s })
      abortHere s (s.train.step.due ||| 1)
    else s

/-- FREEZE_TIMEOUT: the job stops and the wafer goes to Retention. -/
def timeoutFreeze (s : State) : State := if s.wafer.frozen && waferPowered s then stopToRetention s else s

/-! ### Feeds (R531, R532, R542) -/

/-- FEED_LOST. -/
def loseFeed (s : State) (d : Feed) (inj : Bool := false) : State :=
  if (feedOf s d).runs then
    detectAt (onFeed s d (fun f => { f with present := false, lost := true })) (feedDet d 0x0403) 1 (feedLoc d) 0 inj
  else s

/-- FEED_REJOIN. -/
def rejoinFeed (s : State) (d : Feed) : State :=
  let f := feedOf s d
  if (f.lost || f.isolated) && !f.reversed then
    onFeed s d (fun f => { f with present := true, lost := false, isolated := false })
  else s

/-- FEED_OVERVOLTAGE. -/
def overvoltFeed (s : State) (d : Feed) (inj : Bool := false) : State :=
  if (feedOf s d).isolated then s
  else detectAt (onFeed s d (fun f => { f with present := false, isolated := true })) (feedDet d 0x0407) 0 (feedLoc d) 0 inj

/-- FEED_REVERSED. -/
def reverseFeed (s : State) (d : Feed) (inj : Bool := false) : State :=
  if (feedOf s d).reversed then s
  else detectAt (onFeed s d (fun f => { f with present := false, reversed := true })) (feedDet d 0x0405) 0 (feedLoc d) 0 inj

/-! ### A field taken out (R545, R548, R561, R564) -/

/-- What follows a field's loss while the module is Active: the abort with its cause, once the freeze is over where one holds;
between steps, or at a module that has sent PREPARED, the map is settled at once. In a start, stage 6 settles it. -/
def afterLoss (s : State) (cause : BitVec 8) : State :=
  if !waferPowered s then s
  else if s.train.step.begun && !s.tree.step.prepSent then
    if s.wafer.frozen then onStep s (fun x => { x with due := x.due ||| cause }) else abortHere s cause
  else settleLoss s true

/-- True where a field can be taken out now. -/
def fieldIn (s : State) (f : Nat) : Bool := fieldUp s.wafer f && (waferPowered s || starting s)

/-- REGULATOR_TRIP: the field is recorded as shorted, but not where an injection tripped it (R601). -/
def tripField (s : State) (f : Nat) (inj : Bool := false) : State :=
  if !fieldIn s f then s
  else
    let s := darken s f .short
    let s := if inj then onFp s f (fun q => { q with injected := true }) else recordField s f 4
    afterLoss (detectAt s 0x022A 1 f 0 inj) 0x02

/-- A field darkened as if at 115 °C, for `det`; a third time records it (R562). Whether the three lie within 1,000 hours is
open here. -/
def darkenHot (s : State) (f det : Nat) (inj : Bool) : State :=
  let n := (fpAt s f).darkenings + 1
  let s := setSticky (darken s f .dark) 3
  let s := if inj then onFp s f (fun q => { q with injected := true })
    else
      let (close, s) := if 3 ≤ n then drawBit s else (false, s)
      let s := onFp s f (fun q => { q with darkenings := n })
      if close then onFp (recordField s f 6) f (fun q => { q with state := .failed }) else s
  afterLoss (detectAt (postEvent s 0x07 (some (BitVec.ofNat 32 f))) det 1 f 0 inj) 0x04

/-- SENSE_TEST (R548): one open pair is reported when it opens; two darken the field, which is recorded. -/
def testSense (s : State) (f : Nat) (openA openB : Bool) : State :=
  if !fieldIn s f then s
  else
    let (p, w) := fieldInject s.wafer f 0x0226 0x022C
    let both := decide (p = some 0x022C)
    let inA := openA || both || decide (p = some 0x0226)
    let inB := openB || both || decide (p = some 0x0227)
    let s := { s with wafer := if p = some 0x0226 ∨ p = some 0x0227 ∨ both then w else s.wafer }
    let q := fpAt s f
    let s := onFp s f (fun q => { q with senseA := inA, senseB := inB })
    if inA && inB then
      let real := openA && openB
      let s := setSticky (darken s f (if real then .sense else .dark)) 3
      let s := if real then recordField s f 5 else onFp s f (fun q => { q with injected := true })
      afterLoss (detectAt (postEvent s 0x07 (some (BitVec.ofNat 32 f))) 0x022C 1 f 0 (!real)) 0x04
    else
      let s := if inA && !q.senseA then detectAt s 0x0226 0 f 0 (!openA) else s
      if inB && !q.senseB then detectAt s 0x0227 0 f 0 (!openB) else s

/-! ### Shorts of other domains (R547) -/

/-- The job stopped by a severity-2 cause that has no detector. -/
def stopOpen (s : State) : State := if jobOpen s then stopJob s else s

/-- DOMAIN_SHORT. -/
def shortDomain (s : State) (d : ShortDomain) : State :=
  match d with
  | .rim k =>
    let s := onW s (fun w => { onRim w k (fun r => { rimOff r with mem := [], blocks := [], failed := true }) with
      repair := { w.repair with rims := insertUp k.val (w.repair.rims.filter (fun x => x != k.val)) } })
    onPwr (stopOpen s) (fun p => { p with noJobs := true })
  | .hbmAux =>
    let s := onW s (fun w => (List.range 16).foldl (fun w k =>
      onRim w k (fun r => { r with mem := [], blocks := [], unc := [], cor := [], failed := true })) w)
    onPwr (stopOpen s) (fun p => { p with noJobs := true })
  | .laser =>
    let s := onPwr s (fun p => { p with laserOff := true })
    (List.range 84).foldl (fun s f => if (portAt s f).state = .off then s else portDown s f) s
  | .companionDie => coldState s 0x00
  | .companionMemory => coldState s 0x00

/-- THERMISTOR_FAILURE (R549). -/
def failThermistor (s : State) (i : Nat) (shorted : Bool) : State :=
  if s.pwr.thermistors.getLsbD i then s
  else detectAt (onPwr s (fun p => { p with thermistors := p.thermistors ||| (1#8 <<< i) }))
    ((if shorted then 0x0428 else 0x0420) + i) 0 0xC2 i

/-- BUS_CONVERTER_FAIL (R533). -/
def failConverter (s : State) (i : Nat) : State :=
  if s.pwr.converters.getLsbD i then s
  else detectAt (onPwr s (fun p => { p with converters := p.converters ||| (1#16 <<< i) })) (0x0410 + i) 0 0xC2 i

/-! ### The governor (R550 to R557) -/

def onGov (s : State) (f : Gov → Gov) : State := onPwr s (fun p => { p with gov := f p.gov })

/-- True while a field reads hot enough to be throttled (R560, R563). -/
def fieldHot (s : State) (f : Nat) : Bool := decide (105 ≤ (fpAt s f).tmax ∨ 100 ≤ (fpAt s f).tmem)

/-- The conditions of boost but for the 1 s average (R555). -/
def boostOk (s : State) : Bool :=
  s.pwr.gov.boost && s.pwr.feedA.runs && s.pwr.feedB.runs &&
    (List.range 84).all (fun f => !fieldUp s.wafer f || (decide ((fpAt s f).duty = 16) && decide ((fpAt s f).tmax ≤ 95))) &&
    decide (s.pwr.gov.inlet ≤ 350)

/-- Why the clock steps down now (R574), 0 for no cause. `g.down` carries a stepping that has begun and continues until
its average is low enough. -/
def downCause (s : State) : Nat :=
  let g := s.pwr.gov
  let l := limitW s
  if l = 25000 ∧ 25000 < g.avgMs ∧ 28500 < g.avgMs then 2
  else if l = 25000 ∧ 25000 < g.avgMs ∧ (g.credit = 0 ∨ g.down = 1 ∨ g.down = 2) then (if g.down = 2 then 2 else 1)
  else if l < 25000 ∧ l < g.avg10 then 3
  else if 60 < g.clock ∧ (22000 ≤ g.avg100 ∨ !boostOk s) then 4
  else if s.pwr.throttleStep ≠ [] then 5
  else if s.pwr.hbmHot ≠ [] then 6
  else 0

/-- True while the governor holds (R557): through a freeze and 50 ms beyond. -/
def govHeld (s : State) : Bool := s.wafer.frozen || decide (0 < s.pwr.gov.hold)

/-- GOVERNOR_SAMPLE: the sensors read, a millisecond's credit, and the stepping. Armed points 0x0430 and 0x0431 replace a
reading, and 0x0420 to 0x042F fail a thermistor for the sample. -/
def sampleGovernor (s : State) (r : GovReading) : State :=
  let (p, w) := modInject s.wafer 0x0420 0x0431
  let s := { s with wafer := w }
  let inlet := if p = some 0x0430 then 380 else r.inlet
  let flow := if p = some 0x0431 then 250 else r.flow
  let warm := decide (350 < inlet) && decide (s.pwr.gov.inlet ≤ 350)
  let slow := decide (flow < 300) && decide (300 ≤ s.pwr.gov.flow)
  let s := onPwr s (fun x =>
    { x with feedA := { x.feedA with volts := r.feedA }, feedB := { x.feedB with volts := r.feedB }
             flowLost := x.flowLost && decide (flow < 200) })
  let s := onGov s (fun g =>
    { g with avgMs := if r.msEnd then r.avgMs else g.avgMs
             avg10 := r.avg10ms, avg100 := r.avg100ms, avg1s := r.avg1s, inlet := inlet, flow := flow })
  let s := if warm then detectAt s 0x0430 0 0xC2 0 (decide (p = some 0x0430)) else s
  let s := if slow then detectAt s 0x0431 0 0xC2 0 (decide (p = some 0x0431)) else s
  let s := match p with
    | some d => if d < 0x0430 then setSticky (detectAt s d 0 0xC2 (d % 8) true) 8 else s
    | none => s
  let held := govHeld s
  let s := if r.msEnd && decide (25000 < r.avgMs) then onPwr s (fun x => { x with ctrs := bumpAt x.ctrs 0x31110 1 }) else s
  let s := if r.msEnd && !held && decide (limitW s = 25000) then
      onGov s (fun g => { g with credit := if 25000 < r.avgMs then g.credit - 10 else min 4000 (g.credit + 1) })
    else s
  let s := onGov s (fun g => { g with hold := if s.wafer.frozen then g.hold else g.hold - 1 })
  onGov s (fun g => { g with down := downCause s })

/-- CLOCK_STEP_DOWN: one step of 25 MHz begins, where a cause stands; boost's stepping ends at 1.5 GHz. -/
def stepDown (s : State) : State :=
  let g := s.pwr.gov
  let c := downCause s
  if c ≠ 0 ∧ g.slew = none ∧ !govHeld s ∧ 30 < g.clock ∧ s.pwr.phase = .active then
    onPwr (onGov s (fun g => { g with slew := some (g.clock - 1), cause := c, down := c }))
      (fun x => { x with ctrs := bumpAt x.ctrs 0x31100 1 })
  else s

/-- The policy clock (R554). -/
def policyClock (s : State) : Nat := if s.pwr.gov.boost then 66 else 60

/-- CLOCK_STEP_UP: below the policy clock, with the 1 s average at most L - 1 kW; above 1.5 GHz under R555, VDD_F first. -/
def stepUp (s : State) : State :=
  let g := s.pwr.gov
  if g.clock < policyClock s ∧ g.avg1s + 1000 ≤ limitW s ∧ downCause s = 0 ∧ g.slew = none ∧ g.vddDue = none ∧ !govHeld s ∧
      s.pwr.phase = .active then
    if g.clock < 60 then onGov s (fun g => { g with slew := some (g.clock + 1) })
    else if boostOk s && decide (g.avg1s ≤ 21000) then
      (if g.vddHigh then onGov s (fun g => { g with slew := some (g.clock + 1) }) else onGov s (fun g => { g with vddDue := some true }))
    else s
  else s

/-- CLOCK_SLEW_DONE: the new clock holds; back at 1.5 GHz VDD_F is lowered. -/
def endSlew (s : State) : State :=
  match s.pwr.gov.slew with
  | some c => onGov s (fun g =>
      { g with clock := c, slew := none, vddDue := if c ≤ 60 ∧ g.vddHigh then some false else g.vddDue })
  | none => s

/-- VDD_F_CHANGE_DONE: a raised VDD_F lets the step it was raised for begin, if it may still be taken. -/
def endVdd (s : State) : State :=
  match s.pwr.gov.vddDue with
  | some up =>
    let s := onGov s (fun g => { g with vddHigh := up, vddDue := none })
    if up then (if boostOk s ∧ downCause s = 0 ∧ !govHeld s then onGov s (fun g => { g with slew := some (g.clock + 1) })
      else onGov s (fun g => { g with vddDue := some false }))
    else s
  | none => s

/-- GOVERNOR_FLOOR_STOP (R556). -/
def floorStop (s : State) : State :=
  if s.pwr.gov.clock = 30 ∧ limitW s < s.pwr.gov.avg100 then stopToRetention s else s

/-! ### Heat (R558 to R563) -/

/-- The pulses withheld from a field's arrays in the 20 µs of a thermal sample, at the clock in force (R558, R559; log 9). -/
def withheld (s : State) (f : Nat) : Nat := 500 * s.pwr.gov.clock * (16 - (fpAt s f).duty) / 16

/-- THERMAL_SAMPLE: the readings, what they cross, and a darkening: at 115 °C on two samples, or at 110 °C of the memory
wafer. An armed point replaces a reading; 0x0222 replaces two samples at once, and 0x022A trips the regulator. -/
def sampleHeat (s : State) (f : Nat) (junction memory : Int) : State :=
  if !fieldIn s f then s
  else
    let (p, w) := fieldInject s.wafer f 0x0221 0x0225
    let (trip, w) := fieldInject w f 0x022A 0x022A
    let s := { s with wafer := w }
    let j := if p = some 0x0221 then 106 else if p = some 0x0222 then 116 else junction
    let m := if p = some 0x0223 then 86 else if p = some 0x0224 then 101 else if p = some 0x0225 then 111 else memory
    let old := fpAt s f
    let hot := if p = some 0x0222 then 2 else if 115 ≤ j then old.hot + 1 else 0
    let n := withheld s f
    let s := onFp s f (fun q =>
      { q with tmax := j, tmem := m, hot := hot, ctrs := if n = 0 then q.ctrs else bumpAt q.ctrs 0xA100 n })
    let s := onW s (fun w => onField w f (fun x => { x with bds := { x.bds with hot := decide (85 < m) } }))
    let s := if fieldHot s f then s else onPwr s (fun x => { x with throttleStep := x.throttleStep.filter (fun g => g != f) })
    let crossed (b : Bool) (d : Nat) (s : State) : State := if b then detectAt s d 0 f 0 (decide (p = some d)) else s
    let s := crossed (decide (105 ≤ j ∧ old.tmax < 105)) 0x0221 s
    let s := crossed (decide (85 ≤ m ∧ old.tmem < 85)) 0x0223 s
    let s := crossed (decide (100 ≤ m ∧ old.tmem < 100)) 0x0224 s
    if 2 ≤ hot then darkenHot s f 0x0222 (decide (p = some 0x0222))
    else if 110 ≤ m then darkenHot s f 0x0225 (decide (p = some 0x0225))
    else if trip.isSome then tripField s f true
    else s

/-- THROTTLE_DUTY_DOWN: entry posts event 0x08 and counts. -/
def dutyDown (s : State) (f : Nat) : State :=
  let q := fpAt s f
  if fieldIn s f && fieldHot s f && decide (8 < q.duty) then
    let s := onFp s f (fun q => { q with duty := q.duty - 1 })
    if q.duty = 16 then postEvent (onFp s f (fun q => { q with ctrs := bumpAt q.ctrs 0xA108 1 })) 0x08 else s
  else s

/-- THROTTLE_DUTY_UP: exit posts event 0x08. -/
def dutyUp (s : State) (f : Nat) : State :=
  let q := fpAt s f
  if fieldIn s f && decide (q.tmax ≤ 100 ∧ q.tmem < 100 ∧ q.duty < 16) then
    let s := onFp s f (fun q => { q with duty := q.duty + 1 })
    if q.duty = 15 then postEvent s 0x08 else s
  else s

/-- THROTTLE_FLOOR_TIMEOUT: the governor steps the clock down while the field stays hot at duty 8. -/
def floorHot (s : State) (f : Nat) : State :=
  if fieldIn s f && fieldHot s f && decide ((fpAt s f).duty = 8) && !s.pwr.throttleStep.contains f then
    onPwr s (fun p => { p with throttleStep := p.throttleStep ++ [f] })
  else s

/-- HBM_OVERTEMP: an armed point 0x0303 or 0x0304 replaces the reading. -/
def heatStack (s : State) (k : Nat) (temp : Int) : State :=
  if !waferPowered s then s
  else
    let (p, w) := rimInject s.wafer k 0x0303 0x0304
    let s := { s with wafer := w }
    let t := if p = some 0x0303 then 96 else if p = some 0x0304 then 106 else temp
    if 105 ≤ t then stopToRetention (detectAt s 0x0304 2 (96 + k) 0 p.isSome)
    else if 95 ≤ t then
      (if s.pwr.hbmHot.contains k then s
        else onPwr (detectAt s 0x0303 0 (96 + k) 0 p.isSome) (fun x => { x with hbmHot := x.hbmHot ++ [k] }))
    else onPwr s (fun x => { x with hbmHot := x.hbmHot.filter (fun g => g != k) })

/-- COMPANION_OVERTEMP below the full reset: an armed point 0x0432 replaces the reading. -/
def heatCompanion (s : State) (temp : Int) : State :=
  let (p, w) := modInject s.wafer 0x0432 0x0432
  let s := { s with wafer := w }
  let t := if p.isSome then 106 else temp
  if 105 ≤ t then
    (if s.pwr.coresLow then s else detectAt (onPwr s (fun x => { x with coresLow := true })) 0x0432 0 0xC0 0 p.isSome)
  else onPwr s (fun x => { x with coresLow := false })

/-- COOLANT_INLET_TIMEOUT. -/
def inletTimeout (s : State) : State := if 400 < s.pwr.gov.inlet then stopToRetention s else s

/-- COOLANT_FLOW_TIMEOUT. -/
def flowTimeout (s : State) : State :=
  if s.pwr.gov.flow < 200 then stopToRetention (onPwr s (fun p => { p with flowLost := true })) else s

/-- COOLANT_FLOW_POWER_OFF. -/
def flowPowerOff (s : State) : State := if s.pwr.flowLost ∧ s.pwr.gov.flow < 200 then coldState s 0x21 else s

/-- COOLANT_CONDITIONS_LOST (R679): in stages 2 to 7. -/
def coolantLost (s : State) : State :=
  if 2 ≤ s.host.mb.stage.toNat ∧ s.host.mb.stage.toNat ≤ 7 then coldState s 0x21 else s

/-! ### The wafer clock (R568, R570) -/

/-- PLL_LOCK_LOSS: of the PLL at rim0 or rim8. The other one takes over at once; fields it cannot reach go dark, which aborts a
step (R568, R571), and a wafer that neither can clock stops and is held in Retention. -/
def losePll (s : State) (k : Nat) (inj : Bool := false) : State :=
  if (k = 0 ∧ s.pwr.pll0) ∨ (k = 8 ∧ s.pwr.pll8) then
    let s := onPwr s (fun p => if k = 0 then { p with pll0 := false } else { p with pll8 := false })
    let s := if k = 0 then detectAt s 0x030C 0 96 0 inj else s
    if k ≠ s.pwr.pllUse ∨ !waferPowered s then s
    else if (pickPll s).isNone then stopToRetention s
    else
      let t := retree s
      if t.wafer.off = s.wafer.off then t else afterLoss t 0x04
  else s

/-- CLOCK_INPUT_LOSS: the field takes its backup input. -/
def loseClock (s : State) (f : Nat) (inj : Bool := false) : State :=
  if fieldIn s f then detectAt (onFp s f (fun q => { q with clkSel := q.backup, backup := q.clkSel })) 0x022B 0 f 0 inj else s

/-! ### Laser sources (R691) -/

/-- LASER_SOURCE_MODULE_CHANGE: a bay without its source takes its bundle down; a named one is a failed source. -/
def changeLaser (s : State) (b : Nat) (latched : Bool) (inj : Bool := false) : State :=
  if latched then onTree s (fun t => { t with lasers := t.lasers ||| (1#12 <<< b) })
  else
    let lit := bundleLit s b
    let s := onTree s (fun t => { t with lasers := t.lasers &&& ~~~(1#12 <<< b) })
    let s := (bundlePorts b).foldl (fun s f => if (portAt s f).state = .off then s else portDown s f) s
    if lit then detectAt s (0x0440 + b) 1 0xC5 b inj else s

/-! ### The commands -/

/-- FEED_BELOW_44V. -/
def execFeedBelow44v (d : Feed) (s : State) : Res := serve s (fun s => feedLow s d)

/-- RAIL_BELOW_WARNING. -/
def execRailBelowWarning (r : Rail) (s : State) : Res := serve s (fun s => railLow s r)

/-- FREEZE_RECOVERY. -/
def execFreezeRecovery (s : State) : Res := serve s recoverFreeze

/-- FREEZE_TIMEOUT. -/
def execFreezeTimeout (s : State) : Res := serve s timeoutFreeze

/-- FEED_LOST. -/
def execFeedLost (d : Feed) (s : State) : Res := serve s (fun s => loseFeed s d)

/-- FEED_REJOIN. -/
def execFeedRejoin (d : Feed) (s : State) : Res := serve s (fun s => rejoinFeed s d)

/-- FEED_OVERVOLTAGE. -/
def execFeedOvervoltage (d : Feed) (s : State) : Res := serve s (fun s => overvoltFeed s d)

/-- FEED_REVERSED. -/
def execFeedReversed (d : Feed) (s : State) : Res := serve s (fun s => reverseFeed s d)

/-- FULL_RESET. -/
def execFullReset (s : State) : Res := .next (resetAll s)

/-- REGULATOR_TRIP. -/
def execRegulatorTrip (f : Fin 84) (s : State) : Res := serve s (fun s => tripField s f)

/-- DOMAIN_SHORT. -/
def execDomainShort (d : ShortDomain) (s : State) : Res :=
  match d with
  | .companionDie => .next (shortDomain s d)
  | .companionMemory => .next (shortDomain s d)
  | _ => serve s (fun s => shortDomain s d)

/-- SENSE_TEST. -/
def execSenseTest (f : Fin 84) (openA openB : Bool) (s : State) : Res := serve s (fun s => testSense s f openA openB)

/-- THERMISTOR_FAILURE. -/
def execThermistorFailure (i : Fin 8) (shorted : Bool) (s : State) : Res := serve s (fun s => failThermistor s i shorted)

/-- BUS_CONVERTER_FAIL. -/
def execBusConverterFail (i : Fin 16) (s : State) : Res := serve s (fun s => failConverter s i)

/-- GOVERNOR_SAMPLE. -/
def execGovernorSample (r : GovReading) (s : State) : Res := serve s (fun s => sampleGovernor s r)

/-- CLOCK_STEP_DOWN. -/
def execClockStepDown (s : State) : Res := .next (stepDown s)

/-- CLOCK_STEP_UP. -/
def execClockStepUp (s : State) : Res := .next (stepUp s)

/-- CLOCK_SLEW_DONE. -/
def execClockSlewDone (s : State) : Res := serve s endSlew

/-- VDD_F_CHANGE_DONE. -/
def execVddFChangeDone (s : State) : Res := .next (endVdd s)

/-- GOVERNOR_FLOOR_STOP. -/
def execGovernorFloorStop (s : State) : Res := serve s floorStop

/-- THERMAL_SAMPLE. -/
def execThermalSample (f : Fin 84) (junction memory : Int) (s : State) : Res := serve s (fun s => sampleHeat s f junction memory)

/-- THROTTLE_DUTY_DOWN. -/
def execThrottleDutyDown (f : Fin 84) (s : State) : Res := serve s (fun s => dutyDown s f)

/-- THROTTLE_DUTY_UP. -/
def execThrottleDutyUp (f : Fin 84) (s : State) : Res := serve s (fun s => dutyUp s f)

/-- THROTTLE_FLOOR_TIMEOUT. -/
def execThrottleFloorTimeout (f : Fin 84) (s : State) : Res := .next (floorHot s f)

/-- HBM_OVERTEMP. -/
def execHbmOvertemp (k : Fin 16) (temp : Int) (s : State) : Res := serve s (fun s => heatStack s k temp)

/-- COMPANION_OVERTEMP. -/
def execCompanionOvertemp (temp : Int) (s : State) : Res :=
  if 115 ≤ temp then .next (resetAll s) else serve s (fun s => heatCompanion s temp)

/-- COOLANT_INLET_TIMEOUT. -/
def execCoolantInletTimeout (s : State) : Res := serve s inletTimeout

/-- COOLANT_FLOW_TIMEOUT. -/
def execCoolantFlowTimeout (s : State) : Res := serve s flowTimeout

/-- COOLANT_FLOW_POWER_OFF. -/
def execCoolantFlowPowerOff (s : State) : Res := .next (flowPowerOff s)

/-- COOLANT_CONDITIONS_LOST. -/
def execCoolantConditionsLost (s : State) : Res := .next (coolantLost s)

/-- PLL_LOCK_LOSS. -/
def execPllLockLoss (rim : Fin 16) (s : State) : Res := serve s (fun s => losePll s rim)

/-- CLOCK_INPUT_LOSS. -/
def execClockInputLoss (f : Fin 84) (s : State) : Res := serve s (fun s => loseClock s f)

/-- LASER_SOURCE_MODULE_CHANGE. -/
def execLaserSourceModuleChange (bay : Fin 12) (latched : Bool) (s : State) : Res := serve s (fun s => changeLaser s bay latched)

end Sys2Proof.Machine
end

