-- ==== Sys2Proof/Machine/Boot.lean ====
section
/-!
DEFINITION. From power-on to ready (18 R665 to R680), measurements at a start (16 R613, R614), resets of the function and of
the module (12 R456, 19 R694, R699), the watchdog and the heart beat (15 R603, 20 R715), and the Ethernet links (11 R449).
-/

namespace Sys2Proof.Machine

open Sys2Proof

/-! ### A control-processor start (R613, R614, R621, R627, R628) -/

/-- The measurement registers zeroed and extended with what is in force; the level becomes Closed. -/
def startMeasure (s : State) : State :=
  let s := { s with sec := { s.sec with mr := [], level := .closed, challenge := none, refused := 0, unlocks := 0 } }
  let s := destroyKeys s
  match s.host.fw.running with
  | none => s
  | some i =>
    let s := extendMr (extendMr s 0 (beBytes 32 i.sm3.toNat)) 1 (beBytes 32 i.ucode.toNat)
    let s := if s.wafer.repair.id = 0 then s else extendMr s 2 (beBytes 32 (Config.sm3 (mapBytes s.wafer.repair)).toNat)
    let s := if metered s then extendMr s 3 (beBytes 32 s.dmt.idHash.toNat) else s
    levelRecord s 0xFF

/-- The ROM's choice: a stored image whose key is not revoked and whose security version the anti-rollback counter admits
runs (R609, R610). -/
def bootImage (s : State) : State :=
  onHost s (fun h => { h with fw :=
    match h.fw.stored with
    | some i => if s.sec.rollback ≤ i.svn ∧ !s.sec.revoked.getLsbD i.slot then { h.fw with running := some i, raise := false } else { h.fw with running := none }
    | none => { h.fw with running := none } })

/-- The anti-rollback counter raised at a good boot that was asked to raise it (R491). -/
def raiseCounter (s : State) : State :=
  match s.host.fw.stored with
  | some i => if s.host.fw.raise ∧ s.sec.rollback ≤ i.svn then { s with sec := { s.sec with rollback := i.svn } } else s
  | none => s

/-! ### The stages (R665 to R677) -/

/-- STAGE_ALWAYS_ON: the conditions of R667, or the code of what fails. -/
def stageOne (s : State) (a b : Nat) (inlet : Int) (flow : Nat) (identity : List Byte) : State :=
  if s.host.mb.stage ≠ 0x01 ∧ s.host.mb.stage ≠ 0x20 ∧ s.host.mb.stage ≠ 0x21 then s
  else
    let feed (f : FeedState) (v : Nat) : FeedState :=
      { f with volts := v, present := decide (480 ≤ v ∧ v ≤ 580) && !f.reversed, lost := false, isolated := decide (600 < v) }
    let s := onPwr s (fun p => { p with feedA := feed p.feedA a, feedB := feed p.feedB b })
    let s := onGov s (fun g => { g with inlet := inlet, flow := flow })
    let s := { s with dmt := { s.dmt with
      loop := !identity.isEmpty, idOk := Config.meterIdGood identity, idHash := Config.sm3 identity } }
    let t := s.pwr.thermistors
    if !(s.pwr.feedA.runs || s.pwr.feedB.runs) || decide (600 < a ∨ 600 < b) then setStage s 0x20
    else if decide (t &&& 0x03 = 0x03 ∨ t &&& 0x0C = 0x0C ∨ 400 < inlet ∨ flow < 200) then setStage s 0x21
    else setStage s 0x02

/-- STAGE_COMPANION: the firmware verified, the function on a port that trained, the measurements made. The wafer stays in
Retention under the recovery loader, with rejected code or map, and in Scrapped (R609, R612, R633, R668). -/
def stageTwo (s : State) (port0 port1 : Bool) : State :=
  if s.host.mb.stage ≠ 0x02 ∨ s.pwr.phase ≠ .standby then s
  else
    let s := bootImage (raiseCounter s)
    let s := startMeasure (onHost s (fun h => { h with linkUp0 := port0, linkUp1 := port1, port := !port0 && port1 }))
    let stay (c : Nat) : State := setStage (onPwr s (fun p => { p with phase := .retention })) c
    if s.host.fw.running.isNone then stay 0x30
    else if s.sec.badCode then stay 0x31
    else if s.sec.life = .scrapped then stay 0x11
    else setStage s 0x03

/-- STAGE_MEMORY_WAFER: rims and VDD_M on, and the march test; a failed slice retires its tile in stage 6. -/
def stageThree (s : State) (failed : List Nat) : State :=
  if s.host.mb.stage ≠ 0x03 ∨ s.wafer.frozen then s
  else setStage (onPwr s (fun p => { p with failedSlices := failed })) 0x04

/-- STAGE_FIELDS: every field that is not recorded failed powers up, from no field powered; one whose rail
fails twice is recorded (R671). -/
def stageFour (s : State) (failed : List Nat) : State :=
  if s.host.mb.stage ≠ 0x04 ∨ s.wafer.frozen then s
  else
    let s := onW s (fun w => { w with off := BitVec.allOnes 84 })
    let s := (List.range 84).foldl (fun s f =>
      if s.wafer.repair.fields.any (fun p => p.1 == f) then s
      else if failed.contains f then
        detectAt (onFp (recordField s f 6) f (fun q => { q with state := .failed })) 0x0228 1 f 0
      else restoreField s f) s
    let s := onW s (fun w => { w with fields := mapAll w.fields (fun x => { x with level := 0 }) })
    setStage s 0x05

/-- STAGE_CLOCK: the PLLs, the forwarding tree, and 1.5 GHz; a field whose clock is off is darkened, one whose backup alone is
off is reported (R672). A wafer that cannot be clocked is held in Retention (R568). -/
def stageFive (s : State) (pll0 : Bool) (bad backup : List Nat) : State :=
  if s.host.mb.stage ≠ 0x05 ∨ s.wafer.frozen then s
  else
    let s := onPwr s (fun p => { p with pll0 := pll0, pll8 := true, pllUse := if pll0 then 0 else 8 })
    let s := bad.foldl (fun s f => if fieldUp s.wafer f then darken s f .dark else s) s
    let s := backup.foldl (fun s f => if fieldUp s.wafer f then detectAt s 0x022B 0 f 0 else s) s
    if (pickPll s).isNone then enterRetention s
    else
      setStage (refit (onGov s (fun g => { g with clock := 60, slew := none, vddHigh := false, vddDue := none, down := 0 }))) 0x06

/-- The manufacture map (R593), where no map has been put in force yet. -/
def firstMap (s : State) : State :=
  if s.wafer.repair.id = 0 then
    onW s (fun w => { w with repair := { w.repair with
      map := (List.range 5120).map (fun p => (p, some (Config.factoryMap p)))
      id := Config.factoryMapId, rows := 64, retired := Config.factoryRetired.foldr insertUp [] } })
  else s

/-- STAGE_TILES: self-test, retirements, the map, the routes and the clock tree; tile memories are clear (R673, R674), the
RWS counts stay (R606). -/
def stageSix (s : State) (failed : List Nat) : State :=
  if s.host.mb.stage ≠ 0x06 ∨ s.wafer.frozen then s
  else
    let fresh := decide (s.wafer.repair.id = 0)
    let s := firstMap s
    let new := (failed ++ s.pwr.failedSlices).filter (fun t => fieldUp s.wafer (t / 64) && !s.wafer.repair.retired.contains t)
    let s := new.foldl retireTile s
    let id := s.wafer.repair.id
    let s := settleMap s (!new.isEmpty)
    let s := if fresh ∧ s.wafer.repair.id = id then extendMr s 2 (beBytes 32 (Config.sm3 (mapBytes s.wafer.repair)).toNat) else s
    setStage (onW s (fun w => { w with tiles := mapAll w.tiles lostTile })) 0x07

/-- A UCIe port's modules after training; an armed point 0x030B fails one (R368). -/
def trainUcie (s : State) (k n : Nat) : State :=
  let (inj, w) := rimInject s.wafer k 0x030B 0x030B
  let n := min 8 n - b2n inj.isSome
  let s := { s with wafer := onRim w k (fun r => { r with ucie := n }) }
  if n = 8 then s
  else setSticky (detectAt s 0x030B (if n = 0 then 2 else 0) (96 + k) 0 inj.isSome) 2

/-- STAGE_LINKS: HBM, UCIe, Ethernet and the field ports of the stored tree configuration (R675 to R677). -/
def stageSeven (s : State) (failed : List Nat) (ucie0 ucie8 : Nat) (eth0 eth1 : Bool) : State :=
  if s.host.mb.stage ≠ 0x07 ∨ s.wafer.frozen ∨ s.pwr.linked then s
  else
    let s := onW s (fun w => failed.foldl (fun w k => onRim w k (fun r => { r with failed := true })) w)
    let s := if failed.isEmpty then s else onPwr s (fun p => { p with noJobs := true })
    let s := trainUcie (trainUcie s 0 ucie0) 8 ucie8
    let s := { s with gal := { s.gal with up0 := eth0, up1 := eth1 } }
    let s := (List.range 84).foldl (fun s f =>
      if (namedBundles s).contains (f / 7) ∧ fieldUp s.wafer f then
        (if bundleLit s (f / 7) then startTraining s f else onPort s f (fun p => { p with state := .down }))
      else s) s
    onPwr s (fun p => { p with linked := true })

/-- READY_POST: after stage 7 the module is Active; after a warm restart it is in the power state it was in. -/
def postReady (s : State) : State :=
  if s.host.mb.stage = 0x07 ∧ s.pwr.linked ∧ !s.wafer.frozen then
    let s := setStage (onPwr s (fun p => { p with phase := .active, linked := false })) 0x10
    completeAll s (fun p => decide (p.state = .power 0)) 0
  else if s.host.mb.stage = 0x02 ∧ s.pwr.phase ≠ .standby then
    setStage s (if s.sec.badCode then 0x31 else if s.pwr.phase = .active then 0x10 else 0x11)
  else s

/-! ### Warm restarts (R456, R603, R680, R694) -/

/-- A warm restart: rings off, any job closed by a switch, any wipe, a new start of the control processor. The wafer keeps its
power, map, routes and clock. -/
def warmStart (s : State) : State :=
  let s := onHost s (fun h => { h with
    rings := [], progs := [], events := [], dropped := 0, heldOut := [], cfg := .reset })
  let s := closeNow s
  let s := if levelCode s.sec.level ≥ 2 then debugWipe s else s
  let s := onW s disarmAll
  let s := startMeasure (bootImage (raiseCounter s))
  let s := onHost s (fun h => { h with mb := { h.mb with event := h.mb.event ||| 0x20, stage := 0x02 } })
  let s := if 0x20#6 &&& s.host.mb.mask ≠ 0 then raiseMsix s 8 else s
  if s.host.fw.running.isNone then setStage (if s.pwr.phase = .active then dropWafer s else s) 0x30 else s

/-- True while the companion die runs and is past its start. -/
def companionUp (s : State) : Bool := serving s

/-- FLR: a warm restart that also takes the function's own PCIe state back to its reset. -/
def resetFunction (s : State) : State :=
  if companionUp s then onHost (warmStart s) (fun h => { h with msix := [], pba := 0, busMast := false }) else s

/-- PERST: asserted, the port's link is down; deasserted on the port that carried the function, a warm restart follows. -/
def pcieReset (s : State) (port : Nat) (asserted : Bool) : State :=
  let s := onHost s (fun h => if port = 0 then { h with linkUp0 := !asserted } else { h with linkUp1 := !asserted })
  if port ≠ b2n s.host.port then s
  else if asserted then onHost s (fun h => { h with perst := true, busMast := false })
  else if s.host.perst then
    let s := onHost s (fun h => { h with perst := false })
    if companionUp s then onHost (warmStart s) (fun h => { h with msix := [], pba := 0 }) else s
  else s

/-- WATCHDOG_EXPIRY (R603): the job stops and is lost, and the control processor restarts; the record stays. -/
def watchdog (s : State) (inj : Bool := false) : State :=
  if companionUp s then
    let s := if s.train.step.begun then setSticky s 13 else s
    let s := if jobOpen s ∧ s.train.state ≠ .stopped then stopNow s else s
    detectAt (warmStart s) 0x0437 3 0xC0 0 inj
  else s

/-! ### The commands -/

/-- STAGE_ALWAYS_ON. -/
def execStageAlwaysOn (feedA feedB : Nat) (inlet : Int) (flow : Nat) (identity : List Byte) (s : State) : Res :=
  noting s (fun s => stageOne s feedA feedB inlet flow identity)

/-- STAGE_COMPANION. -/
def execStageCompanion (pciePort0 pciePort1 : Bool) (s : State) : Res := noting s (fun s => stageTwo s pciePort0 pciePort1)

/-- STAGE_MEMORY_WAFER. -/
def execStageMemoryWafer (failedSlices : List TileId) (s : State) : Res :=
  noting s (fun s => stageThree s (failedSlices.map tkey))

/-- STAGE_FIELDS. -/
def execStageFields (failedRails : List (Fin 84)) (s : State) : Res := serve s (fun s => stageFour s (failedRails.map Fin.val))

/-- STAGE_CLOCK. -/
def execStageClock (pll0 : Bool) (check : ClockCheck) (s : State) : Res :=
  serve s (fun s => stageFive s pll0 (check.selected.map Fin.val) (check.backup.map Fin.val))

/-- STAGE_TILES. -/
def execStageTiles (failedTiles : List TileId) (s : State) : Res := noting s (fun s => stageSix s (failedTiles.map tkey))

/-- STAGE_LINKS. -/
def execStageLinks (failedStacks : List (Fin 16)) (ucie0 ucie8 : Nat) (eth0 eth1 : Bool) (s : State) : Res :=
  serve s (fun s => stageSeven s (failedStacks.map Fin.val) ucie0 ucie8 eth0 eth1)

/-- READY_POST: vector 8 is raised whatever the mask holds (R678). -/
def execReadyPost (s : State) : Res :=
  let t := postReady s
  if t.host.mb.stage = s.host.mb.stage then .next t
  else .next (if mbChanges s t &&& ~~~t.host.mb.event &&& t.host.mb.mask = 0 then raiseMsix (notice s t) 8 else notice s t)

/-- WARM_RESTART. -/
def execWarmRestart (s : State) : Res := noting s (fun s => if companionUp s then warmStart s else s)

/-- FLR. -/
def execFlr (s : State) : Res := noting s resetFunction

/-- PERST. -/
def execPerst (port : Fin 2) (asserted : Bool) (s : State) : Res := noting s (fun s => pcieReset s port asserted)

/-- SYS_RESET (R699): a short pulse is ignored, a full one begins a cold start, and one between has an undefined effect. -/
def execSysReset (lowMicroseconds : Nat) (s : State) : Res :=
  if lowMicroseconds < 100 then .next s
  else if lowMicroseconds < 1000 then .fault .undefinedResetPulse
  else .next (resetAll s)

/-- WATCHDOG_EXPIRY. -/
def execWatchdogExpiry (s : State) : Res := serve s (fun s => watchdog s)

/-- MB_HEART_BEAT: while the firmware serves rings. -/
def execMbHeartBeat (s : State) : Res :=
  .next (if serving s && !inRecovery s then onHost s (fun h => { h with mb := { h.mb with heart := h.mb.heart + 1 } }) else s)

/-- ETHERNET_LINK_CHANGE. -/
def execEthernetLinkChange (port : Fin 2) (up : Bool) (s : State) : Res :=
  .next { s with gal := if port = 0 then { s.gal with up0 := up } else { s.gal with up1 := up } }

end Sys2Proof.Machine
end

