-- ==== Sys2Proof/Machine/Device.lean ====
section
/-!
DEFINITION. The device, firmware, power and meter families of host commands (12 R473, R488, R490 to R492, 13 R507, 14 R550,
R554, 16 R631, R632, 17 R646, R647, R661).
-/

namespace Sys2Proof.Machine

open Sys2Proof

/-! ### Device (0x01) -/

/-- The identity page (12 Device, R508, R598); its layout and the tree depth that a placement assumes are open (log 45). -/
def identityPage (s : State) (version : W32) : List Byte :=
  let image := match s.train.job with | some j => beBytes 32 j.sm3.toNat | none => []
  Config.layout 1 (leBytes 1 0xB1 ++ leBytes 4 version.toNat ++ leBytes 1 ((s.host.fw.running.map (fun i => i.svn)).getD 0) ++
    leBytes 1 (lifeCode s.sec.life) ++ leBytes 1 (levelCode s.sec.level) ++ leBytes 2 (80 * s.wafer.repair.rows) ++
    leBytes 4 s.wafer.repair.id.toNat ++ leBytes 11 s.wafer.off.toNat ++
    leBytes 8 (if metered s then Config.meterSerial.toNat else 0) ++ leBytes 8 s.tree.cfg.treeId.toNat ++ image)

/-- DEV_IDENTIFY's work. Under the recovery loader the firmware version is open (log 2). -/
def identifyDevice (s : State) (buf : HostBuf) : Work :=
  if bufSize buf < 4096 then .say s .badArg
  else
    let (k, s) := drawFree s
    let v : W32 := match s.host.fw.running with | some i => i.version | none => (Config.freeWord k).setWidth 32
    answer s buf (slice (identityPage s v) 0 4096)
      (word [0xB1, fld s.host.mb.stage.toNat 8, fld s.tree.cfg.moduleId.toNat 32]) (v.setWidth 64)

/-- The first result word of DEV_STATUS. -/
def statusWord (s : State) : W64 := word [powerCode s, fld (jobCode s.train.state) 8, fld (jobIdOf s).toNat 16]

/-- DEV_EVENT_WAIT's work (R473): the oldest event, or one of at most 16 waits. -/
def waitEvent (s : State) (p : Prog) : Work :=
  match s.host.events with
  | e :: rest =>
    let w := eventWords e
    .done (onHost s (fun h => { h with events := rest })) .ok w.1 w.2.1 w.2.2
  | [] =>
    if (s.host.progs.filter (fun q => decide (q.state = .event))).length ≥ 16 then .say s .noSpace
    else .wait (holdProg s p .event)

/-- True where a field is dark or failed, as DEV_TREE_CONFIG asks (R507). -/
def darkField (s : State) (f : Nat) : Bool :=
  s.wafer.repair.fields.any (fun p => p.1 == f) || (waferPowered s && s.wafer.off.getLsbD f)

/-- The table of R507: the role, a parent port or 0xFF, and the children it allows. -/
def roleGood (role parent children : Nat) : Bool :=
  match role with
  | 0 => decide (parent = 0xFF ∧ children = 0)
  | 1 => if parent = 0xFF then decide (1 ≤ children ∧ children ≤ 8) else decide (children = 1)
  | 2 => decide (parent ≠ 0xFF ∧ children ≤ 8)
  | _ => false

/-- DEV_TREE_CONFIG's work (R507): the module's place is stored; the ports of the named bundles train, the others are off. -/
def configTree (s : State) (id : BitVec 32) (role parent children : Nat) (ports : List Nat) (treeId : W64) : Work :=
  let kids := ports.take children
  let named := (if parent = 0xFF then [] else [parent]) ++ kids
  if !roleGood role parent children || kids.length ≠ children || !named.all (fun p => decide (p < 84) && !darkField s p) ||
      !decide ((named.map (fun p => p / 7)).Nodup) then .say s .badArg
  else
    let cfg : TreeConfig :=
      { set := true, moduleId := id, role := role, parent := if parent = 0xFF then none else some (parent / 7)
        children := kids.map (fun p => p / 7), treeId := treeId }
    let s := onTree s (fun t => { t with cfg := cfg, step := .reset, held := [] })
    .good ((List.range 84).foldl (fun s f =>
      if (namedBundles s).contains (f / 7) ∧ fieldUp s.wafer f then
        (if bundleLit s (f / 7) then startTraining s f else portDown s f)
      else if (portAt s f).state = .off then s
      else onPort (portDown s f) f (fun p => { p with state := .off })) s)

/-- DEV_RESET's work (R680): every other command ends, this one completes, and a warm restart follows. -/
def resetDevice (s : State) (p : Prog) : Work :=
  .wait (warmStart (complete (completeAll s (fun q => q != p) 0x0B) p 0))

/-! ### Firmware (R490, R491) -/

/-- The size of the staging area: 48 MiB. -/
def stagingBytes : Nat := 48 * 2 ^ 20

/-- DEV_FW_LOAD's work. -/
def loadFirmware (s : State) (off : Nat) (buf : HostBuf) : Work :=
  if stagingBytes < off + bufSize buf then .say s .badArg
  else match bufBad buf with
    | some r => .say s r
    | none => .good (onHost s (fun h => { h with fw := { h.fw with staging := h.fw.staging.writeN off (bufRead buf) } }))

/-- DEV_FW_COMMIT's work: the signature under an unrevoked firmware key, the image, its security version. -/
def commitFirmware (s : State) (length : Nat) : Work :=
  if stagingBytes < length then .say s .badArg
  else
    let b := s.host.fw.staging.readN 0 length
    match Config.readImage b with
    | none => .say s .image
    | some i =>
      if !Config.imageSigned b ∨ 4 ≤ i.slot ∨ s.sec.revoked.getLsbD i.slot then .say s .authFail
      else if i.svn < s.sec.rollback then .say s .rollback
      else .done (onHost s (fun h => { h with fw := { h.fw with stored := some i } })) .ok (i.version.setWidth 64) 0 0

/-- DEV_FW_ACTIVATE's work: completion, then a restart on the stored image. -/
def activateFirmware (s : State) (p : Prog) (raise : Bool) : Work :=
  .wait (warmStart (onHost (complete s p 0) (fun h => { h with fw := { h.fw with raise := raise } })))

/-! ### Power (0x08) -/

/-- PWR_RAMP_UP's work (R320). -/
def rampUp (s : State) (p : Prog) : Work :=
  if s.pwr.phase ≠ .active then .say s .badState
  else if allAt s.wafer 16 then .good s
  else .wait (onPwr (holdProg s p .rampUp) (fun x => { x with ramp := true }))

/-- PWR_STATE's work (R632, R666): to Active from Retention by a start at stage 3, to Retention, or to Standby. -/
def changePower (s : State) (p : Prog) (target : Nat) : Work :=
  match target with
  | 0 =>
    if s.sec.life = .scrapped then .say s .notPermitted
    else if s.pwr.phase = .active then .good s
    else if s.pwr.phase ≠ .retention ∨ s.sec.badCode then .say s .badState
    else .wait (setStage (holdProg s p (.power 0)) 0x03)
  | 3 =>
    if s.train.state ≠ .none ∧ s.train.state ≠ .stopped then .say s .badState
    else if s.pwr.phase = .retention then .good s
    else .good (enterRetention s)
  | _ => if s.train.state ≠ .none then .say s .badState else .wait (coldState (complete s p 0) 0x00)

/-! ### Meter (0x09) -/

/-- MTR_MARK's work (R646, R647): while 13 marks wait it stays in progress. -/
def markJob (s : State) : Work :=
  let un := match s.train.job with | some j => j.unmetered | none => false
  if !metered s || un then .say s .unmetered
  else if 13 ≤ s.dmt.queue.length then .wait s
  else .done (queueMark s 3 (jobIdOf s)) .ok (s.dmt.nextSeq.setWidth 64) 0 0

/-- MTR_STATUS's work. -/
def meterWords (s : State) : W64 × W64 :=
  let un := match s.train.job with | some j => j.unmetered | none => false
  (word [b2n (metered s), fld (b2n un) 1], (s.dmt.nextSeq - BitVec.ofNat 32 s.dmt.queue.length).setWidth 64)

/-! ### The commands -/

/-- DEV_IDENTIFY. -/
def execDevIdentify (h : CmdHdr) (buf : HostBuf) (s : State) : Res :=
  serve s (fun s => hostCmd s h 0x0101 true (fun s _ => identifyDevice s buf))

/-- DEV_STATUS. -/
def execDevStatus (h : CmdHdr) (s : State) : Res :=
  serve s (fun s => hostCmd s h 0x0102 true (fun s _ => .done s .ok (statusWord s) (lastStepWord s) (summaryWord s)))

/-- DEV_EVENT_WAIT. -/
def execDevEventWait (h : CmdHdr) (s : State) : Res := serve s (fun s => hostCmd s h 0x0103 true waitEvent)

/-- DEV_TREE_CONFIG. -/
def execDevTreeConfig (h : CmdHdr) (moduleId : BitVec 32) (role parent children : Nat) (ports : List Nat) (treeId : W64)
    (s : State) : Res :=
  serve s (fun s => hostCmd s h 0x0104 true (fun s _ => configTree s moduleId role parent children ports treeId))

/-- DEV_RESET. -/
def execDevReset (h : CmdHdr) (kind : Nat) (s : State) : Res :=
  serve s (fun s => hostCmd s h 0x0105 (decide (kind = 0)) resetDevice)

/-- DEV_FW_LOAD. -/
def execDevFwLoad (h : CmdHdr) (offset : Nat) (buf : HostBuf) (s : State) : Res :=
  serve s (fun s => hostCmd s h 0x0110 (decide (offset < stagingBytes)) (fun s _ => loadFirmware s offset buf))

/-- DEV_FW_COMMIT. -/
def execDevFwCommit (h : CmdHdr) (length : Nat) (s : State) : Res :=
  serve s (fun s => hostCmd s h 0x0111 true (fun s _ => commitFirmware s length))

/-- DEV_FW_ACTIVATE. -/
def execDevFwActivate (h : CmdHdr) (raiseSvn : Bool) (s : State) : Res :=
  serve s (fun s => hostCmd s h 0x0112 true (fun s p => activateFirmware s p raiseSvn))

/-- PWR_POLICY (R550, R554). -/
def execPwrPolicy (h : CmdHdr) (boost cap : Nat) (s : State) : Res :=
  serve s (fun s => hostCmd s h 0x0801 (decide (boost ≤ 1 ∧ 1 ≤ cap ∧ cap ≤ 25000)) (fun s _ =>
    .good (onGov s (fun g => { g with boost := decide (boost = 1), cap := cap }))))

/-- PWR_RAMP_UP. -/
def execPwrRampUp (h : CmdHdr) (s : State) : Res := serve s (fun s => hostCmd s h 0x0802 true rampUp)

/-- PWR_STATE. -/
def execPwrState (h : CmdHdr) (target : Nat) (s : State) : Res :=
  serve s (fun s => hostCmd s h 0x0803 (decide (target = 0 ∨ target = 3 ∨ target = 4)) (fun s p => changePower s p target))

/-- MTR_MARK. -/
def execMtrMark (h : CmdHdr) (s : State) : Res := serve s (fun s => hostCmd s h 0x0901 true (fun s _ => markJob s))

/-- MTR_STATUS. -/
def execMtrStatus (h : CmdHdr) (s : State) : Res :=
  serve s (fun s => hostCmd s h 0x0902 true (fun s _ => .done s .ok (meterWords s).1 (meterWords s).2 0))

end Sys2Proof.Machine
end

