-- ==== Sys2Proof/Machine/Jobs.lean ====
section
/-!
DEFINITION. The step, sync, data, state, checkpoint and Gallery families of host commands (12 R480 to R487, 11 R434 to R445,
16 R613, R620).
-/

namespace Sys2Proof.Machine

open Sys2Proof

/-! ### Steps (0x03) -/

/-- True where a checkpoint slot of the job holds a valid checkpoint. -/
def slotGood (s : State) (i : Nat) : Bool := match mget none s.ckpt.slots i with | some c => !c.invalid | none => false

/-- STEP_RUN's work (R482): the buffer is the reference records of a host-referenced verifying run, else the trace's. -/
def runSteps (s : State) (p : Prog) (count : Nat) (verify trace : Bool) (ref slot : Nat) (buf : HostBuf) : Work :=
  let byHost := verify && decide (ref = 2)
  if verify && decide (ref = 1) && !slotGood s slot then .say s .badArg
  else if trace && decide (levelCode s.sec.level < 1) then .say s .notPermitted
  else if s.pwr.phase ≠ .active then .say s .badState
  else match (if byHost || trace then bufBad buf else none) with
    | some r => .say s r
    | none =>
      let r : Run :=
        { left := if count = 0 then none else some count, verify := verify, trace := trace, ref := ref, slot := slot
          stop := false, refs := if byHost then bufRead buf else [], traceTo := if trace && !byHost then buf.segs else []
          fresh := true }
      let s := onTrain (holdProg s p .stepRun) (fun t => { t with state := .running, run := some r })
      .wait (onPwr s (fun x => { x with ramp := x.ramp || !allAt s.wafer 16 }))

/-- STEP_STOP's work (R482): the run stops after the step in progress, or at once between steps. -/
def stopSteps (s : State) : Work :=
  if s.train.step.begun ∨ s.train.step.attempts ≠ 0 then
    .done (onTrain s (fun t => { t with run := t.run.map (fun r => { r with stop := true }) })) .ok
      (BitVec.ofNat 64 (currentStep s)) 0 0
  else
    let traceTo := match s.train.run with | some r => r.traceTo | none => []
    let s := endRun (writeTrace s traceTo) 0 1
    .done (onTrain s (fun t => { t with state := .ready, step := { t.step with waiting := false } })) .ok (lastStepWord s) 0 0

/-- True where a dry replay of step `n` is accepted (R435). -/
def mayReplay (s : State) (n : Nat) : Bool :=
  decide (n = s.train.next) || (decide (s.train.state = .held ∧ s.train.last = some n ∧ s.train.lastV = .quarantine))

/-- STEP_REPLAY's work (R434, R435). -/
def replayStep (s : State) (p : Prog) (n : Nat) (traceSet : W64) (buf : HostBuf) : Work :=
  if levelCode s.sec.level < 1 then .say s .notPermitted
  else if s.pwr.phase ≠ .active ∨ !mayReplay s n then .say s .badState
  else match (if traceSet = 0 then none else bufBad buf) with
    | some r => .say s r
    | none =>
      .wait (onTrain (holdProg s p .replay) (fun t =>
        { t with replay := some ⟨n, if traceSet = 0 then [] else buf.segs⟩ }))

/-- True where step `n` has begun or has reached its commit point. -/
def stepTaken (s : State) (n : Nat) : Bool :=
  decide (n < s.train.next) || (s.train.step.begun && decide (n = currentStep s)) ||
    (decide (s.train.step.attempts ≠ 0) && decide (n = currentStep s))

/-- STEP_CONST's work (R481): the latest record of a program and step stands. -/
def setConsts (s : State) (prog first : Nat) (k : List W32) : Work :=
  if stepTaken s first then .say s .tooLate
  else .good (onTrain s (fun t => { t with consts := t.consts ++ [⟨prog, first, k⟩] }))

/-! ### Sync (0x03) -/

/-- SYNC_ARRIVE's work (R483). -/
def arriveComp (s : State) (p : Prog) (l : Nat) (wait : Bool) : Work :=
  if s.pwr.phase ≠ .active ∨ !(lineAt s.wafer l).comp then .say s .badState
  else
    let g := (lineGen s l).setWidth 64
    let s := onW s (fun w => onLine w l (fun x => { x with compArrived := true }))
    if wait then .wait (holdProg s p (.arrive l) g) else .done s .ok g 0 0

/-- The lowest field that is powered: where the control processor registers a watch on a line's generation. -/
def firstUp (w : Wafer) : Nat := ((List.range 84).find? (fieldUp w)).getD 0

/-- SYNC_WATCH's work (R303, R483): a watch whose message goes to the companion die. The control processor has no tile of its
own for a descriptor to name. -/
def watchComp (s : State) (p : Prog) (d0 d1 : W64) : Work :=
  if s.pwr.phase ≠ .active then .say s .badState
  else if bits d0.toNat 50 49 ≠ 2 ∧ bits d0.toNat 63 57 = 127 then .say s .badArg
  else match parseWatch s.wafer (64 * firstUp s.wafer) none d0.toNat d1.toNat (some .comp) with
    | .inr _ => .say s .badArg
    | .inl (f, x) =>
      match registerWatch s.wafer f x with
      | (none, w) => .say { s with wafer := w } .noSpace
      | (some i, w) => .wait (holdProg { s with wafer := w } p (.watch f i))

/-- SYNC_SIGNAL's work (R20, R325, R723): while the bridge has another access before it, it stays in progress. -/
def signalSync (s : State) (a : BitVec 40) (v : W64) : Work :=
  match cfgAddr a.toNat with
  | some (tgt, off) =>
    if off ≠ 0x22020 ∧ off ≠ 0x22028 then .say s .badArg
    else if (match tgt with | .rim _ => true | _ => false) then .say s .badArg
    else if s.pwr.phase ≠ .active then .say s .badState
    else if bridgeBusy s then .wait s
    else .good (configWriteAll s .firmware tgt off v)
  | none => .say s .badArg

/-! ### Data (0x04) -/

/-- Where DATA_WRITE and DATA_READ reach (R484): HBM below the reserved area, companion memory below the firmware's. -/
def dataPlace (s : State) (a n : Nat) : Option Place :=
  match place s.wafer 0 a with
  | .hbm k off => if off + n ≤ rimReserved ∧ !(rimAt s.wafer k).failed then some (.hbm k off) else none
  | .comp off => if off + n ≤ fwRegion then some (.comp off) else none
  | _ => none

/-- True where a place is powered: companion memory keeps its power in Retention. -/
def placeOn (s : State) (x : Place) : Bool := match x with | .comp _ => true | _ => decide (s.pwr.phase = .active)

/-- DATA_WRITE's work (R484): RETAINED blocks are not written while a job is open. -/
def writeData (s : State) (a : W64) (buf : HostBuf) : Work :=
  let n := bufSize buf
  match dataPlace s a.toNat n with
  | none => .say s .notPermitted
  | some x =>
    let held := match x with
      | .hbm k off => !blocksAll off n (fun b => (rimAt s.wafer k).block b != .retained)
      | .comp off => !blocksAll off n (fun b => mget .zero s.wafer.comp.blocks b != .retained)
      | _ => false
    if jobOpen s && held && n ≠ 0 then .say s .notPermitted
    else if !placeOn s x then .say s .badState
    else match bufBad buf with
      | some r => .say s r
      | none => .good (if n = 0 then s else onW s (fun w => devStore w a.toNat (bufRead buf)))

/-- DATA_READ's work (R484, R585). -/
def readData (s : State) (a : W64) (buf : HostBuf) : Work :=
  let n := bufSize buf
  match dataPlace s a.toNat n with
  | none => .say s .notPermitted
  | some x =>
    if !placeOn s x then .say s .badState
    else match bufBad buf with
      | some r => .say s r
      | none =>
        if n = 0 then .good s
        else match devLoad s.wafer a.toNat n (if jobOpen s then 2 else 0) with
          | (some bs, w) => .good (writeSegs { s with wafer := w } buf.segs bs)
          | (none, w) => .say { s with wafer := w } .fault

/-- A batch put among the staged ones, in ascending step order. -/
def insertBatch (b : Batch) : List Batch → List Batch
  | [] => [b]
  | x :: l => if b.step < x.step then b :: x :: l else x :: insertBatch b l

/-- True where a step that has begun or been committed may still be given a batch (R485): it waits for one, or a STEP_REPLAY
may name it. -/
def mayStage (s : State) (n : Nat) : Bool :=
  (!s.train.step.begun && decide (n = currentStep s)) || mayReplay s n && !(s.train.step.begun && decide (n = currentStep s))

/-- DATA_STAGE's work (R485). -/
def stageBatch (s : State) (n off bytes : Nat) (desc : List Byte) : Work :=
  if fwRegion < off + bytes then .say s .badArg
  else if (batchOf s n).isSome then .say s .badArg
  else if stepTaken s n && !mayStage s n then .say s .tooLate
  else if 8 ≤ s.train.batches.length then .say s .noSpace
  else .good (onTrain s (fun t => { t with batches := insertBatch ⟨n, off, bytes, slice desc 0 64⟩ t.batches }))

/-- Blocks of a stack given a state; one that becomes ZERO loses its content. -/
def setBlocks (r : Rim) (first count : Nat) (x : BlockState) : Rim :=
  let hit (b : Nat) : Bool := decide (first ≤ b ∧ b < first + count)
  let r := { r with blocks := mputAll r.blocks ((List.range count).map (fun i => first + i)) x }
  if x = .zero then
    { r with mem := r.mem.filter (fun c => !hit (c.1 / 2097152))
             unc := r.unc.filter (fun g => !hit (g * 64 / 2097152))
             cor := r.cor.filter (fun g => !hit (g * 64 / 2097152)) }
  else r

/-- DATA_RETAIN's work (R339). -/
def retainBlocks (s : State) (stack first count dst : Nat) : Work :=
  if s.pwr.phase ≠ .active ∨ (rimAt s.wafer stack).failed then .say s .badState
  else .good (onW s (fun w => onRim w stack (fun r => setBlocks r first count (if dst = 1 then .retained else .zero))))

/-! ### State (0x05) -/

/-- The latest landing record of a step that the ring holds. -/
def recordAt (s : State) (n : Nat) : Option (List Byte) :=
  ((s.train.records.filter (fun r => r.1 == n)).getLast?).map Prod.snd

/-- The steps of a range that the ring has a record of, in ascending order. -/
def recordedIn (s : State) (first count : Nat) : List Nat :=
  ((s.train.records.map Prod.fst).filter (fun n => decide (first ≤ n ∧ n < first + count))).foldr insertUp []

/-- STATE_LR_READ's work (R432, R486): the records that fit. With none, the first step is open. -/
def readRecords (s : State) (first count : Nat) (buf : HostBuf) : Work :=
  let ns := (recordedIn s first count).eraseDups.take (bufSize buf / 320)
  let bs := (ns.map (fun n => (recordAt s n).getD [])).flatten
  let (k, s) := drawFree s
  let d1 := match ns with | n :: _ => BitVec.ofNat 64 n | [] => Config.freeWord k
  answer s buf bs (BitVec.ofNat 64 ns.length) d1

/-- STATE_REPLAY_READ's work. -/
def readReplay (s : State) (buf : HostBuf) : Work :=
  match s.ckpt.replayRec with | some r => answer s buf r | none => .say s .badState

/-- STATE_JOB's work: JOB_STATE as a checkpoint of now would hold it, and the scale table. -/
def readJob (s : State) (buf : HostBuf) : Work :=
  match s.train.job with
  | some j =>
    let t := s.train
    let c : Snapshot :=
      { step := (lastStepWord s).toNat, lamG := t.lamG, clean := t.clean, skips := t.skips, fallback := t.fallback
        rsel := t.rsel, groups := t.groups, hist := t.hist, fast := [], slow := [], copies := [], basis := [], bases := []
        landing := [] }
    answer s buf (Config.layout 6 (jobStateBytes j c ++ scaleTable s))
  | none => .say s .noJob

/-! ### Checkpoints (0x06) -/

/-- CKPT_CAPTURE's work (R486): at once from the last commit point, or at the next one. -/
def askCapture (s : State) (p : Prog) : Work :=
  let s := holdProg s p .capture
  match s.train.last with
  | some n =>
    if s.train.state = .ready ∨ s.train.state = .held then .wait (startCapture s n)
    else .wait { s with ckpt := { s.ckpt with asked := true } }
  | none => .wait { s with ckpt := { s.ckpt with asked := true } }

/-- Slots of the open job. -/
def slotCount (s : State) : Nat := match s.train.job with | some j => j.desc.ckptSlots | none => 0

/-- What CKPT_LIST says of a slot: its step, its bytes, its reading flag and whether it is invalid. -/
def slotLine (s : State) (i : Nat) : List Byte :=
  match mget none s.ckpt.slots i with
  | some c => leBytes 8 c.snap.step ++ leBytes 8 c.bytes.length ++ leBytes 1 (b2n c.reading) ++ leBytes 1 (b2n c.invalid) ++ [1]
  | none => leBytes 18 0 ++ [0]

/-- CKPT_LIST's work. -/
def listSlots (s : State) (buf : HostBuf) : Work :=
  answer s buf (Config.layout 3 (((List.range (slotCount s)).map (slotLine s)).flatten))

/-- A slot's reading flag set. -/
def setReading (s : State) (i : Nat) (b : Bool) : State :=
  match mget none s.ckpt.slots i with
  | some c => { s with ckpt := { s.ckpt with slots := mput s.ckpt.slots i (some { c with reading := b }) } }
  | none => s

/-- A read that finds a slot uncorrectable marks it invalid and posts the record (R585). -/
def spoilSlot (s : State) (i : Nat) (c : CkptSlot) : State :=
  let s := { s with ckpt := { s.ckpt with slots := mput s.ckpt.slots i (some { c with invalid := true }) } }
  let s := { s with rel := { s.rel with sticky := s.rel.sticky ||| detBits 0x0434 } }
  postRecord s ⟨0x0434, 1, false, 0, 0xC1, 0, 0, 0⟩

/-- CKPT_READ's work (R486, R585). -/
def readSlot (s : State) (i off : Nat) (buf : HostBuf) : Work :=
  match mget none s.ckpt.slots i with
  | some c =>
    if slotCount s ≤ i ∨ c.bytes.length < off then .say s .badArg
    else if c.invalid then .say s .fault
    else if c.bad then .say (spoilSlot s i c) .fault
    else answer (setReading s i true) buf (c.bytes.drop off)
  | none => .say s .badArg

/-- CKPT_RESTORE's work (R445): nothing is written unless every check passes. -/
def restore (s : State) (source slot : Nat) (buf : HostBuf) : Work :=
  match s.train.job with
  | none => .say s .noJob
  | some j =>
    if s.pwr.phase ≠ .active ∨ s.train.replay.isSome then .say s .badState
    else
      let back (bs : List Byte) (c : Option Snapshot) : Work :=
        match c with
        | some c => if restoreGood s j bs then .done (restoreSnap s j c) .ok (BitVec.ofNat 64 c.step) 0 0 else .say s .authFail
        | none => .say s .authFail
      if source = 0 then
        (match mget none s.ckpt.slots slot with
          | some c =>
            if c.invalid then .say s .fault
            else if c.bad then .say (spoilSlot s slot c) .fault
            else back c.bytes (some c.snap)
          | none => .say s .badArg)
      else match bufBad buf with
        | some r => .say s r
        | none => back (bufRead buf) (Config.readCheckpoint (openSections s (bufRead buf)))

/-! ### Job keys (R620) -/

/-- The key that a wrapped blob installs for a use, none where it is rejected. -/
def unwrapKey (s : State) (buf : HostBuf) (use : Nat) : Option (List Byte) :=
  if bufSize buf ≠ 129 then none
  else match Config.sm2Decrypt (bufRead buf) with
    | some k =>
      if k.length = 32 ∧ fieldN k 0 2 = (jobIdOf s).toNat ∧ fieldN k 2 1 = use ∧ zeros k 3 16 then some (slice k 16 16) else none
    | none => none

/-- CKPT_KEY's and GAL_KEY's work (R613, R620). -/
def installKey (s : State) (buf : HostBuf) (use : Nat) : Work :=
  match bufBad buf with
  | some r => .say s r
  | none =>
    match unwrapKey s buf use with
    | none => .say s .authFail
    | some k =>
      let s := extendMr s 6 (sm3Bytes (bufRead buf))
      .good (if use = 1 then { s with ckpt := { s.ckpt with key := some k } } else { s with gal := { s.gal with key := some k } })

/-! ### Gallery (0x07) -/

/-- The arguments of GAL_NET in range: an IPv4 address fills the first 4 bytes of its field. -/
def netGood (a : GalNetArgs) : Bool :=
  decide (a.port ≤ 1 ∧ (a.ipVersion = 4 ∨ a.ipVersion = 6) ∧ a.dscp.toNat < 64 ∧ a.vlan.toNat < 4096) &&
    (a.ipVersion == 6 || (zeros a.srcIp 4 16 && zeros a.dstIp 4 16))

/-- GAL_NET's work. -/
def setNet (s : State) (a : GalNetArgs) : State :=
  let n : GalNet :=
    { ipVersion := a.ipVersion, hopLimit := a.hopLimit, dscp := a.dscp, srcIp := slice a.srcIp 0 16, dstIp := slice a.dstIp 0 16
      srcUdp := a.srcUdp, dstUdp := a.dstUdp, dstMac := slice a.dstMac 0 6, vlan := a.vlan }
  { s with gal := { s.gal with net := mput s.gal.net a.port (some n) } }

/-! ### The commands -/

/-- STEP_RUN. -/
def execStepRun (h : CmdHdr) (count : Nat) (verify trace : Bool) (ref slot : Nat) (buf : HostBuf) (s : State) : Res :=
  serve s (fun s => hostCmd s h 0x0301 (decide (ref ≤ 2)) (fun s p => runSteps s p count verify trace ref slot buf))

/-- STEP_STOP. -/
def execStepStop (h : CmdHdr) (s : State) : Res := serve s (fun s => hostCmd s h 0x0302 true (fun s _ => stopSteps s))

/-- STEP_RESUME (R438). -/
def execStepResume (h : CmdHdr) (s : State) : Res :=
  serve s (fun s => hostCmd s h 0x0303 true (fun s _ =>
    if s.train.replay.isSome then .say s .badState else .good (onTrain s (fun t => { t with state := .ready }))))

/-- STEP_REPLAY. -/
def execStepReplay (h : CmdHdr) (step : Nat) (traceSet : W64) (buf : HostBuf) (s : State) : Res :=
  serve s (fun s => hostCmd s h 0x0304 true (fun s p => replayStep s p step traceSet buf))

/-- STEP_CONST. -/
def execStepConst (h : CmdHdr) (prog first : Nat) (k : List W32) (s : State) : Res :=
  serve s (fun s => hostCmd s h 0x0305 (decide (prog ≤ 15)) (fun s _ => setConsts s prog first k))

/-- SYNC_ARRIVE. -/
def execSyncArrive (h : CmdHdr) (line : Fin 16) (wait : Bool) (s : State) : Res :=
  serve s (fun s => hostCmd s h 0x0310 true (fun s p => arriveComp s p line wait))

/-- SYNC_WATCH. -/
def execSyncWatch (h : CmdHdr) (w0 w1 : W64) (s : State) : Res :=
  serve s (fun s => hostCmd s h 0x0311 true (fun s p => watchComp s p w0 w1))

/-- SYNC_SIGNAL. -/
def execSyncSignal (h : CmdHdr) (addr : BitVec 40) (value : W64) (s : State) : Res :=
  serve s (fun s => hostCmd s h 0x0312 true (fun s _ => signalSync s addr value))

/-- DATA_WRITE. -/
def execDataWrite (h : CmdHdr) (addr : W64) (buf : HostBuf) (s : State) : Res :=
  serve s (fun s => hostCmd s h 0x0401 true (fun s _ => writeData s addr buf))

/-- DATA_READ. -/
def execDataRead (h : CmdHdr) (addr : W64) (buf : HostBuf) (s : State) : Res :=
  serve s (fun s => hostCmd s h 0x0402 true (fun s _ => readData s addr buf))

/-- DATA_STAGE. -/
def execDataStage (h : CmdHdr) (step offset bytes : Nat) (desc : List Byte) (s : State) : Res :=
  serve s (fun s => hostCmd s h 0x0403 true (fun s _ => stageBatch s step offset bytes desc))

/-- DATA_RETAIN. -/
def execDataRetain (h : CmdHdr) (stack first count toState : Nat) (s : State) : Res :=
  serve s (fun s => hostCmd s h 0x0404 (decide (stack < 16 ∧ first + count ≤ 32766 ∧ toState ≤ 1)) (fun s _ =>
    retainBlocks s stack first count toState))

/-- STATE_LR_READ. -/
def execStateLrRead (h : CmdHdr) (first count : Nat) (buf : HostBuf) (s : State) : Res :=
  serve s (fun s => hostCmd s h 0x0501 true (fun s _ => readRecords s first count buf))

/-- STATE_REPLAY_READ. -/
def execStateReplayRead (h : CmdHdr) (buf : HostBuf) (s : State) : Res :=
  serve s (fun s => hostCmd s h 0x0502 true (fun s _ => readReplay s buf))

/-- STATE_JOB. -/
def execStateJob (h : CmdHdr) (buf : HostBuf) (s : State) : Res :=
  serve s (fun s => hostCmd s h 0x0503 true (fun s _ => readJob s buf))

/-- CKPT_CAPTURE. -/
def execCkptCapture (h : CmdHdr) (s : State) : Res := serve s (fun s => hostCmd s h 0x0601 true askCapture)

/-- CKPT_LIST. -/
def execCkptList (h : CmdHdr) (buf : HostBuf) (s : State) : Res :=
  serve s (fun s => hostCmd s h 0x0602 true (fun s _ => listSlots s buf))

/-- CKPT_READ. -/
def execCkptRead (h : CmdHdr) (slot offset : Nat) (buf : HostBuf) (s : State) : Res :=
  serve s (fun s => hostCmd s h 0x0603 true (fun s _ => readSlot s slot offset buf))

/-- CKPT_RELEASE (R486). -/
def execCkptRelease (h : CmdHdr) (slot : Nat) (s : State) : Res :=
  serve s (fun s => hostCmd s h 0x0604 (decide (slot < slotCount s)) (fun s _ => .good (setReading s slot false)))

/-- CKPT_RESTORE. -/
def execCkptRestore (h : CmdHdr) (source slot : Nat) (buf : HostBuf) (s : State) : Res :=
  serve s (fun s => hostCmd s h 0x0605 (decide (source ≤ 1)) (fun s _ => restore s source slot buf))

/-- CKPT_KEY. -/
def execCkptKey (h : CmdHdr) (buf : HostBuf) (s : State) : Res :=
  serve s (fun s => hostCmd s h 0x0606 true (fun s _ => installKey s buf 1))

/-- GAL_NET. -/
def execGalNet (h : CmdHdr) (args : GalNetArgs) (s : State) : Res :=
  serve s (fun s => hostCmd s h 0x0701 (netGood args) (fun s _ => .good (setNet s args)))

/-- GAL_KEY. -/
def execGalKey (h : CmdHdr) (buf : HostBuf) (s : State) : Res :=
  serve s (fun s => hostCmd s h 0x0702 true (fun s _ => installKey s buf 2))

/-- GAL_STATUS. -/
def execGalStatus (h : CmdHdr) (s : State) : Res :=
  serve s (fun s => hostCmd s h 0x0703 true (fun s _ =>
    .done s .ok (BitVec.ofNat 64 s.gal.seq) (BitVec.ofNat 64 s.gal.acked) (BitVec.ofNat 64 (galUsed s))))

end Sys2Proof.Machine
end

