-- ==== Sys2Proof/Machine/Debug.lean ====
section
/-!
DEFINITION. The debug and attestation families of host commands (12 R489, 16 R609 to R634).
-/

namespace Sys2Proof.Machine

open Sys2Proof

/-! ### The lifecycle (R622 to R624) -/

/-- The lifecycle state that a target of DBG_CHALLENGE names. -/
def lifeTarget (n : Nat) : Lifecycle :=
  match n with | 0x11 => .provisioned | 0x12 => .deployed | 0x13 => .returned | _ => .scrapped

/-- The arguments that DBG_CHALLENGE and DBG_UNLOCK take: a level or a lifecycle target (R626). -/
def levelArg (n : Nat) : Bool := decide ((1 ≤ n ∧ n ≤ 3) ∨ (0x11 ≤ n ∧ n ≤ 0x14))

/-- The levels and transitions that a lifecycle state reaches (R622, R633). -/
def reachable (s : State) (n : Nat) : Bool :=
  match s.sec.life with
  | .blank => n == 3 || n == 0x11
  | .provisioned => n == 1 || n == 2 || n == 3 || n == 0x12 || n == 0x14
  | .deployed => n == 1 || n == 2 || n == 0x13 || n == 0x14
  | .returned => n == 1 || n == 2 || n == 3 || n == 0x14 || (n == 0x11 && decide (s.sec.returns < 8))
  | .scrapped => false

/-- A level by its code. -/
def levelOf (n : Nat) : Level := match n with | 1 => .observe | 2 => .invasive | 3 => .factory | _ => .closed

/-- The registers and counters that survive everything but a cold reset and a lifecycle transition cleared (R10, R606, R715). -/
def clearKept (s : State) : State :=
  let s := onW s (fun w =>
    { w with tiles := mapAll w.tiles (fun x => { x with ctrs := x.ctrs.filter (fun p => decide (p.1 < 0x24100)) })
             fields := mapAll w.fields (fun x => { x with ctrs := x.ctrs.filter (fun p => decide (p.1 < 0x9100 ∨ 0x9108 < p.1)) })
             rims := mapAll w.rims (fun x => { x with ctrs := x.ctrs.filter (fun p => decide (p.1 < 0x32100 ∨ 0x32118 < p.1)) }) })
  onHost s (fun h => { h with mb := { h.mb with mask := 1, scratch := [] } })

/-- A lifecycle transition (R624): the wipe, the registers, the owner's key, the new state, and Closed. In Scrapped the wafer
stays in Retention (R633). -/
def changeLife (s : State) (x : Lifecycle) (owner : Option (List Byte)) : State :=
  let s := clearKept (debugWipe s)
  let back := decide (s.sec.life = .returned ∧ x = .provisioned)
  let s := { s with sec := { s.sec with
    owner := (match x with
      | .deployed => owner
      | .returned => none
      | .scrapped => none
      | _ => s.sec.owner)
    returns := s.sec.returns + b2n back
    life := x } }
  let s := setLevel s .closed 0xFF
  if x = .scrapped ∧ s.pwr.phase = .active then enterRetention s else s

/-! ### Challenge and unlock (R626, R627, R630, R634) -/

/-- The 64 bytes of a challenge. -/
def challengeBytes (s : State) (level : Nat) (draw : BitVec 256) : List Byte :=
  leBytes 8 Config.serial.toNat ++ leBytes 1 (lifeCode s.sec.life) ++ leBytes 1 (levelCode s.sec.level) ++ leBytes 1 level ++
    leBytes 5 0 ++ leBytes 8 s.sec.unlockSeq.toNat ++ leBytes 32 draw.toNat ++ leBytes 8 0

/-- DBG_CHALLENGE's work. -/
def challenge (s : State) (level : Nat) (buf : HostBuf) : Work :=
  if 8 ≤ s.sec.refused then .say s .notPermitted
  else match bufBad buf with
    | some r => .say s r
    | none =>
      let (k, s) := drawFree s
      let s := { s with sec := { s.sec with unlockSeq := s.sec.unlockSeq + 1 } }
      let bs := challengeBytes s level (Config.random32 k)
      answer { s with sec := { s.sec with challenge := some ⟨level, bs⟩ } } buf bs

/-- The key that a response's slot names: the signer's own from the response, or the owner's. -/
def signerKey (s : State) (b : List Byte) : Option (List Byte) :=
  let slot := fieldN b 64 1
  if slot = 0xFE then s.sec.owner
  else if Config.sm3 (slice b 208 64) = Config.keySlot slot ∧ !s.sec.revoked.getLsbD slot then some (slice b 208 64)
  else none

/-- A response's form and proof: its length, the current challenge, its zero bytes, and the signature. -/
def responseGood (s : State) (level : Nat) (b : List Byte) (age : Nat) : Bool :=
  let slot := fieldN b 64 1
  match s.sec.challenge, signerKey s b with
  | some c, some key =>
    decide ((4 ≤ slot ∧ slot ≤ 7 ∧ b.length = 272) ∨ (slot = 0xFE ∧ b.length = 208)) && slice b 0 64 == c.bytes && decide (age < 300) &&
      c.level == level && zeros b 65 80 && (level == 0x12 || zeros b 80 144) &&
      Config.sm2Verify key (slice b 0 144) (slice b 144 64)
  | _, _ => false

/-- Why an unlock is refused, in the order of the checks: what the lifecycle reaches, the response, the signer, the level, and
the state that a wipe or a transition needs. -/
def unlockRefusal (s : State) (level : Nat) (b : List Byte) (age : Nat) : Option Result :=
  if !reachable s level then some .notPermitted
  else if !responseGood s level b age then some .authFail
  else if fieldN b 64 1 = 0xFE ∧ s.sec.life ≠ .deployed then some .notPermitted
  else if level ≤ 3 ∧ level ≤ levelCode s.sec.level then some .notPermitted
  else if level = 2 ∧ s.sec.life = .deployed ∧ s.train.state ≠ .none then some .badState
  else if 3 < level ∧ (s.train.state ≠ .none ∨ powerCode s = 1 ∨ powerCode s = 4) then some .badState
  else none

/-- A refused unlock. The challenge is consumed. -/
def refuseUnlock (s : State) : State := { s with sec := { s.sec with challenge := none, refused := s.sec.refused + 1 } }

/-- A level raised by an unlock, after the wipe that Invasive needs in Deployed. -/
def raiseLevel (s : State) (level slot : Nat) : State :=
  let s := if level = 2 ∧ s.sec.life = .deployed then debugWipe s else s
  let n := if s.sec.unlocks = BitVec.allOnes 32 then s.sec.unlocks else s.sec.unlocks + 1
  setLevel { s with sec := { s.sec with unlocks := n } } (levelOf level) slot

/-- DBG_UNLOCK's work. In Retention a level above Observe cannot be raised, and the challenge stays (R633, R634). -/
def unlock (s : State) (level : Nat) (buf : HostBuf) (age : Nat) : Work :=
  if (level = 2 ∨ level = 3) ∧ s.pwr.phase ≠ .active ∧ reachable s level then .say s .badState
  else match bufBad buf with
    | some r => .say { s with sec := { s.sec with challenge := none } } r
    | none =>
      let b := bufRead buf
      match unlockRefusal s level b age with
      | some r => .say (refuseUnlock s) r
      | none =>
        let s := { s with sec := { s.sec with challenge := none } }
        if level ≤ 3 then .good (raiseLevel s level (fieldN b 64 1))
        else .good (changeLife s (lifeTarget level) (if zeros b 80 144 then none else some (slice b 80 64)))

/-! ### Halt and memory (R489, R625) -/

/-- DBG_HALT's work. -/
def haltAll (s : State) : Work :=
  if levelCode s.sec.level < 2 then .say s .notPermitted
  else if s.pwr.phase ≠ .active then .say s .badState
  else .good (onW s (fun w => { w with dbgHalt := true }))

/-- DBG_RESUME's work: with nothing halted it is refused (R634). -/
def resumeAll (s : State) : Work :=
  if !s.wafer.dbgHalt then .say s .badState
  else if levelCode s.sec.level < 2 then .say s .notPermitted
  else .good (onW s (fun w => { w with dbgHalt := false }))

/-- Where a debugger's access of `n` bytes reaches, by the level. The self-relative tile names nothing here. -/
def debugPlace (s : State) (a n : Nat) : Option Place :=
  let factory := decide (3 ≤ levelCode s.sec.level)
  match place s.wafer 0 a with
  | .scratch t off => if bits a 40 34 ≠ 127 ∧ off + n ≤ spBytes ∧ usable s.wafer t then some (.scratch t off) else none
  | .bds t off => if bits a 40 34 ≠ 127 ∧ off + n ≤ bdsBytes ∧ usable s.wafer t then some (.bds t off) else none
  | .hbm k off =>
    if off + n ≤ (if factory then 2 ^ 36 else rimReserved) ∧ !(rimAt s.wafer k).failed then some (.hbm k off) else none
  | .comp off => if off + n ≤ (if factory then 2 ^ 41 else fwRegion) then some (.comp off) else none
  | _ => none

/-- Free bytes. -/
def freeBytes (s : State) (n : Nat) : List Byte × State :=
  let (k, s) := drawFree s
  ((List.range n).map (Config.freeByte k), s)

/-- The bytes of a debugger's read; none where a location is uncorrectable. The spec gives the firmware's region and the
rims' reserved areas no content, so that what they hold is open (log 69). -/
def debugRead (s : State) (x : Place) (n : Nat) : Option (List Byte) × State :=
  let go (r : Option (List Byte) × Wafer) : Option (List Byte) × State := (r.1, { s with wafer := r.2 })
  match x with
  | .scratch t off => go (spLoad s.wafer t off n)
  | .bds t off => go (bdsLoad s.wafer t off n)
  | .hbm k off =>
    if rimReserved < off + n then (let (b, s) := freeBytes s n; (some b, s)) else go (hbmLoad s.wafer k off n (if jobOpen s then 2 else 0))
  | .comp off =>
    if fwRegion < off + n then (let (b, s) := freeBytes s n; (some b, s)) else go (compLoad s.wafer off n (if jobOpen s then 2 else 0))
  | _ => (none, s)

/-- The epoch records of a rim made open: a debugger wrote into their table, whose layout the spec does not give (log 69). -/
def looseEpochs (s : State) (k : Nat) : State :=
  ((rimAt s.wafer k).upd.epochs).foldl (fun s p =>
    let (a, s) := drawFree s
    let (b, s) := drawFree s
    let (c, s) := drawFree s
    onW s (fun w => onRim w k (fun r => { r with upd := { r.upd with
      epochs := mput r.upd.epochs p.1 ⟨Config.freeBit a, Config.freeWord b, Config.freeWord c⟩ } }))) s

/-- A debugger's write; while a job is open none lands in a RETAINED block (R339). -/
def debugWrite (s : State) (x : Place) (bs : List Byte) : State :=
  match x with
  | .scratch t off => onW s (fun w => spStore w t off bs)
  | .bds t off => onW s (fun w => bdsStore w t off bs)
  | .hbm k off =>
    let s := onW s (fun w => (if jobOpen s then hbmJobStore else hbmStore) w k off bs)
    if rimReserved < off + bs.length then looseEpochs s k else s
  | .comp off => onW s (fun w => (if jobOpen s then compJobStore else compStore) w off bs)
  | _ => s

/-- True where a place can be read or written now: a slice's sleeping group or refreshing bank makes the access wait (R231,
R233). -/
def placeReady (w : Wafer) (x : Place) (n : Nat) : Bool := match x with | .bds t off => bdsReady w t off n | _ => true

/-- The groups of a slice that an access waits for are woken. -/
def wakePlace (w : Wafer) (x : Place) (n : Nat) : Wafer := match x with | .bds t off => lateWake w t off n | _ => w

/-- DBG_MEM's work. -/
def debugMem (s : State) (dir : Nat) (a : W64) (buf : HostBuf) : Work :=
  let n := bufSize buf
  if levelCode s.sec.level < 2 then .say s .notPermitted
  else if 1 < dir then .say s .badArg
  else match debugPlace s a.toNat n with
    | none => .say s .notPermitted
    | some x =>
      match bufBad buf with
      | some r => .say s r
      | none =>
        if n = 0 then .good s
        else if !placeReady s.wafer x n then .wait (onW s (fun w => wakePlace w x n))
        else if dir = 1 then .good (debugWrite s x (bufRead buf))
        else match debugRead s x n with
          | (some bs, s) => .good (writeSegs s buf.segs bs)
          | (none, s) => .say s .fault

/-- DBG_TRACE's work: the spec gives a trace no content (log 45). -/
def traceOut (s : State) (buf : HostBuf) : Work :=
  if levelCode s.sec.level < 1 then .say s .notPermitted
  else if s.pwr.phase ≠ .active then .say s .badState
  else match bufBad buf with
    | some r => .say s r
    | none => .good (writeTrace s buf.segs)

/-- Consecutive words of a tile's, a field's or a rim's registers; a read that fails gives zero (R718, R732). -/
def readWords (s : State) (n off : Nat) : Nat → List Byte × State
  | 0 => ([], s)
  | c + 1 =>
    let (_, v, s) := readTarget s n off
    let (bs, s) := readWords s n (off + 8) c
    (leBytes 8 v.toNat ++ bs, s)

/-- DBG_COUNTERS' work: as many words as fit; while the bridge has another access before it, it stays in progress (R20, R723). -/
def readCounters (s : State) (a : BitVec 40) (words : Nat) (buf : HostBuf) : Work :=
  let c := min words (bufSize buf / 8)
  if levelCode s.sec.level < 1 then .say s .notPermitted
  else match cfgAddr a.toNat with
    | none => .say s .badArg
    | some (tgt, off) =>
      if !isSingle tgt ∨ 0x2000000 < off + 8 * c then .say s .badArg
      else if s.pwr.phase ≠ .active then .say s .badState
      else if bridgeBusy s then .wait s
      else match bufBad buf with
        | some r => .say s r
        | none =>
          let (bs, s) := readWords s (firstTarget tgt) off c
          answer s buf bs

/-! ### Attestation (R617 to R619) -/

/-- True where the module attests. -/
def attests (s : State) : Bool := decide (s.sec.life ≠ .blank ∧ s.sec.life ≠ .scrapped)

/-- Bytes 0 to 383 of a quote. -/
def quoteBody (s : State) (nonce : List Byte) : List Byte :=
  let un := match s.train.job with | some j => j.unmetered | none => false
  leBytes 4 1 ++ leBytes 8 Config.serial.toNat ++ leBytes 4 s.tree.cfg.moduleId.toNat ++ leBytes 1 (lifeCode s.sec.life) ++
    leBytes 1 (levelCode s.sec.level) ++ leBytes 1 (powerCode s) ++
    leBytes 1 (b2n s.sec.owner.isSome + 2 * b2n (anyArmed s) + 4 * b2n (!metered s) + 8 * b2n un) ++
    leBytes 4 ((s.host.fw.running.map (fun i => i.svn)).getD 0) ++ leBytes 4 s.sec.rollback ++ leBytes 4 s.wafer.repair.id.toNat ++
    leBytes 2 (jobIdOf s).toNat ++ leBytes 2 0 ++ leBytes 4 s.sec.unlocks.toNat ++ slice nonce 0 32 ++
    ((List.range 8).map (fun i => beBytes 32 (mget 0 s.sec.mr i).toNat)).flatten ++ leBytes 56 0

/-- The 448-byte report. -/
def quoteBytes (s : State) (nonce : List Byte) : List Byte :=
  let b := quoteBody s nonce
  b ++ beBytes 64 (Config.sm2Sign 1 b).toNat

/-! ### The commands -/

/-- DBG_CHALLENGE. -/
def execDbgChallenge (h : CmdHdr) (level : Nat) (buf : HostBuf) (s : State) : Res :=
  serve s (fun s => hostCmd s h 0x0A01 (levelArg level) (fun s _ => challenge s level buf))

/-- DBG_UNLOCK. -/
def execDbgUnlock (h : CmdHdr) (level : Nat) (buf : HostBuf) (ageSeconds : Nat) (s : State) : Res :=
  serve s (fun s => hostCmd s h 0x0A02 (levelArg level) (fun s _ => unlock s level buf ageSeconds))

/-- DBG_LOCK (R628). -/
def execDbgLock (h : CmdHdr) (s : State) : Res := serve s (fun s => hostCmd s h 0x0A03 true (fun s _ => .good (dropLevel s)))

/-- DBG_HALT. -/
def execDbgHalt (h : CmdHdr) (s : State) : Res := serve s (fun s => hostCmd s h 0x0A04 true (fun s _ => haltAll s))

/-- DBG_RESUME. -/
def execDbgResume (h : CmdHdr) (s : State) : Res := serve s (fun s => hostCmd s h 0x0A05 true (fun s _ => resumeAll s))

/-- DBG_MEM. -/
def execDbgMem (h : CmdHdr) (dir : Nat) (addr : W64) (buf : HostBuf) (s : State) : Res :=
  serve s (fun s => hostCmd s h 0x0A06 true (fun s _ => debugMem s dir addr buf))

/-- DBG_TRACE. -/
def execDbgTrace (h : CmdHdr) (_traceSet : W64) (buf : HostBuf) (s : State) : Res :=
  serve s (fun s => hostCmd s h 0x0A07 true (fun s _ => traceOut s buf))

/-- DBG_COUNTERS. -/
def execDbgCounters (h : CmdHdr) (addr : BitVec 40) (words : Nat) (buf : HostBuf) (s : State) : Res :=
  serve s (fun s => hostCmd s h 0x0A08 true (fun s _ => readCounters s addr words buf))

/-- ATT_QUOTE. -/
def execAttQuote (h : CmdHdr) (nonce : List Byte) (buf : HostBuf) (s : State) : Res :=
  serve s (fun s => hostCmd s h 0x0B01 true (fun s _ =>
    if attests s then answer s buf (quoteBytes s nonce) else .say s .notPermitted))

/-- ATT_CERT. -/
def execAttCert (h : CmdHdr) (buf : HostBuf) (s : State) : Res :=
  serve s (fun s => hostCmd s h 0x0B02 true (fun s _ =>
    if attests s then answer s buf Config.certificates else .say s .notPermitted))

end Sys2Proof.Machine
end

