-- ==== Sys2Proof/Machine/Inject.lean ====
section
/-!
DEFINITION. Injection (15 R599 to R602, R607, R738, 20 R733, R734), patrol scrub (15 R581 to R584), failing channels and links
(15 R589, R590), and JTAG (16 R610, R625, 19 R698).
-/

namespace Sys2Proof.Machine

open Sys2Proof

/-! ### Points and targets (R599, R738) -/

/-- The DET codes of the detector table. -/
def isDet (p : Nat) : Bool :=
  [(0x0101, 0x0108), (0x0111, 0x0118), (0x0121, 0x012A), (0x0131, 0x0138), (0x0141, 0x0146), (0x0151, 0x0154), (0x0160, 0x0161),
   (0x0201, 0x0201), (0x0211, 0x0214), (0x0221, 0x022C), (0x0231, 0x0235), (0x0301, 0x030C), (0x0401, 0x0409), (0x0410, 0x0438),
   (0x0440, 0x044B)].any (fun r => decide (r.1 ≤ p ∧ p ≤ r.2))

/-- What FI_ARM arms. -/
inductive FiUnits where
  | tiles (l : List Nat) | fields (l : List Nat) | rim (k : Nat) | whole
  deriving DecidableEq, Repr

/-- The fields that a group names. -/
def groupFields (w : Wafer) (g : Nat) : List Nat := (List.range 84).filter (fun f => mget 0 w.groups (84 * g + f) != 0)

/-- The units of a point's target; none where the target does not match the point or names what cannot be armed. -/
def fiUnits (s : State) (p : Nat) (t : W64) : Option FiUnits :=
  let w := s.wafer
  if p / 256 = 4 then (if t = 0 then some .whole else none)
  else if t.toNat / 2 ^ 40 ≠ 0 ∨ bits t.toNat 24 0 ≠ 0 then none
  else match cfgAddr t.toNat with
    | none => none
    | some (tgt, _) =>
      match p / 256, tgt with
      | 1, .tile f u => if usable w (64 * f.val + u.val) then some (.tiles [64 * f.val + u.val]) else none
      | 1, .rim _ => none
      | 1, tgt => some (.tiles (cfgTargets w tgt 0))
      | 2, .tile f _ => if fieldUp w f.val then some (.fields [f.val]) else none
      | 2, .field f => some (.fields (if fieldUp w f.val then [f.val] else []))
      | 2, .group g => some (.fields ((groupFields w g.val).filter (fieldUp w)))
      | 2, .all => some (.fields ((List.range 84).filter (fieldUp w)))
      | 3, .rim k =>
        if (rimAt w k.val).failed ∨ (p = 0x030C ∧ k.val ≠ 0) ∨ ((p = 0x030A ∨ p = 0x030B) ∧ k.val ≠ 0 ∧ k.val ≠ 8) then none
        else some (.rim k.val)
      | _, _ => none

/-- True where FI_ARM's arguments pass R738. -/
def fiGood (p mode count : Nat) : Bool := isDet p && decide (mode ≤ 2 ∧ (mode ≠ 1 ∨ count ≠ 0))

/-! ### Points that need no command to fire (log 70) -/

/-- The firings of a register whose qualifying events follow one another as time passes, and the register after them. -/
def spend (r : FiReg) : Nat × FiReg :=
  match r.mode.toNat with
  | 0 => (1, { r with armed := false })
  | 1 => (r.count.toNat, { r with armed := false, count := 0 })
  | _ => (1, r)

/-- True where an armed register holds a point of a list. -/
def liveAt (r : FiReg) (l : List Nat) : Bool := r.armed && decide (r.mode ≠ 3) && l.contains r.point.toNat

/-- A field's armed point fires: rails below warning, a masked clock, a dark lane. -/
def fireField (s : State) (f : Fin 84) : State :=
  let r := (fieldAt s.wafer f).fi
  if !liveAt r [0x0228, 0x0229, 0x022B, 0x0233] then s
  else
    let (n, q) := spend r
    let s := onW s (fun w => onField w f (fun x => { x with fi := q, ctrs := bumpAt x.ctrs 0x9100 n }))
    if r.point = 0x0228 then railLow s (.vddF f) true
    else if r.point = 0x0229 then railLow s (.vddM f) true
    else if r.point = 0x022B then loseClock s f true
    else match (List.range 18).find? (fun i => (portAt s f).rxPos.getLsbD i) with
      | some i => loseLight s f i true
      | none => s

/-- A rim's armed point fires: a UCIe flit's CRC, the lock of its PLL. -/
def fireRim (s : State) (k : Nat) : State :=
  let r := (rimAt s.wafer k).fi
  if !liveAt r [0x030A, 0x030C] then s
  else
    let (n, q) := spend r
    let s := onW s (fun w => onRim w k (fun x => { x with fi := q, ctrs := bumpAt x.ctrs 0x32118 n }))
    if r.point = 0x030C then losePll s 0 true
    else detectAt (onW s (fun w => rimBump w k 0x32110 n)) 0x030A 0 (96 + k) 0 true

/-- A laser source that an injection disables: its bundle goes down. -/
def failSource (s : State) (b : Nat) : State :=
  if sourceLit s b then
    let s := (bundlePorts b).foldl (fun s f => if (portAt s f).state = .off then s else portDown s f) s
    detectAt s (0x0440 + b) 1 0xC5 b true
  else s

/-- The module's armed point fires. Points 0x0410 to 0x041F and 0x0440 to 0x044B stay until they are disarmed. A reversed or
overheated reading lasts for the armed sample alone. -/
def fireModule (s : State) : State :=
  let r := s.wafer.fiMod
  let p := r.point.toNat
  let stay := liveAt r ((List.range 16).map (fun i => 0x0410 + i) ++ (List.range 12).map (fun i => 0x0440 + i))
  if !stay && !liveAt r [0x0401, 0x0402, 0x0403, 0x0404, 0x0405, 0x0406, 0x0407, 0x0408, 0x0409, 0x0435, 0x0437, 0x0438] then s
  else
    let (n, q) := if stay then (1, r) else spend r
    let s := onW s (fun w => rimBump { w with fiMod := q } 0 0x32118 n)
    let d : Feed := if p % 2 = 1 then .a else .b
    if p < 0x0403 then feedLow s d true
    else if p < 0x0405 then loseFeed s d true
    else if p < 0x0407 then setSticky (detectAt s p 0 (feedLoc d) 0 true) 6
    else if p < 0x0409 then overvoltFeed s d true
    else if p = 0x0409 then railLow s .bus12 true
    else if p < 0x0420 then detectAt s p 0 0xC2 (p - 0x0410) true
    else if p = 0x0435 then detectAt s p 0 0xC0 0 true
    else if p = 0x0437 then watchdog s true
    else if p = 0x0438 then (if metered s then meterGone { s with dmt := { s.dmt with loop := false } } true else s)
    else failSource s (p - 0x0440)

/-- Registers armed, and what fires at once. -/
def armUnits (s : State) (u : FiUnits) (r : FiReg) : State :=
  match u with
  | .tiles l => onW s (fun w => l.foldl (fun w t => onTile w t (fun x => { x with fi := r })) w)
  | .fields l =>
    let s := onW s (fun w => l.foldl (fun w f => onField w f (fun x => { x with fi := r })) w)
    l.foldl (fun s f => fireField s (Fin.ofNat 84 f)) s
  | .rim k => fireRim (onW s (fun w => onRim w k (fun x => { x with fi := r }))) k
  | .whole => fireModule (onW s (fun w => { w with fiMod := r }))

/-- FI_ARM's work: it completes before what it armed fires. -/
def armPoint (s : State) (p : Prog) (point mode count : Nat) (target : W64) : Work :=
  if levelCode s.sec.level < 2 then .say s .notPermitted
  else if !fiGood point mode count then .say s .badArg
  else if point < 0x0400 ∧ s.pwr.phase ≠ .active then .say s .badState
  else match fiUnits s point target with
    | none => .say s .badArg
    | some u =>
      .wait (armUnits (complete s p 0) u ⟨BitVec.ofNat 16 point, BitVec.ofNat 2 mode, BitVec.ofNat 32 count, true⟩)

/-- Points disarmed (R602): one, or all with 0xFFFF. -/
def disarmPoint (w : Wafer) (p : Nat) : Wafer :=
  let off (r : FiReg) : FiReg := if p = 0xFFFF ∨ r.point.toNat = p then r.disarm else r
  { w with tiles := mapAll w.tiles (fun x => { x with fi := off x.fi })
           fields := mapAll w.fields (fun x => { x with fi := off x.fi })
           rims := mapAll w.rims (fun x => { x with fi := off x.fi })
           fiMod := off w.fiMod }

/-- The armed units in the order of R734: their scope-00 config address and their register. -/
def armedUnits (w : Wafer) : List (Nat × W64) :=
  let field (f : Nat) : List (Nat × W64) :=
    (if (fieldAt w f).fi.armed then [(cfgAddrOf (64 * f) 0x9000, (fieldAt w f).fi.word)] else []) ++
      (w.tiles.filter (fun p => decide (p.1 / 64 = f) && p.2.fi.armed)).map (fun p => (cfgAddrOf p.1 0x24000, p.2.fi.word))
  ((List.range 84).map field).flatten ++
    (w.rims.filter (fun p => p.2.fi.armed)).map (fun p => (cfgAddrOf (8192 + p.1) 0x32000, p.2.fi.word)) ++
    (if w.fiMod.armed then [(cfgAddrOf 8192 0x32040, w.fiMod.word)] else [])

/-- FI_STATUS' bytes, as many entries as fit `n` bytes. -/
def fiBytes (w : Wafer) (n : Nat) : List Byte :=
  let l := armedUnits w
  leBytes 4 l.length ++ leBytes 12 0 ++ ((l.take ((n - 16) / 16)).map (fun x => leBytes 8 x.1 ++ leBytes 8 x.2.toNat)).flatten

/-! ### Patrol scrub (R581 to R584) -/

/-- A record of what scrub found uncorrectable: severity 0, and nothing else follows. -/
def scrubRecord (s : State) (det loc tile addr : Nat) : State :=
  postRecord { s with rel := { s.rel with sticky := s.rel.sticky ||| detBits det } } ⟨det, 0, false, 0, loc, tile, addr, 0⟩

/-- A number put into a list once. -/
def addOnce (l : List Nat) (n : Nat) : List Nat := if l.contains n then l else l ++ [n]

/-- Scrub of one word of a scratchpad; the pass ends at its last word. What is written back is what the location holds, without
its error (R581). -/
def scrubSp (s : State) (t i : Nat) (r : EccResult) : State :=
  if !waferPowered s ∨ !usable s.wafer t ∨ 98304 ≤ i then s
  else
    let s := match r with
      | .clean => s
      | .corrected =>
        let w := onTile (tileBump s.wafer t 0x24100 1) t (fun x =>
          { x with spCor := x.spCor.filter (fun j => j != i) })
        detect { s with wafer := w } ⟨0x0101, 0, false, 0, t / 64, t % 64, 8 * i, 0⟩
      | .uncorrectable =>
        scrubRecord (onW s (fun w => onTile w t (fun x => { x with spUnc := addOnce x.spUnc i }))) 0x0102 (t / 64) (t % 64) (8 * i)
    if i = 98303 then onW s (fun w => tileBump w t 0x24120 1) else s

/-- Scrub of one granule of a slice: none of a group that is powered down. -/
def scrubBds (s : State) (t g : Nat) (r : EccResult) : State :=
  if !waferPowered s ∨ !usable s.wafer t ∨ 4194304 ≤ g ∨ !bdsReady s.wafer t (64 * g) 64 then s
  else match r with
    | .clean => s
    | .corrected =>
      let w := onTile (tileBump s.wafer t 0x24110 1) t (fun x =>
        { x with bdsCor := x.bdsCor.filter (fun j => j != g) })
      detect { s with wafer := w } ⟨0x0103, 0, false, 0, t / 64, t % 64, 64 * g, 0⟩
    | .uncorrectable =>
      scrubRecord (onW s (fun w => onTile w t (fun x => { x with bdsUnc := addOnce x.bdsUnc g }))) 0x0104 (t / 64) (t % 64) (64 * g)

/-- Scrub of one granule of a stack: none of a ZERO block. -/
def scrubHbm (s : State) (k g : Nat) (r : EccResult) : State :=
  let x := rimAt s.wafer k
  if !waferPowered s ∨ x.failed ∨ 1073741824 ≤ g ∨ (g / 32768 < 32766 ∧ x.block (g / 32768) = .zero) then s
  else match r with
    | .clean => s
    | .corrected =>
      let w := onRim (rimBump s.wafer k 0x32100 1) k (fun x =>
        { x with cor := x.cor.filter (fun j => j != g) })
      detectAt { s with wafer := w } 0x0301 0 (96 + k) (64 * g)
    | .uncorrectable =>
      scrubRecord (onW s (fun w => onRim w k (fun x => { x with unc := addOnce x.unc g }))) 0x0302 (96 + k) 0 (64 * g)

/-- Scrub of one granule of companion memory. -/
def scrubComp (s : State) (g : Nat) (r : EccResult) : State :=
  let x := s.wafer.comp
  if 34359738368 ≤ g ∨ (64 * g < fwRegion ∧ mget BlockState.zero x.blocks (g / 32768) = .zero) then s
  else match r with
    | .clean => s
    | .corrected =>
      let s := onW s (fun w => { w with comp := { w.comp with
        cor := w.comp.cor.filter (fun j => j != g) } })
      detectAt s 0x0433 0 0xC1 (64 * g)
    | .uncorrectable =>
      scrubRecord (onW s (fun w => { w with comp := { w.comp with unc := addOnce w.comp.unc g } })) 0x0434 0xC1 0 (64 * g)

/-- PATROL_SCRUB: of companion memory only while the companion die serves. -/
def patrol (s : State) (p : ScrubPlace) (r : EccResult) : State :=
  match p with
  | .scratchpad t i => scrubSp s (tkey t) i r
  | .bds t g => scrubBds s (tkey t) g r
  | .hbm k g => scrubHbm s k g r
  | .companion g => if serving s then scrubComp s g r else s

/-! ### Failing channels and links (R589, R590) -/

/-- LINK_FIELD_FAIL: the field fails at the next step boundary or abort; between steps, at once. -/
def failLink (s : State) (f : Nat) : State :=
  if !waferPowered s ∨ !fieldUp s.wafer f then s
  else
    let s := { s with rel := { s.rel with failing := insertUp f (s.rel.failing.filter (fun g => g != f)) } }
    if s.train.step.begun then s else settleLoss (failDue s) true

/-- The number of a hub's output or a rim's port among the links that have spare channels. -/
def linkKey : LinkPlace → Nat
  | .tile _ _ => 0 | .hub f out => 16 * f.val + out.val | .rim k f => 2048 + 84 * k.val + f.val

/-- A channel of a link at field `f` retired: counted, with one of `spares` in its place, or the field fails where none is left
(R589, R590). -/
def spendSpare (s : State) (x : LinkPlace) (f spares : Nat) : State :=
  if !waferPowered s ∨ !fieldUp s.wafer f then s
  else
    let n := mget 0 s.wafer.net.channels (linkKey x)
    if spares ≤ n then failLink s f
    else setSticky (onW s (fun w =>
      fieldBump { w with net := { w.net with channels := mput w.net.channels (linkKey x) (n + 1) } } f 0x9108 1)) 2

/-- CHANNEL_RETIRE: an express bundle has 8 spares, a rim's port 2, a mesh link or a tap none to retire. -/
def retireChannel (s : State) (x : LinkPlace) : State :=
  match x with
  | .tile _ _ => s
  | .hub f _ => spendSpare s x f 8
  | .rim _ f => spendSpare s x f 2

/-! ### JTAG (R625, R698) -/

/-- Bytes shifted out. -/
def shiftOut (s : State) (bs : List Byte) : State := { s with out := s.out ++ [.jtag bs] }

/-- A scan register's bytes; the spec gives none (log 46). -/
def scanFree (s : State) : State := let (k, s) := drawFree s; shiftOut s (Config.scanOut k)

/-- The level that an instruction needs. -/
def jtagLevel (op : JtagOp) : Nat :=
  match op with
  | .idcode => 0
  | .bypass => 0
  | .counter _ => 1
  | .trace => 1
  | .halt => 2
  | .resume => 2
  | .memRead _ _ => 2
  | .memWrite _ _ => 2
  | .scan => 3
  | .revokeKey _ => 3
  | .clearFailed => 3
  | .clearRetired => 3

/-- A list of the repair map cleared: a new map takes force while the wafer is powered. -/
def clearList (s : State) (f : Repair → Repair) : State :=
  let s := onW s (fun w => { w with repair := f w.repair })
  if waferPowered s then settleLoss s true else s

/-- JTAG_ACCESS: what the level does not allow does nothing. -/
def jtag (s : State) (op : JtagOp) : State :=
  if levelCode s.sec.level < jtagLevel op then s
  else match op with
    | .idcode => scanFree s
    | .bypass => s
    | .counter a =>
      (match cfgAddr a.toNat with
        | some (tgt, off) =>
          if isSingle tgt ∧ waferPowered s then (let (_, v, s) := readTarget s (firstTarget tgt) off; shiftOut s (leBytes 8 v.toNat)) else s
        | none => s)
    | .trace => if waferPowered s then scanFree s else s
    | .halt => if waferPowered s then onW s (fun w => { w with dbgHalt := true }) else s
    | .resume => onW s (fun w => { w with dbgHalt := false })
    | .memRead a n =>
      (match debugPlace s a.toNat n with
        | some x => (match debugRead s x n with | (some bs, s) => shiftOut s bs | (none, s) => s)
        | none => s)
    | .memWrite a bs =>
      (match debugPlace s a.toNat bs.length with
        | some x => if bs = [] then s else debugWrite s x bs
        | none => s)
    | .scan => scanFree s
    | .revokeKey i => { s with sec := { s.sec with revoked := s.sec.revoked ||| (1#12 <<< i.val) } }
    | .clearFailed => clearList s (fun r => { r with fields := [], rims := [] })
    | .clearRetired => clearList s (fun r => { r with retired := [] })

/-! ### The commands -/

/-- FI_ARM. -/
def execFiArm (h : CmdHdr) (point mode count : Nat) (target : W64) (s : State) : Res :=
  serve s (fun s => hostCmd s h 0x0C01 true (fun s p => armPoint s p point mode count target))

/-- FI_DISARM. -/
def execFiDisarm (h : CmdHdr) (point : Nat) (s : State) : Res :=
  serve s (fun s => hostCmd s h 0x0C02 true (fun s _ => .good (onW s (fun w => disarmPoint w point))))

/-- FI_STATUS. -/
def execFiStatus (h : CmdHdr) (buf : HostBuf) (s : State) : Res :=
  serve s (fun s => hostCmd s h 0x0C03 true (fun s _ => answer s buf (fiBytes s.wafer (bufSize buf))))

/-- The register of a unit's injection point (R607). -/
def fiPlace (u : FiUnit) : CfgTarget × Nat :=
  match u with
  | .tile f t => (.tile f t, 0x24000)
  | .field f => (.tile f 0, 0x9000)
  | .rim k => (.rim k, 0x32000)
  | .module => (.rim 0, 0x32040)

/-- What a unit's register, just written, fires at once. -/
def fireUnit (s : State) (u : FiUnit) : State :=
  match u with
  | .tile _ _ => s
  | .field f => fireField s f
  | .rim k => fireRim s k
  | .module => fireModule s

/-- FI_CTL_WRITE (R607, R733): only the control processor's writes take effect; one that the bridge holds fires nothing yet. -/
def execFiCtlWrite (src : CfgSrc) (unit : FiUnit) (value : W64) (s : State) : Res :=
  serve s (fun s =>
    let late := bridgeBusy s
    let s := configWriteAll s src (fiPlace unit).1 (fiPlace unit).2 value
    match src with | .firmware => if late then s else fireUnit s unit | .host => s)

/-- What the control processor's write at offset `off` of target `n` fires at once. -/
def fireAt (off : Nat) (s : State) (n : Nat) : State :=
  if n < 8192 then (if h : off = 0x9000 ∧ n / 64 < 84 then fireField s ⟨n / 64, h.2⟩ else s)
  else if off = 0x32000 then fireRim s (n - 8192)
  else if off = 0x32040 ∧ n = 8192 then fireModule s
  else s

/-- CFG (R279): what it applies to an injection register fires as FI_CTL_WRITE does (R607). -/
def execCfg (target : CfgTarget) (s : State) : Res :=
  let t := cfgArrives s target
  .next (settle (match s.host.cfg.cur with
    | some a =>
      let off := bits a.addr.toNat 24 0
      if a.write ∧ a.src = .firmware ∧ !s.wafer.frozen then
        ((packetTargets s.wafer target off).filter (fun n => a.todo.contains n)).foldl (fireAt off) t
      else t
    | none => t))

/-- PATROL_SCRUB. -/
def execPatrolScrub (p : ScrubPlace) (r : EccResult) (s : State) : Res := serve s (fun s => patrol s p r)

/-- CHANNEL_RETIRE. -/
def execChannelRetire (place : LinkPlace) (s : State) : Res := serve s (fun s => retireChannel s place)

/-- LINK_FIELD_FAIL. -/
def execLinkFieldFail (f : Fin 84) (s : State) : Res := serve s (fun s => failLink s f)

/-- JTAG_ACCESS. -/
def execJtagAccess (op : JtagOp) (s : State) : Res := serve s (fun s => jtag s op)

end Sys2Proof.Machine
end

