-- ==== Sys2Proof/Machine/Tile.lean ====
section
/-!
DEFINITION. The commands of the tiles and fields: the instructions of the vector and scalar core (05), the events of
the matrix array (03), of the DMA engines and the slices (06) and of the field reduction unit (05), over the operations
of their units.
-/

namespace Sys2Proof.Machine

open Sys2Proof

/-- HALT (R172, R176, R208). -/
def execHalt (t : TileId) (s : State) : Res := onWafer s (fun w => opHalt w (tkey t))

/-- BR (R176). -/
def execBr (t : TileId) (taken : Bool) (target : Fin 4096) (s : State) : Res := onWafer s (fun w => opBr w (tkey t) taken target)

/-- LOOP (R176). -/
def execLoop (t : TileId) (count length : Nat) (s : State) : Res := onWafer s (fun w => opLoop w (tkey t) count length)

/-- WAIT (R178, R305). -/
def execWait (t : TileId) (s : State) : Res := onWafer s (fun w => opWait w (tkey t))

/-- WINSET (R168, R171). -/
def execWinset (t : TileId) (pos : Fin 8) (en : Bool) (s : State) : Res := onWafer s (fun w => opWinset w (tkey t) pos en)

/-- FENCE (R177). -/
def execFence (t : TileId) (s : State) : Res := onWafer s (fun w => opFence w (tkey t))

/-- The scalar operations of class 0x01 (R176). -/
def execScalarOp (t : TileId) (fn : ScalarFn) (s : State) : Res := onWafer s (fun w => opScalar w (tkey t) fn)

/-- The scalar load and store of class 0x02 (R176). -/
def execScalarLoadStore (c : CoreAt) (dir : MemDir) (s : State) : Res := onWafer s (fun w => opScalarMem (coreWaits w (tkey c.tile) 2 c.waits) (tkey c.tile) dir)

/-- The FP32 lane operations of class 0x03 (R176, R179, R180). -/
def execVectorFp32 (c : CoreAt) (fn : Fp32Fn) (s : State) : Res := onWafer s (fun w => opFp32 (coreWaits w (tkey c.tile) 3 c.waits) (tkey c.tile) fn)

/-- The integer lane operations of class 0x04 (R176, R182). -/
def execVectorInteger (c : CoreAt) (fn : IntFn) (s : State) : Res := onWafer s (fun w => opInt (coreWaits w (tkey c.tile) 4 c.waits) (tkey c.tile) fn)

/-- The fixed-64 lane operations of class 0x05 (R164, R176). -/
def execVectorFixed64 (c : CoreAt) (fn : Fix64Fn) (s : State) : Res := onWafer s (fun w => opFix64 (coreWaits w (tkey c.tile) 5 c.waits) (tkey c.tile) fn)

/-- CVT_NARROW (R183). -/
def execCvtNarrow (c : CoreAt) (s : State) : Res := onWafer s (fun w => opCvtNarrow (coreWaits w (tkey c.tile) 6 c.waits) (tkey c.tile))

/-- CVT_WIDEN (R183). -/
def execCvtWiden (c : CoreAt) (s : State) : Res := onWafer s (fun w => opCvtWiden (coreWaits w (tkey c.tile) 6 c.waits) (tkey c.tile))

/-- CVT_MX (R54, R184). -/
def execCvtMx (c : CoreAt) (s : State) : Res := onWafer s (fun w => opCvtMx (coreWaits w (tkey c.tile) 6 c.waits) (tkey c.tile))

/-- CVT64F (R185). -/
def execCvt64f (c : CoreAt) (s : State) : Res := onWafer s (fun w => opCvt64f (coreWaits w (tkey c.tile) 6 c.waits) (tkey c.tile))

/-- CVT64N (R185). -/
def execCvt64n (c : CoreAt) (s : State) : Res := onWafer s (fun w => opCvt64n (coreWaits w (tkey c.tile) 6 c.waits) (tkey c.tile))

/-- CVTF64 (R186). -/
def execCvtf64 (c : CoreAt) (s : State) : Res := onWafer s (fun w => opCvtf64 (coreWaits w (tkey c.tile) 6 c.waits) (tkey c.tile))

/-- The special functions of class 0x07 (R181). -/
def execSpecialFunction (c : CoreAt) (fn : SpecFn) (s : State) : Res := onWafer s (fun w => opSpecial (coreWaits w (tkey c.tile) 7 c.waits) (tkey c.tile) fn)

/-- The reductions of class 0x08 (R189, R190). -/
def execTileReduction (c : CoreAt) (fn : RedFn) (axis : Fin 2) (s : State) : Res := onWafer s (fun w => opReduce (coreWaits w (tkey c.tile) 8 c.waits) (tkey c.tile) fn axis)

/-- VLD (R176). -/
def execVld (c : CoreAt) (s : State) : Res := onWafer s (fun w => opVld (coreWaits w (tkey c.tile) 9 c.waits) (tkey c.tile))

/-- VST (R176). -/
def execVst (c : CoreAt) (s : State) : Res := onWafer s (fun w => opVst (coreWaits w (tkey c.tile) 9 c.waits) (tkey c.tile))

/-- BST (R188). -/
def execBst (c : CoreAt) (s : State) : Res := onWafer s (fun w => opBst (coreWaits w (tkey c.tile) 9 c.waits) (tkey c.tile))

/-- JSET (R192). -/
def execJset (t : TileId) (s : State) : Res := onWafer s (fun w => opJset w (tkey t))

/-- JACC (R192, R193). -/
def execJacc (t : TileId) (s : State) : Res := onWafer s (fun w => opJacc w (tkey t))

/-- JCLOSE (R192). -/
def execJclose (t : TileId) (s : State) : Res := onWafer s (fun w => opJclose w (tkey t))

/-- JWR (R192, R194). -/
def execJwr (t : TileId) (s : State) : Res := onWafer s (fun w => opJwr w (tkey t))

/-- JRD (R192). -/
def execJrd (t : TileId) (row : Fin 64) (s : State) : Res := onWafer s (fun w => opJrd w (tkey t) row)

/-- PHX (R429). -/
def execPhx (c : CoreAt) (s : State) : Res := onWafer s (fun w => opPhx (coreWaits w (tkey c.tile) 11 c.waits) (tkey c.tile))

/-- SETF (R177, R304). -/
def execSetf (t : TileId) (s : State) : Res := onWafer s (fun w => opSetf w (tkey t))

/-- ADDC (R177, R304). -/
def execAddc (t : TileId) (s : State) : Res := onWafer s (fun w => opAddc w (tkey t))

/-- RDF (R304). -/
def execRdf (t : TileId) (s : State) : Res := onWafer s (fun w => opRdf w (tkey t))

/-- RDC (R304). -/
def execRdc (t : TileId) (s : State) : Res := onWafer s (fun w => opRdc w (tkey t))

/-- WATCH (R303, R304). -/
def execWatch (t : TileId) (s : State) : Res := onWafer s (fun w => opWatch w (tkey t))

/-- WCANCEL (R304). -/
def execWcancel (t : TileId) (s : State) : Res := onWafer s (fun w => opWcancel w (tkey t))

/-- ARRIVE (R304, R310). -/
def execArrive (t : TileId) (s : State) : Res := onWafer s (fun w => opArrive w (tkey t))

/-- RDGEN (R304). -/
def execRdgen (t : TileId) (s : State) : Res := onWafer s (fun w => opRdgen w (tkey t))

/-- FRU_POST (R177, R196). -/
def execFruPost (t : TileId) (s : State) : Res := onWafer s (fun w => opFruPost w (tkey t))

/-- The DMA post of class 0x0D (R237). -/
def execDmaPostInstruction (t : TileId) (s : State) : Res := onWafer s (fun w => opDmaPost w (tkey t))

/-- WAKE (R301, R305). -/
def execWake (t : TileId) (s : State) : Res := onWafer s (fun w => wakeCore w (tkey t))

/-- SET_ENTER (R93, R98). -/
def execSetEnter (t : TileId) (held : Nat) (s : State) : Res := onWafer s (fun w => setEnter w (tkey t) held)

/-- SHADOW_RELOAD_COMPLETE (R92, R93). -/
def execShadowReloadComplete (t : TileId) (held : Nat) (s : State) : Res := onWafer s (fun w => shadowComplete w (tkey t) held)

/-- GATE_OPEN (R115, R318). -/
def execGateOpen (t : TileId) (held : Nat) (s : State) : Res := onWafer s (fun w => gateOpen w (tkey t) held)

/-- IDLE_SLOT_END (R114). -/
def execIdleSlotEnd (t : TileId) (s : State) : Res := onWafer s (fun w => idleEnd w (tkey t))

/-- TILE_CAPTURE (R66, R100 to R104). -/
def execTileCapture (t : TileId) (busy : Nat) (s : State) : Res := onWafer s (fun w => tileCapture w (tkey t) busy)

/-- DRAIN_WRITE_COMPLETE (R103, R295). -/
def execDrainWriteComplete (t : TileId) (s : State) : Res := onWafer s (fun w => drainComplete w (tkey t))

/-- TABLE_COMPLETE (R124). -/
def execTableComplete (t : TileId) (s : State) : Res := onWafer s (fun w => tableComplete w (tkey t))

/-- DESCRIPTOR_ACCEPT (R236, R237, R247). -/
def execDescriptorAccept (t : TileId) (engine : Fin 2) (s : State) : Res := onWafer s (fun w => acceptPost w (tkey t) engine)

/-- DESCRIPTOR_START (R244). -/
def execDescriptorStart (t : TileId) (engine : Fin 2) (s : State) : Res := onWafer s (fun w => startDesc w (tkey t) engine)

/-- DESCRIPTOR_COMPLETE (R245). -/
def execDescriptorComplete (t : TileId) (engine : EngineEnd) (s : State) : Res := onWafer s (fun w => completeDesc w (tkey t) engine.engine engine.bankWait)

/-- DMA_RUNNING_FAULT (R248). -/
def execDmaRunningFault (t : TileId) (engine : Fin 2) (s : State) : Res := onWafer s (fun w => faultDesc w (tkey t) engine)

/-- BDS_REFRESH (R230). -/
def execBdsRefresh (t : TileId) (bank : Fin 16) (s : State) : Res := onWafer s (fun w => refreshBank w (tkey t) bank)

/-- BDS_REFRESH_END (R231). -/
def execBdsRefreshEnd (t : TileId) (bank : Fin 16) (waited : Nat) (s : State) : Res := onWafer s (fun w => refreshEnd w (tkey t) bank waited)

/-- BDS_WAKE_DONE (R233, R234). -/
def execBdsWakeDone (t : TileId) (g : Fin 4) (s : State) : Res := onWafer s (fun w => wakeDone w (tkey t) g)

/-- FRU_READY (R198). -/
def execFruReady (f : Fin 84) (s : State) : Res := onWafer s (fun w => fruReady w f)

/-- FRU_COMPLETE (R198). -/
def execFruComplete (f : Fin 84) (s : State) : Res := onWafer s (fun w => fruComplete w f)

/-- BDS_FENCE_DONE (R232). -/
def execBdsFenceDone (f : Fin 84) (g : Fin 4) (s : State) : Res := onWafer s (fun w => fenceDone w f g)

/-- BDS_ENTRY_DONE (R232, R235). -/
def execBdsEntryDone (f : Fin 84) (g : Fin 4) (s : State) : Res := onWafer s (fun w => entryDone w f g)

/-- SYNC_PACKET (R262, R296). -/
def execSyncPacket (n : Nat) (s : State) : Res := onWafer s (fun w => syncArrives w n)

end Sys2Proof.Machine
end

