-- ==== Sys2Proof/Machine/Dispatch.lean ====
section
/-!
DEFINITION. The meaning of every command: one arm for each constructor of `Instr`.
-/

namespace Sys2Proof.Machine

open Sys2Proof

def exec (i : Instr) (s : State) : Host.Outcome State Fault Refusal :=
  match i with
  | .devIdentify h buf => Sys2Proof.Machine.execDevIdentify h buf s
  | .devStatus h => Sys2Proof.Machine.execDevStatus h s
  | .devEventWait h => Sys2Proof.Machine.execDevEventWait h s
  | .devTreeConfig h moduleId role parent children ports treeId => Sys2Proof.Machine.execDevTreeConfig h moduleId role parent children ports treeId s
  | .devReset h kind => Sys2Proof.Machine.execDevReset h kind s
  | .devFwLoad h offset buf => Sys2Proof.Machine.execDevFwLoad h offset buf s
  | .devFwCommit h length => Sys2Proof.Machine.execDevFwCommit h length s
  | .devFwActivate h raiseSvn => Sys2Proof.Machine.execDevFwActivate h raiseSvn s
  | .jobOpen h jobId buf imageSm3 => Sys2Proof.Machine.execJobOpen h jobId buf imageSm3 s
  | .jobStart h => Sys2Proof.Machine.execJobStart h s
  | .jobClose h mode => Sys2Proof.Machine.execJobClose h mode s
  | .stepRun h count verify trace ref slot buf => Sys2Proof.Machine.execStepRun h count verify trace ref slot buf s
  | .stepStop h => Sys2Proof.Machine.execStepStop h s
  | .stepResume h => Sys2Proof.Machine.execStepResume h s
  | .stepReplay h step traceSet buf => Sys2Proof.Machine.execStepReplay h step traceSet buf s
  | .stepConst h prog first k => Sys2Proof.Machine.execStepConst h prog first k s
  | .syncArrive h line wait => Sys2Proof.Machine.execSyncArrive h line wait s
  | .syncWatch h w0 w1 => Sys2Proof.Machine.execSyncWatch h w0 w1 s
  | .syncSignal h addr value => Sys2Proof.Machine.execSyncSignal h addr value s
  | .dataWrite h addr buf => Sys2Proof.Machine.execDataWrite h addr buf s
  | .dataRead h addr buf => Sys2Proof.Machine.execDataRead h addr buf s
  | .dataStage h step offset bytes desc => Sys2Proof.Machine.execDataStage h step offset bytes desc s
  | .dataRetain h stack first count toState => Sys2Proof.Machine.execDataRetain h stack first count toState s
  | .stateLrRead h first count buf => Sys2Proof.Machine.execStateLrRead h first count buf s
  | .stateReplayRead h buf => Sys2Proof.Machine.execStateReplayRead h buf s
  | .stateJob h buf => Sys2Proof.Machine.execStateJob h buf s
  | .ckptCapture h => Sys2Proof.Machine.execCkptCapture h s
  | .ckptList h buf => Sys2Proof.Machine.execCkptList h buf s
  | .ckptRead h slot offset buf => Sys2Proof.Machine.execCkptRead h slot offset buf s
  | .ckptRelease h slot => Sys2Proof.Machine.execCkptRelease h slot s
  | .ckptRestore h source slot buf => Sys2Proof.Machine.execCkptRestore h source slot buf s
  | .ckptKey h buf => Sys2Proof.Machine.execCkptKey h buf s
  | .galNet h args => Sys2Proof.Machine.execGalNet h args s
  | .galKey h buf => Sys2Proof.Machine.execGalKey h buf s
  | .galStatus h => Sys2Proof.Machine.execGalStatus h s
  | .pwrPolicy h boost cap => Sys2Proof.Machine.execPwrPolicy h boost cap s
  | .pwrRampUp h => Sys2Proof.Machine.execPwrRampUp h s
  | .pwrState h target => Sys2Proof.Machine.execPwrState h target s
  | .mtrMark h => Sys2Proof.Machine.execMtrMark h s
  | .mtrStatus h => Sys2Proof.Machine.execMtrStatus h s
  | .dbgChallenge h level buf => Sys2Proof.Machine.execDbgChallenge h level buf s
  | .dbgUnlock h level buf ageSeconds => Sys2Proof.Machine.execDbgUnlock h level buf ageSeconds s
  | .dbgLock h => Sys2Proof.Machine.execDbgLock h s
  | .dbgHalt h => Sys2Proof.Machine.execDbgHalt h s
  | .dbgResume h => Sys2Proof.Machine.execDbgResume h s
  | .dbgMem h dir addr buf => Sys2Proof.Machine.execDbgMem h dir addr buf s
  | .dbgTrace h traceSet buf => Sys2Proof.Machine.execDbgTrace h traceSet buf s
  | .dbgCounters h addr words buf => Sys2Proof.Machine.execDbgCounters h addr words buf s
  | .attQuote h nonce buf => Sys2Proof.Machine.execAttQuote h nonce buf s
  | .attCert h buf => Sys2Proof.Machine.execAttCert h buf s
  | .fiArm h point mode count target => Sys2Proof.Machine.execFiArm h point mode count target s
  | .fiDisarm h point => Sys2Proof.Machine.execFiDisarm h point s
  | .fiStatus h buf => Sys2Proof.Machine.execFiStatus h buf s
  | .dbSqTail ring value => Sys2Proof.Machine.execDbSqTail ring value s
  | .dbCqHead ring value => Sys2Proof.Machine.execDbCqHead ring value s
  | .ringEnable ring ctl => Sys2Proof.Machine.execRingEnable ring ctl s
  | .ringDisable ring ctl => Sys2Proof.Machine.execRingDisable ring ctl s
  | .ringStopped ring => Sys2Proof.Machine.execRingStopped ring s
  | .commandTake entry => Sys2Proof.Machine.execCommandTake entry s
  | .exclusiveStart => Sys2Proof.Machine.execExclusiveStart s
  | .progressEntry ring cmdId stage done total => Sys2Proof.Machine.execProgressEntry ring cmdId stage done total s
  | .coalTimeExpiry ring => Sys2Proof.Machine.execCoalTimeExpiry ring s
  | .eventDropReport => Sys2Proof.Machine.execEventDropReport s
  | .functionPortMove => Sys2Proof.Machine.execFunctionPortMove s
  | .flr => Sys2Proof.Machine.execFlr s
  | .perst port asserted => Sys2Proof.Machine.execPerst port asserted s
  | .sysReset lowMicroseconds => Sys2Proof.Machine.execSysReset lowMicroseconds s
  | .configRead ctl => Sys2Proof.Machine.execConfigRead ctl s
  | .configWrite ctl => Sys2Proof.Machine.execConfigWrite ctl s
  | .configAccessComplete => Sys2Proof.Machine.execConfigAccessComplete s
  | .mbEventClear value => Sys2Proof.Machine.execMbEventClear value s
  | .mbEventMask value => Sys2Proof.Machine.execMbEventMask value s
  | .registerWrite w => Sys2Proof.Machine.execRegisterWrite w s
  | .cadRun src target value => Sys2Proof.Machine.execCadRun src target value s
  | .cadArm src target value => Sys2Proof.Machine.execCadArm src target value s
  | .vcRun src target value => Sys2Proof.Machine.execVcRun src target value s
  | .vcWin src target value => Sys2Proof.Machine.execVcWin src target value s
  | .dmaPost src target engine value => Sys2Proof.Machine.execDmaPost src target engine value s
  | .dmaClear src target engine value => Sys2Proof.Machine.execDmaClear src target engine value s
  | .bdsPdRequest src target value => Sys2Proof.Machine.execBdsPdRequest src target value s
  | .bdsPdClear src target value => Sys2Proof.Machine.execBdsPdClear src target value s
  | .simmerLevel src target value => Sys2Proof.Machine.execSimmerLevel src target value s
  | .syncFlagWrite src target ix value => Sys2Proof.Machine.execSyncFlagWrite src target ix value s
  | .syncSetf src target value => Sys2Proof.Machine.execSyncSetf src target value s
  | .syncAddc src target value => Sys2Proof.Machine.execSyncAddc src target value s
  | .syncCtrWrite src target ix value => Sys2Proof.Machine.execSyncCtrWrite src target ix value s
  | .banMaskWrite src target line value => Sys2Proof.Machine.execBanMaskWrite src target line value s
  | .banLineWrite src line value => Sys2Proof.Machine.execBanLineWrite src line value s
  | .rimStep src rim value => Sys2Proof.Machine.execRimStep src rim value s
  | .fiCtlWrite src unit value => Sys2Proof.Machine.execFiCtlWrite src unit value s
  | .grpMaskWrite src g f value => Sys2Proof.Machine.execGrpMaskWrite src g f value s
  | .halt t => Sys2Proof.Machine.execHalt t s
  | .br t taken target => Sys2Proof.Machine.execBr t taken target s
  | .loop t count length => Sys2Proof.Machine.execLoop t count length s
  | .wait t => Sys2Proof.Machine.execWait t s
  | .winset t pos en => Sys2Proof.Machine.execWinset t pos en s
  | .fence t => Sys2Proof.Machine.execFence t s
  | .scalarOp t fn => Sys2Proof.Machine.execScalarOp t fn s
  | .scalarLoadStore c dir => Sys2Proof.Machine.execScalarLoadStore c dir s
  | .vectorFp32 c fn => Sys2Proof.Machine.execVectorFp32 c fn s
  | .vectorInteger c fn => Sys2Proof.Machine.execVectorInteger c fn s
  | .vectorFixed64 c fn => Sys2Proof.Machine.execVectorFixed64 c fn s
  | .cvtNarrow c => Sys2Proof.Machine.execCvtNarrow c s
  | .cvtWiden c => Sys2Proof.Machine.execCvtWiden c s
  | .cvtMx c => Sys2Proof.Machine.execCvtMx c s
  | .cvt64f c => Sys2Proof.Machine.execCvt64f c s
  | .cvt64n c => Sys2Proof.Machine.execCvt64n c s
  | .cvtf64 c => Sys2Proof.Machine.execCvtf64 c s
  | .specialFunction c fn => Sys2Proof.Machine.execSpecialFunction c fn s
  | .tileReduction c fn axis => Sys2Proof.Machine.execTileReduction c fn axis s
  | .vld c => Sys2Proof.Machine.execVld c s
  | .vst c => Sys2Proof.Machine.execVst c s
  | .bst c => Sys2Proof.Machine.execBst c s
  | .jset t => Sys2Proof.Machine.execJset t s
  | .jacc t => Sys2Proof.Machine.execJacc t s
  | .jclose t => Sys2Proof.Machine.execJclose t s
  | .jwr t => Sys2Proof.Machine.execJwr t s
  | .jrd t row => Sys2Proof.Machine.execJrd t row s
  | .phx c => Sys2Proof.Machine.execPhx c s
  | .setf t => Sys2Proof.Machine.execSetf t s
  | .addc t => Sys2Proof.Machine.execAddc t s
  | .rdf t => Sys2Proof.Machine.execRdf t s
  | .rdc t => Sys2Proof.Machine.execRdc t s
  | .watch t => Sys2Proof.Machine.execWatch t s
  | .wcancel t => Sys2Proof.Machine.execWcancel t s
  | .arrive t => Sys2Proof.Machine.execArrive t s
  | .rdgen t => Sys2Proof.Machine.execRdgen t s
  | .fruPost t => Sys2Proof.Machine.execFruPost t s
  | .dmaPostInstruction t => Sys2Proof.Machine.execDmaPostInstruction t s
  | .setEnter t heldCycles => Sys2Proof.Machine.execSetEnter t heldCycles s
  | .shadowReloadComplete t heldCycles => Sys2Proof.Machine.execShadowReloadComplete t heldCycles s
  | .gateOpen t heldCycles => Sys2Proof.Machine.execGateOpen t heldCycles s
  | .idleSlotEnd t => Sys2Proof.Machine.execIdleSlotEnd t s
  | .tileCapture t busyCycles => Sys2Proof.Machine.execTileCapture t busyCycles s
  | .drainWriteComplete t => Sys2Proof.Machine.execDrainWriteComplete t s
  | .tableComplete t => Sys2Proof.Machine.execTableComplete t s
  | .descriptorAccept t engine => Sys2Proof.Machine.execDescriptorAccept t engine s
  | .descriptorStart t engine => Sys2Proof.Machine.execDescriptorStart t engine s
  | .descriptorComplete t engine => Sys2Proof.Machine.execDescriptorComplete t engine s
  | .dmaRunningFault t engine => Sys2Proof.Machine.execDmaRunningFault t engine s
  | .fruReady f => Sys2Proof.Machine.execFruReady f s
  | .fruComplete f => Sys2Proof.Machine.execFruComplete f s
  | .wake t => Sys2Proof.Machine.execWake t s
  | .syncPacket n => Sys2Proof.Machine.execSyncPacket n s
  | .lineRelease line => Sys2Proof.Machine.execLineRelease line s
  | .simmerSample => Sys2Proof.Machine.execSimmerSample s
  | .simmerStepDown => Sys2Proof.Machine.execSimmerStepDown s
  | .simmerStepUp => Sys2Proof.Machine.execSimmerStepUp s
  | .rdReq n => Sys2Proof.Machine.execRdReq n s
  | .rdResp n => Sys2Proof.Machine.execRdResp n s
  | .wr n => Sys2Proof.Machine.execWr n s
  | .wrAck n => Sys2Proof.Machine.execWrAck n s
  | .nrd n => Sys2Proof.Machine.execNrd n s
  | .nrdResp n => Sys2Proof.Machine.execNrdResp n s
  | .nwr n => Sys2Proof.Machine.execNwr n s
  | .stream n => Sys2Proof.Machine.execStream n s
  | .cfg target => Sys2Proof.Machine.execCfg target s
  | .cfgResp target => Sys2Proof.Machine.execCfgResp target s
  | .flitCrcReplay place => Sys2Proof.Machine.execFlitCrcReplay place s
  | .vc7Age place => Sys2Proof.Machine.execVc7Age place s
  | .bdsRefresh t bank => Sys2Proof.Machine.execBdsRefresh t bank s
  | .bdsRefreshEnd t bank waitedCycles => Sys2Proof.Machine.execBdsRefreshEnd t bank waitedCycles s
  | .bdsFenceDone f g => Sys2Proof.Machine.execBdsFenceDone f g s
  | .bdsEntryDone f g => Sys2Proof.Machine.execBdsEntryDone f g s
  | .lateAccess n => Sys2Proof.Machine.execLateAccess n s
  | .bdsWakeDone t g => Sys2Proof.Machine.execBdsWakeDone t g s
  | .streamEntryRead k waitedCycles => Sys2Proof.Machine.execStreamEntryRead k waitedCycles s
  | .streamEntrySend k waitedCycles => Sys2Proof.Machine.execStreamEntrySend k waitedCycles s
  | .acc n => Sys2Proof.Machine.execAcc n s
  | .areaOpen k a base count t expect => Sys2Proof.Machine.execAreaOpen k a base count t expect s
  | .areaZeroingDone k a => Sys2Proof.Machine.execAreaZeroingDone k a s
  | .backgroundZeroer k block => Sys2Proof.Machine.execBackgroundZeroer k block s
  | .stepBegin => Sys2Proof.Machine.execStepBegin s
  | .batchWaitTimeout => Sys2Proof.Machine.execBatchWaitTimeout s
  | .backwardBarrier => Sys2Proof.Machine.execBackwardBarrier s
  | .tieSumComplete k a owner region => Sys2Proof.Machine.execTieSumComplete k a owner region s
  | .orthP tensor => Sys2Proof.Machine.execOrthP tensor s
  | .globalQImage tensor => Sys2Proof.Machine.execGlobalQImage tensor s
  | .normSquareSend tensor => Sys2Proof.Machine.execNormSquareSend tensor s
  | .normVerdict => Sys2Proof.Machine.execNormVerdict s
  | .fastShardCommit tensor shard => Sys2Proof.Machine.execFastShardCommit tensor shard s
  | .slowTierTransfer tensor => Sys2Proof.Machine.execSlowTierTransfer tensor s
  | .slowTierCommit tensor => Sys2Proof.Machine.execSlowTierCommit tensor s
  | .slowTierPublish tensor => Sys2Proof.Machine.execSlowTierPublish tensor s
  | .driftAudit tensor => Sys2Proof.Machine.execDriftAudit tensor s
  | .commitPoint => Sys2Proof.Machine.execCommitPoint s
  | .stepAbort cause => Sys2Proof.Machine.execStepAbort cause s
  | .checkpointCapture => Sys2Proof.Machine.execCheckpointCapture s
  | .galleryEmission tensor => Sys2Proof.Machine.execGalleryEmission tensor s
  | .seal => Sys2Proof.Machine.execSeal s
  | .ack seq fromConfigured => Sys2Proof.Machine.execAck seq fromConfigured s
  | .resend first count fromConfigured => Sys2Proof.Machine.execResend first count fromConfigured s
  | .linkTraining f r => Sys2Proof.Machine.execLinkTraining f r s
  | .portRetrainTimer => Sys2Proof.Machine.execPortRetrainTimer s
  | .lossOfLight f pos => Sys2Proof.Machine.execLossOfLight f pos s
  | .spareLaneUp f dir pos => Sys2Proof.Machine.execSpareLaneUp f dir pos s
  | .blockTrailer f tr => Sys2Proof.Machine.execBlockTrailer f tr s
  | .fecRetrain f => Sys2Proof.Machine.execFecRetrain f s
  | .id f p => Sys2Proof.Machine.execId f p s
  | .idTimeout f => Sys2Proof.Machine.execIdTimeout f s
  | .mismatchResend f => Sys2Proof.Machine.execMismatchResend f s
  | .part f l => Sys2Proof.Machine.execPart f l s
  | .globalLine f l => Sys2Proof.Machine.execGlobalLine f l s
  | .tdecl f k a t => Sys2Proof.Machine.execTdecl f k a t s
  | .linkArrive f jobId line gen => Sys2Proof.Machine.execLinkArrive f jobId line gen s
  | .linkRelease f jobId line gen => Sys2Proof.Machine.execLinkRelease f jobId line gen s
  | .join f jobId imageSm3 down ok => Sys2Proof.Machine.execJoin f jobId imageSm3 down ok s
  | .amax f first vals final => Sys2Proof.Machine.execAmax f first vals final s
  | .verdict f v cause norm => Sys2Proof.Machine.execVerdict f v cause norm s
  | .prepared f step => Sys2Proof.Machine.execPrepared f step s
  | .commit f step => Sys2Proof.Machine.execCommit f step s
  | .abort f step attempt causes => Sys2Proof.Machine.execAbort f step attempt causes s
  | .fault f => Sys2Proof.Machine.execFault f s
  | .bundleDownTimeout b => Sys2Proof.Machine.execBundleDownTimeout b s
  | .feedBelow44v d => Sys2Proof.Machine.execFeedBelow44v d s
  | .railBelowWarning r => Sys2Proof.Machine.execRailBelowWarning r s
  | .freezeRecovery => Sys2Proof.Machine.execFreezeRecovery s
  | .freezeTimeout => Sys2Proof.Machine.execFreezeTimeout s
  | .feedLost d => Sys2Proof.Machine.execFeedLost d s
  | .feedRejoin d => Sys2Proof.Machine.execFeedRejoin d s
  | .feedOvervoltage d => Sys2Proof.Machine.execFeedOvervoltage d s
  | .feedReversed d => Sys2Proof.Machine.execFeedReversed d s
  | .fullReset => Sys2Proof.Machine.execFullReset s
  | .regulatorTrip f => Sys2Proof.Machine.execRegulatorTrip f s
  | .domainShort d => Sys2Proof.Machine.execDomainShort d s
  | .senseTest f openA openB => Sys2Proof.Machine.execSenseTest f openA openB s
  | .thermistorFailure ix shorted => Sys2Proof.Machine.execThermistorFailure ix shorted s
  | .busConverterFail ix => Sys2Proof.Machine.execBusConverterFail ix s
  | .governorSample r => Sys2Proof.Machine.execGovernorSample r s
  | .clockStepDown => Sys2Proof.Machine.execClockStepDown s
  | .clockStepUp => Sys2Proof.Machine.execClockStepUp s
  | .clockSlewDone => Sys2Proof.Machine.execClockSlewDone s
  | .vddFChangeDone => Sys2Proof.Machine.execVddFChangeDone s
  | .governorFloorStop => Sys2Proof.Machine.execGovernorFloorStop s
  | .thermalSample f junction memory => Sys2Proof.Machine.execThermalSample f junction memory s
  | .throttleDutyDown f => Sys2Proof.Machine.execThrottleDutyDown f s
  | .throttleDutyUp f => Sys2Proof.Machine.execThrottleDutyUp f s
  | .throttleFloorTimeout f => Sys2Proof.Machine.execThrottleFloorTimeout f s
  | .hbmOvertemp k temp => Sys2Proof.Machine.execHbmOvertemp k temp s
  | .companionOvertemp temp => Sys2Proof.Machine.execCompanionOvertemp temp s
  | .coolantInletTimeout => Sys2Proof.Machine.execCoolantInletTimeout s
  | .coolantFlowTimeout => Sys2Proof.Machine.execCoolantFlowTimeout s
  | .coolantFlowPowerOff => Sys2Proof.Machine.execCoolantFlowPowerOff s
  | .pllLockLoss rim => Sys2Proof.Machine.execPllLockLoss rim s
  | .clockInputLoss f => Sys2Proof.Machine.execClockInputLoss f s
  | .patrolScrub p r => Sys2Proof.Machine.execPatrolScrub p r s
  | .channelRetire place => Sys2Proof.Machine.execChannelRetire place s
  | .linkFieldFail f => Sys2Proof.Machine.execLinkFieldFail f s
  | .watchdogExpiry => Sys2Proof.Machine.execWatchdogExpiry s
  | .switchComplete => Sys2Proof.Machine.execSwitchComplete s
  | .jobMarkSend => Sys2Proof.Machine.execJobMarkSend s
  | .presenceChange loop idOk identity => Sys2Proof.Machine.execPresenceChange loop idOk identity s
  | .adcSample va ia vb ib => Sys2Proof.Machine.execAdcSample va ia vb ib s
  | .markFrame frame => Sys2Proof.Machine.execMarkFrame frame s
  | .intervalClose => Sys2Proof.Machine.execIntervalClose s
  | .meterSave => Sys2Proof.Machine.execMeterSave s
  | .supplyFailing => Sys2Proof.Machine.execSupplyFailing s
  | .meterPowerUp elapsedTicks timeKept => Sys2Proof.Machine.execMeterPowerUp elapsedTicks timeKept s
  | .caseOpened => Sys2Proof.Machine.execCaseOpened s
  | .displayAdvance => Sys2Proof.Machine.execDisplayAdvance s
  | .identify => Sys2Proof.Machine.execIdentify s
  | .totals nonce => Sys2Proof.Machine.execTotals nonce s
  | .intervals nonce first count => Sys2Proof.Machine.execIntervals nonce first count s
  | .events nonce first count => Sys2Proof.Machine.execEvents nonce first count s
  | .status => Sys2Proof.Machine.execStatus s
  | .stageAlwaysOn feedA feedB inlet flow identity => Sys2Proof.Machine.execStageAlwaysOn feedA feedB inlet flow identity s
  | .stageCompanion pciePort0 pciePort1 => Sys2Proof.Machine.execStageCompanion pciePort0 pciePort1 s
  | .stageMemoryWafer failedSlices => Sys2Proof.Machine.execStageMemoryWafer failedSlices s
  | .stageFields failedRails => Sys2Proof.Machine.execStageFields failedRails s
  | .stageClock pll0 check => Sys2Proof.Machine.execStageClock pll0 check s
  | .stageTiles failedTiles => Sys2Proof.Machine.execStageTiles failedTiles s
  | .stageLinks failedStacks ucie0 ucie8 eth0 eth1 => Sys2Proof.Machine.execStageLinks failedStacks ucie0 ucie8 eth0 eth1 s
  | .readyPost => Sys2Proof.Machine.execReadyPost s
  | .warmRestart => Sys2Proof.Machine.execWarmRestart s
  | .mbHeartBeat => Sys2Proof.Machine.execMbHeartBeat s
  | .laserSourceModuleChange bay latched => Sys2Proof.Machine.execLaserSourceModuleChange bay latched s
  | .ethernetLinkChange port up => Sys2Proof.Machine.execEthernetLinkChange port up s
  | .busMasterEnable => Sys2Proof.Machine.execBusMasterEnable s
  | .jtagAccess op => Sys2Proof.Machine.execJtagAccess op s
  | .hbmPerBankRefresh k bank waitedCycles => Sys2Proof.Machine.execHbmPerBankRefresh k bank waitedCycles s
  | .coolantConditionsLost => Sys2Proof.Machine.execCoolantConditionsLost s
  | .displayReturnTimeout => Sys2Proof.Machine.execDisplayReturnTimeout s

end Sys2Proof.Machine
end

