-- ==== Sys2Proof/Safety.lean ====
section
/-!
DEFINITION. What counts as a sound state and as an ordinary moment, in the terms the claims use: the meter's legal bounds,
a wafer on which nothing waits for the firmware, a core that issues a word, a tile without errors, and what one
instruction leaves of its tile.
-/

namespace Sys2Proof.Safety

open Sys2Proof Sys2Proof.Machine

/-- Energy registers within their legal bounds: below 10^14 mWh, rollover counts of 16 bits (R643). -/
def registersSound (r : Registers) : Prop :=
  r.eA < 10 ^ 14 ∧ r.eB < 10 ^ 14 ∧ r.eT < 10 ^ 14 ∧ r.erA < 10 ^ 14 ∧ r.erB < 10 ^ 14 ∧ r.roA < 65536 ∧ r.roB < 65536 ∧
    r.roT < 65536

/-- The legal bounds of the meter: its registers and the saved ones (R643, R645), at most 131,072 records (R652) and 4,096
events (R654). -/
def meterSound (m : Meter) : Prop :=
  registersSound m.regs ∧ registersSound m.saved.regs ∧ m.records.length ≤ 131072 ∧ m.events.length ≤ 4096

/-! ### One tile -/

/-- The state with tile `t` as given and everything else unchanged. -/
def withTile (s : State) (t : TileId) (x : Tile) : State := { s with wafer := setTile s.wafer (tkey t) x }

/-- No error is marked at the tile and no injection is armed there. -/
def tileSound (x : Tile) : Prop :=
  x.fi.armed = false ∧ x.spUnc = [] ∧ x.spCor = [] ∧ x.bdsUnc = [] ∧ x.bdsCor = [] ∧ x.tagBad = [] ∧ x.cfgBad = []

/-- The core of tile `k` issues the legal word `v` of class `cls` (R174, R175). -/
def coreIssues (w : Wafer) (k cls v : Nat) : Prop :=
  blocked w = false ∧ usable w k = true ∧ (tileAt w k).vc.phase = .running ∧ (tileAt w k).vc.waits = [] ∧
    (tileAt w k).vc.pc ≤ 4095 ∧ tileSound (tileAt w k) ∧ fetch w k = v ∧ illegalWord v = false ∧ wCls v = cls

/-- A tile after an instruction that only advances: the program counter moves on, CNT_VINSTR rises (R211). -/
def retired (x : Tile) : Tile := { x with vc := nextPc x.vc, ctrs := bumpAt x.ctrs 0x19100 1 }

/-- A tile whose core has taken a fault with a code and a detail (R203). -/
def coreFaulted (x : Tile) (code detail : Nat) : Tile :=
  { x with vc := { x.vc with phase := .faulted, run := false, fault := BitVec.ofNat 8 code
                             detail := BitVec.ofNat 64 detail } }

/-- 64 lanes written under a mask to a vector register (R166) or, through the window, to a scratchpad line (R167, R222). -/
def lanesInto (x : Tile) (d : Dest) (mask : W64) (vals : List W32) : Tile :=
  match d with
  | .v r => { x with vc := putLanes x.vc r mask vals }
  | .line l =>
    let old := bytesToLanes (x.sp.readN (lineOff x.vc l) 256)
    spWrite x (lineOff x.vc l)
      (lanesToBytes ((List.range 64).map (fun i => if mask.getLsbD i then vals.getD i 0 else old.getD i 0)))
  | _ => x

/-- A scalar written to s*n* or to lm. -/
def scalarInto (x : Tile) (d : Dest) (v : W64) : Tile :=
  match d with
  | .s n => { x with vc := putS x.vc n v }
  | .lm => { x with vc := { x.vc with lm := v } }
  | _ => x

/-- Sticky flags raised (R182, R209). -/
def flagged (x : Tile) (f : FpFlags) : Tile := { x with vc := { x.vc with flags := x.vc.flags ||| f.word } }

/-- A counter of the tile raised by a count, which may be 0. -/
def counted (x : Tile) (off n : Nat) : Tile := if n = 0 then x else { x with ctrs := bumpAt x.ctrs off n }

/-- A tile after the waits of an instruction's accesses: CNT_NARROW_WAIT, CNT_SP_STARVE and CNT_WIN_WAIT (R211, R218, R219). -/
def waited (x : Tile) (c : CoreWaits) : Tile :=
  counted (counted (counted x 0x19108 c.narrow) 0x20220 c.starved) 0x19110 c.window

/-- CNT_NONFINITE raised by an instruction that writes a non-finite lane (R211). -/
def noted (x : Tile) (nonfinite : Bool) : Tile := if nonfinite then { x with ctrs := bumpAt x.ctrs 0x19120 1 } else x

/-- CNT_NONFINITE raised where an enabled lane is written non-finite (R211). -/
def nonfiniteNoted (x : Tile) (mask : W64) (vals : List W32) : Tile :=
  noted x ((vals.zipIdx).any (fun p => mask.getLsbD p.2 && !f32Finite p.1))

/-- The same for the values of a pair register: a lane with the non-finite marker (R72, R211). -/
def pairsNoted (x : Tile) (mask : W64) (vals : List W64) : Tile :=
  noted x ((vals.zipIdx).any (fun p => mask.getLsbD p.2 && p.1 == 0x8000000000000000))

/-- Values written to a pair register under a mask (R164, R166). -/
def pairInto (x : Tile) (k : Nat) (mask : W64) (vals : List W64) : Tile := { x with vc := putPair x.vc k mask vals }

/-- A tile after an FP32 lane instruction with the given results. -/
def fpDone (x : Tile) (d : Dest) (mask : W64) (rs : List (W32 × FpFlags)) : Tile :=
  retired (nonfiniteNoted (flagged (lanesInto x d mask (rs.map Prod.fst)) (maskedFlags mask (rs.map Prod.snd))) mask
    (rs.map Prod.fst))

/-- Comparison results written to lm under a mask (R166, R176). -/
def lmInto (x : Tile) (mask : W64) (rs : List Bool) : Tile :=
  { x with vc := { x.vc with
      lm := (rs.zipIdx).foldl (fun m p =>
        if mask.getLsbD p.2 then (if p.1 then m ||| (1#64 <<< p.2) else m &&& ~~~(1#64 <<< p.2)) else m) x.vc.lm } }

/-- A tile after an integer lane instruction, which changes no flag but IOV (R182). -/
def intDone (x : Tile) (d : Dest) (mask : W64) (rs : List (W32 × FpFlags)) : Tile :=
  retired (flagged (lanesInto x d mask (rs.map Prod.fst)) (maskedFlags mask (rs.map Prod.snd)))

/-- 256 bytes that a lane destination holds. -/
def lanesBytes (x : Tile) (d : Dest) : List Byte :=
  match d with
  | .v r => lanesToBytes (lanes x.vc r)
  | .line l => x.sp.readN (lineOff x.vc l) 256
  | _ => List.replicate 256 0

/-- 256 bytes written to a lane destination. -/
def bytesInto (x : Tile) (d : Dest) (bs : List Byte) : Tile :=
  match d with
  | .v r => { x with vc := putLanes x.vc r (BitVec.allOnes 64) (bytesToLanes bs) }
  | .line l => spWrite x (lineOff x.vc l) bs
  | _ => x

/-- Packed elements of a conversion written at their part of the destination (R183), with their flags (R182) and the count of
a non-finite one (R211). -/
def packedInto (x : Tile) (v : Nat) (d : Dest) (rs : List (Nat × FpFlags)) : Tile :=
  let mask := laneMask x.vc v
  let wd := elemBits (cvFmt v)
  noted (flagged (bytesInto x d (mergePacked (lanesBytes x d) (32 * cvPart v) wd mask (rs.map Prod.fst)))
    (maskedFlags mask (rs.map Prod.snd)))
    ((rs.zipIdx).any (fun p => mask.getLsbD p.2 && packedNonfinite (cvFmt v) p.1.1))

/-- Bits [15:0] of s*n* replaced. -/
def low16Into (x : Tile) (n v : Nat) : Tile :=
  { x with vc := putS x.vc n ((sreg x.vc n).extractLsb' 16 48 ++ BitVec.ofNat 16 v) }

/-- A tile without its counters and its due WAKE: what a SYNC message sent elsewhere, a watch that fires or a packet
counted on its way leaves alone. -/
def stripped (x : Tile) : Tile := { x with vc := { x.vc with wakeDue := false }, ctrs := [] }

/-- A field without its counters. -/
def strippedField (x : Field) : Field := { x with ctrs := [] }

/-- No watch of the field has the object. -/
def unwatched (w : Wafer) (f : Nat) (o : WatchObj) : Prop := ∀ i x, mget none (fieldAt w f).watches i = some x → x.obj ≠ o

/-- A tile with its array's Simmer bit brought up to date (R316). -/
def simmered (x : Tile) : Tile := { x with arr := { x.arr with simmer := simmering x } }

/-- A tile whose array reaches the slot at `p`, which passed its checks (R110 to R116): an idle slot runs, a gated slot waits
for its gate, an idle one too, any other waits for its set; CAD_STATUS names the slot. -/
def entersSlot (x : Tile) (p : CadPos) : Tile :=
  let cad := { x.cad with iterNo := BitVec.ofNat 16 p.iter, slot := BitVec.ofNat 8 p.slot }
  simmered
    (if (slotAt x.cad p).gateEn then
      { x with cad := { cad with phase := .holding }, arr := { x.arr with phase := .gate, pos := p } }
    else if (slotAt x.cad p).kind = 0 then
      { x with cad := { cad with phase := .issuing }, arr := { x.arr with phase := .idleSlot, pos := p } }
    else { x with cad := { cad with phase := .issuing }, arr := { x.arr with phase := .entry, pos := p } })

/-- No error is marked in the stack and no injection is armed at the rim. -/
def rimSound (r : Rim) : Prop := r.fi.armed = false ∧ r.unc = [] ∧ r.cor = []

/-- A counter of the rim raised by a count, which may be 0. -/
def rimCounted (r : Rim) (off n : Nat) : Rim := if n = 0 then r else { r with ctrs := bumpAt r.ctrs off n }

/-- Packet `n` in flight is `p`, which may be served now at tile `u`: it comes in its flow's order, and the slice it reaches, if
any, serves it (R231, R233, R262). -/
def servedAt (w : Wafer) (n : Nat) (p : Packet) (u : Nat) : Prop :=
  arriving w n = some p ∧ p.dst = .tile u ∧ sliceServes w p = true ∧ usable w u = true ∧ tileSound (tileAt w u)

/-! ### The module as a whole -/

/-- The host side but for what a report changes: rings, commands in progress, events and their count, held writes, pending
vectors and MB_EVENT. -/
def hostKept (a b : HostSide) : Prop :=
  b = { a with
    rings := b.rings, progs := b.progs, events := b.events, dropped := b.dropped, heldOut := b.heldOut, pba := b.pba,
    mb := { a.mb with event := b.mb.event } }

/-- `u` is `t` but for what the firmware reports: completions, events, fault records and their summary, interrupts, bytes
that leave the module, and the free values drawn for them (R458 to R473, R576 to R579, R715). -/
def reports (t u : State) : Prop :=
  u.wafer = t.wafer ∧ hostKept t.host u.host ∧ u.train = t.train ∧ u.ckpt = t.ckpt ∧ u.gal = t.gal ∧ u.tree = t.tree ∧
    u.pwr = t.pwr ∧ u.sec = t.sec ∧ u.dmt = t.dmt ∧ u.meter = t.meter ∧ u.pending = t.pending

/-- Event `code` of the open job and its step is the last one of the queue, where no DEV_EVENT_WAIT takes it and the queue
has a free place (R473). -/
def eventQueued (s u : State) (code : Nat) : Prop :=
  s.host.progs.any (fun p => decide (p.state = .event)) = false → s.host.events.length < 256 →
    ∃ e, u.host.events = s.host.events ++ [e] ∧ e.code = code ∧ e.jobId = jobIdOf s ∧
      e.step = BitVec.ofNat 64 (currentStep s)

/-- One more fault record, up to the largest count (R579). -/
def recorded (s u : State) : Prop :=
  u.rel.records = if s.rel.records = BitVec.allOnes 32 then s.rel.records else s.rel.records + 1

/-- Field `f` is on the failed-field list, with cause `c` where it was not listed before (R546, R573). -/
def listedFailed (s u : State) (f c : Nat) : Prop :=
  u.wafer.repair.fields =
    if s.wafer.repair.fields.any (fun p => p.1 == f) then s.wafer.repair.fields else s.wafer.repair.fields ++ [(f, c)]

/-- The module has gone from `s` to Retention (R10, R535, R632, R681): the wafer is off, its tiles hold nothing but RWS counts,
BOOT_STAGE reads 0x11, and below level Invasive the stacks keep their bytes, the checkpoints stay and an open job is
stopped. -/
def heldInRetention (s u : State) : Prop :=
  u.pwr.phase = .retention ∧ u.host.mb.stage = 0x11 ∧ u.wafer.off = BitVec.allOnes 84 ∧
    (∀ t, tileAt u.wafer t = lostTile (tileAt u.wafer t)) ∧ u.meter = s.meter ∧
    (levelCode s.sec.level < 2 →
      (∀ k, (rimAt u.wafer k).mem = (rimAt s.wafer k).mem) ∧ u.ckpt = s.ckpt ∧ u.sec = s.sec ∧
        (jobOpen s = true → u.train.state = if s.train.state = .closing then .closing else .stopped))

/-- The module has been switched off and starts again at stage `stage` (R544, R632, R699): the wafer, the job and the debug
level are as at reset, while OTP, the non-volatile store, the failed-field list and the meter stay. -/
def coldStarted (s u : State) (stage : BitVec 8) : Prop :=
  u.host.mb.stage = stage ∧ u.pwr.phase = .standby ∧ u.wafer.off = BitVec.allOnes 84 ∧ u.wafer.tiles = [] ∧
    u.wafer.repair = s.wafer.repair ∧ u.train = .reset ∧ u.ckpt.captureSeq = s.ckpt.captureSeq ∧ u.ckpt.slots = [] ∧
    u.tree.cfg = s.tree.cfg ∧ u.sec.level = .closed ∧ u.sec.life = s.sec.life ∧ u.sec.revoked = s.sec.revoked ∧
    u.sec.rollback = s.sec.rollback ∧ u.sec.unlockSeq = s.sec.unlockSeq ∧ u.meter = s.meter ∧ u.out = s.out ∧
    u.pending = s.pending

/-- A config write of `src` is applied now (R20, R719 to R721, R723): nothing holds the bridge, and a host's write finds no
access in its window, stage 0x10 and at least level Invasive. -/
def mayConfigure (s : State) (src : CfgSrc) : Prop :=
  bridgeBusy s = false ∧ (src = .host → s.host.cfg.busy = false ∧ s.host.mb.stage = 0x10 ∧ 2 ≤ levelCode s.sec.level)

/-- The state after a config write to target `n` at offset `off` that left the wafer as `w` there: the target has answered
(R279), and the source's status is clear (R717, R720). -/
def configured (s : State) (src : CfgSrc) (n off : Nat) (w : Wafer) : State :=
  setCfgErr { s with wafer := cfgBack off w n } src .none

/-- No retirement, no field's failing and no new map waits for a step boundary (R28, R590, R595). -/
def nothingDue (s : State) : Prop := s.rel.mapDue = none ∧ s.rel.failing = [] ∧ doomedTiles s = []

/-! ### Host commands -/

/-- Command `p` of opcode `op` has been taken and passes the checks before its work: recovery, job state, JOBCHK and reserved
bytes (R467, R471, R474, R492). -/
def accepted (s : State) (h : CmdHdr) (op : Nat) (p : Prog) : Prop := progOf s h op = some p ∧ refusedFor s h op true = none

/-- `u` is `t`, what the command's work left, with command `p` completed: its record is gone and its completion entry, with
the result and the result data, is written at the place that its ring keeps for it, or waits for bus mastering (R455, R464,
R468). What `t` has sent stays sent. -/
def completed (t u : State) (p : Prog) (r : Result) (d0 d1 d2 : W64) : Prop :=
  let ring := ringAt t p.ring
  let a := ring.cqBase.toNat + 32 * ring.cqTail
  let bs := completionBytes ring p.cmdId r.code false 0 d0 d1 d2
  reports t u ∧ t.out <+: u.out ∧ t.host.heldOut <+: u.host.heldOut ∧ u.host.progs = t.host.progs.erase p ∧
    u.host.events = t.host.events ∧ (if t.host.busMast then OutMsg.hostWrite a bs ∈ u.out else (a, bs) ∈ u.host.heldOut)

/-- `u` is `t`, what the command's work left, with command `p` over: its record is gone, and only completions, events and notices
have been added (R464, R473). -/
def answered (t u : State) (p : Prog) : Prop := reports t u ∧ u.host.progs = t.host.progs.erase p

/-- `u` is `t`, in which the command waits on: it stays in progress with the record that `t` holds. -/
def keptWaiting (t u : State) : Prop := reports t u ∧ u.host.progs = t.host.progs ∧ u.host.events = t.host.events

/-- The control processor has started again from `s` (R456, R680, R694): stage 2, no ring, no command and no job, level Closed,
the event bit of a reset set, while the wafer keeps its power and its map. -/
def warmStarted (s u : State) : Prop :=
  u.host.mb.stage = 0x02 ∧ u.host.rings = [] ∧ u.host.progs = [] ∧ u.train.job = none ∧ u.sec.level = .closed ∧
    u.sec.challenge = none ∧ u.pwr.phase = s.pwr.phase ∧ u.wafer.repair = s.wafer.repair ∧ u.wafer.off = s.wafer.off ∧
    u.meter = s.meter ∧ u.host.mb.event.getLsbD 5 = true

end Sys2Proof.Safety
end

