-- ==== Sys2Proof/Certificates/Slice0/Obligations.lean ====
section
/-!
DEFINITION. The statements for the provers, family by family of the commands.
-/

section Statements

open Sys2Proof Sys2Proof.Machine Sys2Proof.Safety

/-! ### The block as a whole -/

/-- One step runs the command at the front of the queue on the state with the queue's rest; with no command waiting
the block idles, which is the model's own choice (log 1). -/
def Obligations.StepTakesTheFrontCommand : Prop :=
  ∀ (s : State), (∀ c rest, s.pending = c :: rest → step s = exec c { s with pending := rest }) ∧ (s.pending = [] → step s = .next s)

/-- What a cold reset leaves (R458, R462, R578, R631, R712 to R715): the mailbox's reset column, every ring disabled
and empty, no job, level Closed, the module in Standby with its wafer off, the meter within its bounds, and no command
waiting. -/
def Obligations.ResetState : Prop :=
  let s := State.reset
  s.host.mb.stage = 0x01 ∧ s.host.mb.mask = 0x01 ∧ s.host.mb.event = 0 ∧ s.host.mb.heart = 0 ∧
    (∀ i, mget 0 s.host.mb.scratch i = 0) ∧ lastStepWord s = BitVec.allOnes 64 ∧ summaryWord s = 0 ∧ powerCode s = 4 ∧
    jobCode s.train.state = 0 ∧ jobIdOf s = 0 ∧ s.sec.level = .closed ∧ s.tree.cfg.moduleId = 0 ∧
    (∀ i, (ringAt s i).state = .disabled ∧ (ringAt s i).sqHead = 0 ∧ (ringAt s i).cqTail = 0 ∧ (ringAt s i).en = false) ∧
    (∀ f, fieldUp s.wafer f = false ∨ 84 ≤ f) ∧ meterSound s.meter ∧ s.pending = []

/-- The meter's bounds hold after every command in every state in which they held before (R643, R645, R652, R654):
energy registers stay below 10^14 mWh, rollover counts in 16 bits, the store holds at most 131,072 interval records
and 4,096 events. -/
def Obligations.StepKeepsMeterSound : Prop :=
  ∀ (s t : State), meterSound s.meter → step s = .next t → meterSound t.meter

/-- Every command but those of the meter's own rows leaves the meter as it is (R635, R642, R699): the module reads it,
and neither a reset of the module nor a debugger reaches into it. -/
def Obligations.OnlyMeterRowsMoveTheMeter : Prop :=
  ∀ (s t : State) (c : Instr), exec c s = .next t →
    (∀ va ia vb ib, c ≠ .adcSample va ia vb ib) → (∀ bs, c ≠ .markFrame bs) → c ≠ .intervalClose → c ≠ .meterSave → c ≠ .supplyFailing →
    (∀ n k, c ≠ .meterPowerUp n k) → c ≠ .caseOpened → c ≠ .displayAdvance → c ≠ .displayReturnTimeout →
    (∀ n i k, c ≠ .intervals n i k) → t.meter = s.meter

/-! ### Rules stated as they stand -/

/-- R312: a write to BAN_MASK or BAN_LINE of a line on which any participant has arrived is discarded, and its
source's config access error status names it with code 0x03 (R720). -/
def Obligations.BusyLineWritesAreDiscarded : Prop :=
  ∀ (s : State) (src : CfgSrc) (f : Fin 84) (l : Fin 16) (v : W64), lineBusy s.wafer l.val = true →
    writeBanMask s.wafer f.val l.val v = (3, s.wafer) ∧ writeBanLine s.wafer l.val v = (3, s.wafer) ∧
    (calm s = true → mayConfigure s src →
      let refused (n off : Nat) : State := configured s src n off (cfgOut s.wafer [n] off)
      (fieldUp s.wafer f.val = true → exec (.banMaskWrite src (.field f) l v) s =
        .next (setCfgErr (refused (64 * f.val) (0xF100 + 8 * l.val)) src ⟨0x03, BitVec.ofNat 7 f.val, 0, 1⟩)) ∧
      ((rimAt s.wafer 0).failed = false → exec (.banLineWrite src l v) s =
        .next (setCfgErr (refused 8192 (0xF000 + 8 * l.val)) src ⟨0x03, 96, 0, 1⟩)))

/-- R318: below level 16 of its field an array issues no product, and an event that would release it, a gate's flag, a
reload that completes or a set that may enter, leaves it in Simmer and sets the field's RELEASE_PENDING. -/
def Obligations.LevelBelow16HoldsArrays : Prop :=
  ∀ (s : State) (t : TileId) (held : Nat), calm s = true →
    let k := tkey t
    let x := tileAt s.wafer k
    let pending (w : Wafer) : Wafer := setField w (k / 64) { fieldAt s.wafer (k / 64) with pending := true }
    (fieldAt s.wafer (k / 64)).level ≠ 16 →
    (∀ u, exec (.setEnter t held) s = .next u → (tileAt u.wafer k).arr = x.arr) ∧
    (x.arr.phase = .gate → flagOf s.wafer k (slotAt x.cad x.arr.pos).gateFlag = true → (slotAt x.cad x.arr.pos).kind ≠ 0 →
      exec (.gateOpen t held) s = .next { s with wafer := pending s.wafer }) ∧
    (x.arr.phase = .entry → setReady x = true → closingHolds x.arr = false → blocked s.wafer = false →
      exec (.setEnter t held) s = .next { s with wafer := pending (tileBump s.wafer k 0x23100 held) } ∧
        inSimmer (pending (tileBump s.wafer k 0x23100 held)) k = true) ∧
    (∀ h, x.arr.phase = .entry → x.arr.shadow = some h → h.ready = false → tileSound x →
      ∃ u, exec (.shadowReloadComplete t held) s = .next u ∧ (fieldAt u.wafer (k / 64)).pending = true ∧
        inSimmer u.wafer k = true ∧ (tileAt u.wafer k).arr.tile = x.arr.tile)

/-- R466: the exclusive commands; one that is taken while another is in progress waits, or completes with DCP_BUSY
under NOWAIT; it starts when no other one is in progress, and until then no check is made and nothing happens for it.
-/
def Obligations.ExclusiveCommandsWait : Prop :=
  (∀ op, exclusive op = true ↔ op = 0x0201 ∨ op = 0x0202 ∨ op = 0x0301 ∨ op = 0x0304 ∨ op = 0x0605 ∨ op = 0x0404 ∨ op = 0x0104 ∨
      op = 0x0105 ∨ op = 0x0111 ∨ op = 0x0112 ∨ op = 0x0803) ∧
  ∀ (s : State) (i : Fin 8) (e : List Byte),
    let op := fieldN e 0 2
    let id : BitVec 16 := BitVec.ofNat 16 (fieldN e 2 2)
    (serving s = true → s.host.progs.length < 256 → (List.range 8).find? (mayTake s) = some i.val → exclusive op = true →
      s.host.progs.any (fun p => p.ring == i.val && p.cmdId == id) = false → fieldN e 6 1 < 8 → zeros e 7 16 = true →
      s.host.progs.any (fun p => exclusive p.opcode) = true →
      ∃ u, exec (.commandTake (some e)) s = .next u ∧ reports s u ∧
        (bitOf (fieldN e 6 1) 0 = false →
          u.host.progs = s.host.progs ++ [⟨i.val, id, op, false, bitOf (fieldN e 6 1) 1, .waiting, 0⟩]) ∧
        (bitOf (fieldN e 6 1) 0 = true → u.host.progs = s.host.progs ∧
          let r := { ringAt s i.val with sqHead := ((ringAt s i.val).sqHead + 1) % 4096 }
          let a := r.cqBase.toNat + 32 * r.cqTail
          let bs := completionBytes r id Result.busy.code false 0 0 0 0
          if s.host.busMast then .hostWrite a bs ∈ u.out else (a, bs) ∈ u.host.heldOut)) ∧
    (s.host.progs.any (fun p => exclusive p.opcode && decide (p.state ≠ .waiting)) = true →
      ∃ u, exec .exclusiveStart s = .next u ∧ reports s u ∧ u.host.progs = s.host.progs) ∧
    (∀ h op ok f, (∀ p ∈ s.host.progs, p.ring = h.ring.val → p.cmdId = h.cmdId → p.state = .waiting) → hostCmd s h op ok f = s)

/-- R699: SYS_RESET# low for 1 ms or more is a cold start at stage 1 with every switched domain off; below 100 µs it
is ignored; between the two its effect is undefined, and the model stops. The meter is not reached. -/
def Obligations.SysResetByItsLength : Prop :=
  ∀ (s : State) (n : Nat),
    (1000 ≤ n → ∃ u, exec (.sysReset n) s = .next u ∧ coldStarted s u 0x01 ∧ u.meter = s.meter) ∧
    (n < 100 → exec (.sysReset n) s = .next s) ∧
    (100 ≤ n → n < 1000 → exec (.sysReset n) s = .fault .undefinedResetPulse)

/-! ### The vector and scalar core (05, 08) -/

/-- Control instructions. HALT leaves the program counter at itself; a taken BR goes to its target; LOOP enters its
block or skips it; FENCE goes on once every earlier store is visible; WINSET moves the window (R168, R176, R177,
R209). -/
def Obligations.ControlInstructionsComplete : Prop :=
  ∀ (s : State) (t : TileId) (v : Nat), calm s = true → coreIssues s.wafer (tkey t) 0 v →
    let x := tileAt s.wafer (tkey t)
    let counted (c : Vc) : Tile := { x with vc := c, ctrs := bumpAt x.ctrs 0x19100 1 }
    (exec (.halt t) s = .next (withTile s t (counted
      { x.vc with phase := .stopped, run := false, loops := [],
                  haltCode := if v = 0 then 0 else Config.haltCode (BitVec.ofNat 64 v) }))) ∧
    (v ≠ 0 →
      (∀ a : Fin 4096, exec (.br t true a) s = .next (withTile s t (counted { x.vc with pc := a.val }))) ∧
      (∀ a : Fin 4096, exec (.br t false a) s = .next (withTile s t (retired x))) ∧
      (∀ n m : Nat, n ≠ 0 → m ≠ 0 → exec (.loop t n m) s = .next (withTile s t (counted
        { x.vc with pc := x.vc.pc + 1, loops := ⟨x.vc.pc + 1, x.vc.pc + m, n⟩ :: x.vc.loops }))) ∧
      (∀ n m : Nat, n = 0 ∨ m = 0 → exec (.loop t n m) s = .next (withTile s t (counted
        { x.vc with pc := x.vc.pc + 1 + m }))) ∧
      (storesDone s.wafer (tkey t) = true → exec (.fence t) s = .next (withTile s t (retired x))) ∧
      (∀ (p : Fin 8) (en : Bool), p.val ≤ 5 → exec (.winset t p en) s = .next (withTile s t (retired
        { x with vc := { x.vc with winPos := BitVec.ofNat 3 p.val, winEn := en } }))))

/-- Scalar operations on two sources (R176): the 64-bit integer, logic, shift and compare results, in the destination
s*n* or lm and nowhere else; an FP32 result in bits [31:0] with its flags (R182); a shift by 64 or more completes too,
with a value that is not stated (log 30). The scalar load and store of the own scratchpad (R176): 8 bytes at an offset
aligned to 8. A load leaves every byte of the scratchpad alone; a store replaces the 8 bytes it names and leaves every
other byte alone. -/
def Obligations.ScalarInstructionsComplete : Prop :=
  (∀ (s : State) (t : TileId) (v : Nat) (a b : W64) (d : Dest), calm s = true → coreIssues s.wafer (tkey t) 1 v →
     srcScalar s.wafer (tkey t) v (wSrc1 v) = (some a, s.wafer) →
     srcScalar s.wafer (tkey t) v (wSrc2 v) = (some b, s.wafer) →
     scalarDest s.wafer (tkey t) v = (some d, s.wafer) →
     let x := tileAt s.wafer (tkey t)
     let gives (fn : ScalarFn) (r : W64) : Prop :=
       exec (.scalarOp t fn) s = .next (withTile s t (retired (scalarInto x d r)))
     let low (w : W64) : W32 := w.setWidth 32
     let fp (fn : ScalarFn) (r : W32 × FpFlags) : Prop :=
       ∃ w : W64, low w = r.1 ∧
         exec (.scalarOp t fn) s = .next (withTile s t (retired (nonfiniteNoted (flagged (scalarInto x d w) r.2) 1 [r.1])))
     gives .add (a + b) ∧ gives .sub (a - b) ∧ gives .mul (a * b) ∧ gives .and (a &&& b) ∧ gives .or (a ||| b) ∧
       gives .xor (a ^^^ b) ∧ gives .not (~~~a) ∧
       (b.toNat < 64 → gives .shl (a <<< b.toNat) ∧ gives .shr (a >>> b.toNat) ∧ gives .sar (a.sshiftRight b.toNat)) ∧
       (64 ≤ b.toNat → (∃ r, gives .shl r) ∧ (∃ r, gives .shr r) ∧ ∃ r, gives .sar r) ∧
       gives .cmpEq (if a = b then 1 else 0) ∧ gives .cmpLt (if a.toInt < b.toInt then 1 else 0) ∧
       gives .cmpLtu (if a.toNat < b.toNat then 1 else 0) ∧
       fp .fadd (f32Add (low a) (low b)) ∧ fp .fmul (f32Mul (low a) (low b)) ∧
       fp .ffma (f32Fma (low a) (low b) (low (destScalar s.wafer (tkey t) d)))) ∧
  (∀ (s : State) (t : TileId) (v : Nat) (a : W64) (cw : CoreWaits), calm s = true → coreIssues s.wafer (tkey t) 2 v →
     a.toNat % 8 = 0 → a.toNat + 8 ≤ spBytes →
     let w := coreWaits s.wafer (tkey t) 2 cw
     let x := waited (tileAt s.wafer (tkey t)) cw
     (∀ d, srcScalar w (tkey t) v (wSrc1 v) = (some a, w) →
       scalarDest w (tkey t) v = (some d, w) →
       exec (.scalarLoadStore ⟨t, cw⟩ .load) s =
         .next (withTile s t (retired (scalarInto x d (BitVec.ofNat 64 (leNat (x.sp.readN a.toNat 8))))))) ∧
     (∀ val, srcScalar w (tkey t) v (wSrc2 v) = (some a, w) →
       srcScalar w (tkey t) v (wSrc1 v) = (some val, w) →
       ∃ tags, exec (.scalarLoadStore ⟨t, cw⟩ .store) s =
         .next (withTile s t (retired { x with sp := x.sp.writeN a.toNat (leBytes 8 val.toNat), tags := tags })) ∧
         ∀ c, c < a.toNat ∨ a.toNat + 8 ≤ c → (x.sp.writeN a.toNat (leBytes 8 val.toNat)).read c = x.sp.read c))

/-- Lane instructions on two lane sources (R176, R179, R180, R182): each writes its 64 results to the vector register
or window line it names, under the mask, and nothing else of the module but flags and counters of its tile; a
comparison writes lm. The int32 lane results: addition and subtraction wrap and raise IOV exactly where the exact
result does not fit (R182); shifts below 32 and logic are those of the bits. -/
def Obligations.LaneInstructionsComplete : Prop :=
  (∀ (s : State) (t : TileId) (cls v : Nat) (a b : List W32) (cw : CoreWaits), calm s = true → coreIssues s.wafer (tkey t) cls v →
     let w := coreWaits s.wafer (tkey t) cls cw
     let x := waited (tileAt s.wafer (tkey t)) cw
     srcLanes w (tkey t) v (wSrc1 v) = (some a, w) →
     srcLanes w (tkey t) v (wSrc2 v) = (some b, w) →
     let m := laneMask x.vc v
     (cls = 3 → ∀ d, laneDest w (tkey t) v = (some d, w) →
       let old := bytesToLanes (lanesBytes x d)
       let gives (fn : Fp32Fn) (rs : List (W32 × FpFlags)) : Prop :=
         exec (.vectorFp32 ⟨t, cw⟩ fn) s = .next (withTile s t (fpDone x d m rs))
       gives .add (List.zipWith f32Add a b) ∧ gives .sub (List.zipWith f32Sub a b) ∧
         gives .mul (List.zipWith f32Mul a b) ∧ gives .min (List.zipWith f32Min a b) ∧
         gives .max (List.zipWith f32Max a b) ∧
         gives .fma ((List.zip a b).zipIdx.map (fun p => f32Fma p.1.1 p.1.2 (old.getD p.2 0)))) ∧
     (cls = 3 → destOf (wDst v) = some .lm → ∀ c,
       let rs := List.zipWith (f32Cmp c) a b
       exec (.vectorFp32 ⟨t, cw⟩ (.cmp c)) s =
         .next (withTile s t (retired (flagged (lmInto x m (rs.map Prod.fst)) (maskedFlags m (rs.map Prod.snd)))))) ∧
     (cls = 4 → ∀ d, laneDest w (tkey t) v = (some d, w) →
       (∀ fn, (fn = .add ∨ fn = .sub ∨ fn = .shl ∨ fn = .shr ∨ fn = .sar ∨ fn = .and ∨ fn = .or ∨ fn = .xor ∨ fn = .not) →
         exec (.vectorInteger ⟨t, cw⟩ fn) s = .next (withTile s t (intDone x d m (List.zipWith (intLane fn) a b)))) ∧
       (exec (.vectorInteger ⟨t, cw⟩ .rotate) s =
         .next (withTile s t (retired (lanesInto x d m (rotateLanes (b.getD 0 0).toNat a))))) ∧
       (exec (.vectorInteger ⟨t, cw⟩ .broadcast) s =
         .next (withTile s t (retired (lanesInto x d m (List.replicate 64 (a.getD ((b.getD 0 0).toNat % 64) 0))))))) ∧
     (cls = 4 → destOf (wDst v) = some .lm → ∀ c,
       exec (.vectorInteger ⟨t, cw⟩ (.cmp c)) s =
         .next (withTile s t (retired (lmInto x m (List.zipWith (fun i j => intCmp c i.toInt j.toInt) a b))))) ∧
     (cls = 7 → ∀ d, laneDest w (tkey t) v = (some d, w) → ∀ fn,
       exec (.specialFunction ⟨t, cw⟩ fn) s =
         .next (withTile s t (fpDone x d m (List.zipWith (f32Spec fn) a (if fn = .div then b else a)))))) ∧
  (∀ a b : W32,
     (intLane .add a b).1 = a + b ∧ (intLane .sub a b).1 = a - b ∧
     ((intLane .add a b).2.iov = true ↔ (a + b).toInt ≠ a.toInt + b.toInt) ∧
     ((intLane .sub a b).2.iov = true ↔ (a - b).toInt ≠ a.toInt - b.toInt) ∧
     (b.toNat < 32 → (intLane .shl a b).1 = a <<< b.toNat ∧ (intLane .shr a b).1 = a >>> b.toNat ∧
       (intLane .sar a b).1 = a.sshiftRight b.toNat) ∧
     (intLane .and a b).1 = a &&& b ∧ (intLane .or a b).1 = a ||| b ∧ (intLane .xor a b).1 = a ^^^ b ∧
     (intLane .not a b).1 = ~~~a)

/-- Fixed-64 lane instructions on pair registers, tile reductions, and lm logic (R164, R176, R189): their results, and
nothing else of the module but the tile's flags and counters. -/
def Obligations.PairAndReductionInstructionsComplete : Prop :=
  ∀ (s : State) (t : TileId) (cls v : Nat) (cw : CoreWaits), calm s = true → coreIssues s.wafer (tkey t) cls v →
    let w := coreWaits s.wafer (tkey t) cls cw
    let x := waited (tileAt s.wafer (tkey t)) cw
    let m := laneMask x.vc v
    (cls = 5 → ∀ a b : List W64, srcPair w (tkey t) v (wSrc1 v) = (some a, w) →
      srcPair w (tkey t) v (wSrc2 v) = (some b, w) →
      (∀ k, destOf (wDst v) = some (.pair k) → ∀ fn, (fn = .add ∨ fn = .sub) →
        exec (.vectorFixed64 ⟨t, cw⟩ fn) s =
          .next (withTile s t (retired (pairsNoted (pairInto x k m (List.zipWith (fix64 fn) a b)) m
            (List.zipWith (fix64 fn) a b))))) ∧
      (destOf (wDst v) = some .lm → ∀ c,
        exec (.vectorFixed64 ⟨t, cw⟩ (.cmp c)) s =
          .next (withTile s t (retired (lmInto x m (List.zipWith (fun i j => intCmp c i.toInt j.toInt) a b)))))) ∧
    (cls = 5 → ∀ (a : List W64) (b : List W32) (k : Nat), srcPair w (tkey t) v (wSrc1 v) = (some a, w) →
      srcLanes w (tkey t) v (wSrc2 v) = (some b, w) → destOf (wDst v) = some (.pair k) →
      let rs := List.zipWith (fix64 .sar) a (b.map (fun i => i.setWidth 64))
      exec (.vectorFixed64 ⟨t, cw⟩ .sar) s = .next (withTile s t (retired (pairsNoted (pairInto x k m rs) m rs)))) ∧
    (cls = 8 → ∀ rows d, srcTile w (tkey t) v (wSrc1 v) = (some rows, w) →
      laneDest w (tkey t) v = (some d, w) → ∀ (fn : RedFn) (axis : Fin 2),
      let rs := if axis.val = 0 then (List.range 64).map (fun i => reduce fn (rows.map (fun r => r.getD i 0)))
        else rows.map (reduce fn) ++ List.replicate 56 (0, FpFlags.none)
      exec (.tileReduction ⟨t, cw⟩ fn axis) s = .next (withTile s t
        (if fn = .sumi ∨ fn = .argmax ∨ fn = .or then intDone x d m rs else fpDone x d m rs))) ∧
    (cls = 4 → ∀ a b d, srcScalar w (tkey t) v (wSrc1 v) = (some a, w) →
      srcScalar w (tkey t) v (wSrc2 v) = (some b, w) → scalarDest w (tkey t) v = (some d, w) →
      exec (.vectorInteger ⟨t, cw⟩ .lmAnd) s = .next (withTile s t (retired (scalarInto x d (a &&& b)))) ∧
      exec (.vectorInteger ⟨t, cw⟩ .lmOr) s = .next (withTile s t (retired (scalarInto x d (a ||| b)))) ∧
      exec (.vectorInteger ⟨t, cw⟩ .lmXor) s = .next (withTile s t (retired (scalarInto x d (a ^^^ b)))) ∧
      exec (.vectorInteger ⟨t, cw⟩ .lmNot) s = .next (withTile s t (retired (scalarInto x d (~~~a)))))

/-- Conversions (R183 to R187): the elements, scale bytes and scales they write. -/
def Obligations.ConversionsComplete : Prop :=
  ∀ (s : State) (t : TileId) (v : Nat) (cw : CoreWaits), calm s = true → coreIssues s.wafer (tkey t) 6 v →
    let w := coreWaits s.wafer (tkey t) 6 cw
    let x := waited (tileAt s.wafer (tkey t)) cw
    let m := laneMask x.vc v
    let fits := 32 * cvPart v + 64 * elemBits (cvFmt v) / 8 ≤ 256
    (∀ a ms d, srcLanes w (tkey t) v (wSrc1 v) = (some a, w) →
      cvModes w (tkey t) v = (some ms, w) → laneDest w (tkey t) v = (some d, w) → fits →
      (cvFmt v ≤ 8 → exec (.cvtNarrow ⟨t, cw⟩) s = .next (withTile s t (retired
        (packedInto x v d (List.zipWith (fun i r => signaled i (cvElem (cvFmt v) r (f32Val i))) a ms))))) ∧
      (isMx (cvFmt v) = true →
        let r := mxPair (cvFmt v) (a.map f32Val) ms
        exec (.cvtMx ⟨t, cw⟩) s = .next (withTile s t (retired
          (noted (low16Into (packedInto x v d (List.zipWith signaled a r.1)) (cvReg v) r.2) (mxNonfinite m r.2)))))) ∧
    (∀ a d f, elemFmt (cvFmt v) = some f → fits → srcLanes w (tkey t) v (wSrc1 v) = (some a, w) →
      laneDest w (tkey t) v = (some d, w) →
      let bs := (lanesToBytes a).drop (32 * cvPart v)
      let sc := (sreg x.vc (cvReg v)).toNat
      exec (.cvtWiden ⟨t, cw⟩) s = .next (withTile s t (fpDone x d m ((List.range 64).map (fun i =>
        let e := packedElem (fpWidth f) bs i
        let y := fpDecode f e
        let r := f32OfVal (if isMx (cvFmt v) then mxScale (bits sc (8 * (i / 32) + 7) (8 * (i / 32))) y else y)
        (r.1, r.2.or { FpFlags.none with nv := fpSignaling f e })))))) ∧
    (∀ a ms d, srcPair w (tkey t) v (wSrc1 v) = (some a, w) →
      cvModes w (tkey t) v = (some ms, w) → laneDest w (tkey t) v = (some d, w) →
      let sc := cvScale w (tkey t) v
      (cvFmt v = 0xA → exec (.cvt64f ⟨t, cw⟩) s = .next (withTile s t (fpDone x d m (List.zipWith (fun i r =>
        (BitVec.ofNat 32 (fpConvert fp32 r (fix64Val sc i)).1, (fpConvert fp32 r (fix64Val sc i)).2)) a ms)))) ∧
      (cvFmt v ≤ 8 → fits → isMx (cvFmt v) = false → exec (.cvt64n ⟨t, cw⟩) s = .next (withTile s t (retired
        (packedInto x v d (List.zipWith (fun i r => cvElem (cvFmt v) r i) (a.map (fix64Val sc)) ms))))) ∧
      (fits → isMx (cvFmt v) = true →
        let r := mxPair (cvFmt v) (a.map (fix64Val sc)) ms
        exec (.cvt64n ⟨t, cw⟩) s = .next (withTile s t (retired
          (noted (low16Into (packedInto x v d r.1) (cvReg v) r.2) (mxNonfinite m r.2)))))) ∧
    (∀ a k, srcLanes w (tkey t) v (wSrc1 v) = (some a, w) → destOf (wDst v) = some (.pair k) →
      let sc := fitScale 8192 (cvScale w (tkey t) v) (a.map f32Val)
      let rs := a.map (fixLane sc)
      exec (.cvtf64 ⟨t, cw⟩) s = .next (withTile s t (retired (low16Into
        (pairsNoted (flagged (pairInto x k m (rs.map Prod.fst)) (maskedFlags m (rs.map Prod.snd))) m (rs.map Prod.fst))
        (cvReg v) (uint 16 sc))))) ∧
    (∀ (sc : Int) (i : W32), (fixLane sc i).1 = (match f32Val i with
      | .fin q => BitVec.ofInt 64 (q.floorAt (sc - 46))
      | _ => BitVec.ofNat 64 marker64))

/-- Vector loads and stores and the block store of the own scratchpad (R176, R188, R222): what they read and the bytes
they store; every byte outside the stored ones reads as before. -/
def Obligations.VectorMemoryInstructionsComplete : Prop :=
  ∀ (s : State) (t : TileId) (v : Nat) (a : W64) (cw : CoreWaits), calm s = true → coreIssues s.wafer (tkey t) 9 v →
    let w := coreWaits s.wafer (tkey t) 9 cw
    let x := waited (tileAt s.wafer (tkey t)) cw
    let m := laneMask x.vc v
    (a.toNat % 256 = 0 → a.toNat + 256 ≤ spBytes →
      (∀ d, srcScalar w (tkey t) v (wSrc1 v) = (some a, w) → laneDest w (tkey t) v = (some d, w) →
        exec (.vld ⟨t, cw⟩) s = .next (withTile s t (retired (lanesInto x d m (bytesToLanes (x.sp.readN a.toNat 256)))))) ∧
      (∀ l, srcLanes w (tkey t) v (wSrc1 v) = (some l, w) →
        srcScalar w (tkey t) v (wSrc2 v) = (some a, w) → l.length = 64 →
        ∃ y : Tile, exec (.vst ⟨t, cw⟩) s = .next (withTile s t (retired y)) ∧
          (∃ sp tags, y = { x with sp := sp, tags := tags }) ∧
          (∀ c, c < a.toNat ∨ a.toNat + 256 ≤ c → y.sp.read c = x.sp.read c) ∧
          (∀ i b, i < 64 → b < 4 → m.getLsbD i = false → y.sp.read (a.toNat + 4 * i + b) = x.sp.read (a.toNat + 4 * i + b)) ∧
          (x.sp.wf = true → ∀ i, i < 64 → m.getLsbD i = true →
            y.sp.readN (a.toNat + 4 * i) 4 = leBytes 4 (l.getD i 0).toNat))) ∧
    (∀ line, wSrc1 v = 256 + line → line < 256 → cvFmt v ≤ 8 → x.vc.winEn = true →
      srcScalar w (tkey t) v (wSrc2 v) = (some a, w) →
      let n := blockBytes (cvFmt v)
      let src := lineOff x.vc line
      let lines := (n + 255) / 256
      a.toNat % 64 = 0 → a.toNat + n ≤ spBytes → line + lines ≤ 256 → (a.toNat + n ≤ src ∨ src + 256 * lines ≤ a.toNat) →
      let y := spWriteBlock x a.toNat (x.sp.readN src n) (cvFmt v)
      exec (.bst ⟨t, cw⟩) s = .next (withTile s t (retired y)) ∧
        (∃ tags, y = { x with sp := x.sp.writeN a.toNat (x.sp.readN src n), tags := tags }) ∧
        ∀ c, c < a.toNat ∨ a.toNat + n ≤ c → y.sp.read c = x.sp.read c)

/-- The join buffer (R192 to R194): JSET takes a first partial, JACC adds one to an open buffer, JCLOSE closes it and
returns its scale, JWR writes the closed buffer as a fixed-64 tile, JRD reads one row of it into a pair register. -/
def Obligations.JoinInstructionsComplete : Prop :=
  ∀ (s : State) (t : TileId) (v : Nat) (a : W64), calm s = true → coreIssues s.wafer (tkey t) 10 v →
    let x := tileAt s.wafer (tkey t)
    let bs := x.sp.readN a.toNat fix64Bytes
    (srcScalar s.wafer (tkey t) v (wSrc1 v) = (some a, s.wafer) → a.toNat % 64 = 0 → a.toNat + fix64Bytes ≤ spBytes →
      (headOk bs = true → exec (.jset t) s = .next (withTile s t (retired { x with join := joinSet bs }))) ∧
      (headOk bs = true → x.join.phase = .open →
        exec (.jacc t) s = .next (withTile s t (retired { x with join := joinAcc x.join bs }))) ∧
      (x.join.phase = .closed → ∃ tags, exec (.jwr t) s = .next (withTile s t (retired
          { x with sp := x.sp.writeN a.toNat (joinBytes x.join), tags := tags })) ∧
        ∀ c, c < a.toNat ∨ a.toNat + (joinBytes x.join).length ≤ c →
          (x.sp.writeN a.toNat (joinBytes x.join)).read c = x.sp.read c)) ∧
    (∀ d, x.join.phase ≠ .empty → scalarDest s.wafer (tkey t) v = (some d, s.wafer) →
      let j := joinClose x.join
      exec (.jclose t) s = .next (withTile s t (retired (scalarInto
        { x with join := j, ctrs := if j.mismatch then bumpAt x.ctrs 0x19118 1 else x.ctrs } d (BitVec.ofInt 64 j.sj))))) ∧
    (∀ k, x.join.phase = .closed → destOf (wDst v) = some (.pair k) → ∀ row : Fin 64,
      let vals := (List.range 64).map (fun i =>
        let e := x.join.elems.getD (64 * row.val + i) (0, false)
        BitVec.ofNat 64 (if e.2 then marker64 else uint 64 e.1))
      exec (.jrd t row) s = .next (withTile s t (retired
        (pairsNoted (pairInto x k (laneMask x.vc v) vals) (laneMask x.vc v) vals))))

/-- PHX writes one generator word to each enabled lane, keyed by the job seed (R429); RDF, RDC and RDGEN read a flag,
a counter and a line's generation into a scalar (R304). SETF and ADDC update a flag or a counter of the own tile at
once, and of another tile by one SYNC packet on VC0 (R296, R302, R304); every other flag and counter, every register
but the program counter and every byte of memory stays. -/
def Obligations.SyncInstructionsComplete : Prop :=
  (∀ (s : State) (t : TileId) (v : Nat), calm s = true →
     let x := tileAt s.wafer (tkey t)
     (coreIssues s.wafer (tkey t) 11 v → ∀ (cw : CoreWaits) (d : Dest),
       let w := coreWaits s.wafer (tkey t) 11 cw
       laneDest w (tkey t) v = (some d, w) →
       let n := bits v 4 0
       let a := (sreg x.vc n).toNat
       let b := (sreg x.vc (n + 2)).toNat
       n ≤ 29 → bits a 63 32 = 0 → 16 ≤ bits a 31 24 → bits b 63 34 = 0 →
       exec (.phx ⟨t, cw⟩) s = .next (withTile s t (retired (lanesInto (waited x cw) d (laneMask x.vc v)
         ((List.range 64).map (fun i =>
           philoxWord s.wafer.seed (bits a 31 24) (bits a 23 0) (b + i) (sreg x.vc (n + 1)))))))) ∧
     (coreIssues s.wafer (tkey t) 12 v → ∀ d, scalarDest s.wafer (tkey t) v = (some d, s.wafer) →
       (wFunc v = 2 → exec (.rdf t) s = .next (withTile s t (retired
         (scalarInto x d (if x.sync.flags.getLsbD (bits v 7 0) then 1 else 0))))) ∧
       (wFunc v = 3 → exec (.rdc t) s = .next (withTile s t (retired
         (scalarInto x d ((mget 0 x.sync.ctrs (bits v 7 0)).setWidth 64))))) ∧
       (wFunc v = 7 → exec (.rdgen t) s = .next (withTile s t (retired
         (scalarInto x d ((mget 0 (fieldAt s.wafer (tkey t / 64)).banGen (bits v 3 0)).setWidth 64))))))) ∧
  (∀ (s : State) (t : TileId) (v : Nat) (a n : W64), calm s = true → coreIssues s.wafer (tkey t) 12 v →
     storesDone s.wafer (tkey t) = true → srcScalar s.wafer (tkey t) v (wSrc1 v) = (some a, s.wafer) →
     let k := tkey t
     let x := tileAt s.wafer k
     let id := bits v 7 0
     (syncTarget s.wafer k a = .inl k →
       (wFunc v = 0 → ∃ w, exec (.setf t) s = .next { s with wafer := w } ∧ w.net.inflight.length ≥ s.wafer.net.inflight.length ∧
         (let flags := if bitOf v 8 then x.sync.flags ||| (1#256 <<< id) else x.sync.flags &&& ~~~(1#256 <<< id)
          stripped (tileAt w k) = stripped { x with vc := nextPc x.vc, sync := { x.sync with flags := flags } }) ∧
         ∀ j, j ≠ k → stripped (tileAt w j) = stripped (tileAt s.wafer j)) ∧
       (wFunc v = 1 → srcScalar s.wafer k v (wSrc2 v) = (some n, s.wafer) →
         ∃ w, exec (.addc t) s = .next { s with wafer := w } ∧
           (let ctrs := mput x.sync.ctrs id (mget 0 x.sync.ctrs id + n.setWidth 32)
            stripped (tileAt w k) = stripped { x with vc := nextPc x.vc, sync := { x.sync with ctrs := ctrs } }) ∧
           ∀ j, j ≠ k → stripped (tileAt w j) = stripped (tileAt s.wafer j))) ∧
     (∀ u, syncTarget s.wafer k a = .inl u → u ≠ k →
       (wFunc v = 0 → ∃ w, exec (.setf t) s = .next { s with wafer := w } ∧
         w.net.inflight = s.wafer.net.inflight ++
           [⟨.tile k, .tile u, 0, .sync (.set u id (bitOf v 8)), 0, .none, 0, 0, none⟩] ∧
         stripped (tileAt w k) = stripped { x with vc := nextPc x.vc } ∧
         ∀ j, j ≠ k → stripped (tileAt w j) = stripped (tileAt s.wafer j)) ∧
       (wFunc v = 1 → srcScalar s.wafer k v (wSrc2 v) = (some n, s.wafer) →
         ∃ w, exec (.addc t) s = .next { s with wafer := w } ∧
           w.net.inflight = s.wafer.net.inflight ++
             [⟨.tile k, .tile u, 0, .sync (.add u id (n.setWidth 32)), 0, .none, 0, 0, none⟩] ∧
           stripped (tileAt w k) = stripped { x with vc := nextPc x.vc } ∧
           ∀ j, j ≠ k → stripped (tileAt w j) = stripped (tileAt s.wafer j))))

/-- Watches and arrivals at the own field's sync unit (R178, R300, R304, R305, R310): WATCH takes the lowest free slot
and names it, WAIT does and holds the core, WCANCEL frees a slot of the own tile's watch, ARRIVE marks the tile as
arrived and returns the line's generation; WAKE resumes a waiting core. The posts of a core (R177, R196, R237):
FRU_POST queues four registers as a descriptor at the field's reduction unit; a DMA post hands eight registers to an
engine and waits for the acceptance. -/
def Obligations.WatchAndPostInstructionsComplete : Prop :=
  (∀ (s : State) (t : TileId) (v : Nat), calm s = true →
     let k := tkey t
     let x := tileAt s.wafer k
     let f := k / 64
     let y := fieldAt s.wafer f
     (coreIssues s.wafer k 12 v → wFunc v = 4 → bits v 4 0 ≤ 30 → ∀ wt d i,
       parseWatch s.wafer k (some k) (sreg x.vc (bits v 4 0)).toNat (sreg x.vc (bits v 4 0 + 1)).toNat none = .inl (f, wt) →
       scalarDest s.wafer k v = (some d, s.wafer) → freeSlot y = some i → watchTrue s.wafer f wt = false →
       let w := setField s.wafer f { y with watches := mput y.watches i (some wt) }
       exec (.watch t) s = .next { s with wafer := setTile w k (retired (scalarInto x d (slotName f i))) }) ∧
     (coreIssues s.wafer k 0 v → v ≠ 0 → bits v 4 0 ≤ 30 → ∀ wt i,
       parseWatch s.wafer k (some k) (sreg x.vc (bits v 4 0)).toNat (sreg x.vc (bits v 4 0 + 1)).toNat (some (.wake k)) =
         .inl (f, wt) →
       freeSlot y = some i → watchTrue s.wafer f wt = false →
       let w := setField s.wafer f { y with watches := mput y.watches i (some wt) }
       exec (.wait t) s =
         .next { s with wafer := setTile w k { x with vc := { x.vc with phase := .waiting, watchOn := true } } }) ∧
     (coreIssues s.wafer k 12 v → wFunc v = 5 → ∀ a wt,
       srcScalar s.wafer k v (wSrc1 v) = (some a, s.wafer) → bits a.toNat 63 15 = 0 → bits a.toNat 14 8 = f → f ≤ 83 →
       mget none y.watches (bits a.toNat 7 0) = some wt → wt.owner = some k →
       let w := setField s.wafer f { y with watches := mput y.watches (bits a.toNat 7 0) none }
       exec (.wcancel t) s = .next { s with wafer := setTile w k (retired x) }) ∧
     (coreIssues s.wafer k 12 v → wFunc v = 6 → ∀ d,
       (mget 0 y.banMask (bits v 3 0)).getLsbD (k % 64) = true → (mget 0 y.arrived (bits v 3 0)).getLsbD (k % 64) = false →
       scalarDest s.wafer k v = (some d, s.wafer) →
       let came := mput y.arrived (bits v 3 0) (mget 0 y.arrived (bits v 3 0) ||| (1#64 <<< (k % 64)))
       let w := setTile (setField s.wafer f { y with arrived := came }) k
         (retired (scalarInto x d ((mget 0 y.banGen (bits v 3 0)).setWidth 64)))
       exec (.arrive t) s = .next { s with wafer := w }) ∧
     (blocked s.wafer = false → x.vc.phase = .waiting → x.vc.wakeDue = true →
       exec (.wake t) s = .next (withTile s t
         { retired { x with vc := { x.vc with phase := .running, wakeDue := false, watchOn := false } } with
           ctrs := bumpAt (bumpAt x.ctrs 0x19100 1) 0x23108 1 }))) ∧
  (∀ (s : State) (t : TileId) (v : Nat), calm s = true →
     let k := tkey t
     let x := tileAt s.wafer k
     let n := bits v 4 0
     let y := fieldAt s.wafer (k / 64)
     (coreIssues s.wafer k 12 v → wFunc v = 8 → n ≤ 28 → storesDone s.wafer k = true → y.fru.queue.length < 8 →
       let posted := y.fru.queue ++ [(List.range 4).map (fun i => sreg x.vc (n + i))]
       let phase := if y.fru.phase = .idle then FruPhase.waiting else y.fru.phase
       let w := setTile (setField s.wafer (k / 64) { y with fru := { y.fru with queue := posted, phase := phase } }) k (retired x)
       exec (.fruPost t) s = .next { s with wafer := w }) ∧
     (coreIssues s.wafer k 13 v → n ≤ 24 →
       let e := dmaOf x (bits v 5 5)
       let posted := e.posted ++ [⟨(List.range 8).map (fun i => sreg x.vc (n + i)), true⟩]
       let z := setDma x (bits v 5 5) { e with posted := posted }
       exec (.dmaPostInstruction t) s = .next (withTile s t { z with vc := { z.vc with waits := [⟨.post, 33⟩] } })))

/-- What stops a core (R203): a program counter beyond the store, an illegal word, a window line while the window is
off, a misaligned or outlying scratchpad access, a join instruction in the wrong state. The core takes the fault with
its code and detail, keeps its program counter, and the module takes a record of severity 2. -/
def Obligations.CoreFaultsStopTheCore : Prop :=
  ∀ (s : State) (t : TileId),
    let k := tkey t
    let x := tileAt s.wafer k
    let ready := blocked s.wafer = false ∧ usable s.wafer k = true ∧ x.vc.phase = .running ∧ x.vc.waits = [] ∧ tileSound x
    let stops (o : Res) (x : Tile) (code detail : Nat) : Prop :=
      ∃ u w, o = .next u ∧ u = settle { s with wafer := w } ∧ w.posted = s.wafer.posted ++
          [⟨0x0120 + code, 2, false, code, k / 64, k % 64, detail % 2 ^ 40, x.cad.slot.toNat⟩] ∧
        tileAt w k = coreFaulted x code detail ∧ ∀ j, j ≠ k → tileAt w j = tileAt s.wafer j
    (ready → 4095 < x.vc.pc → stops (exec (.fence t) s) x 6 x.vc.pc ∧ stops (exec (.jset t) s) x 6 x.vc.pc) ∧
    (ready → x.vc.pc ≤ 4095 → illegalWord (fetch s.wafer k) = true →
      stops (exec (.halt t) s) x 1 (fetch s.wafer k) ∧ ∀ cw,
        stops (exec (.vectorFp32 ⟨t, cw⟩ .add) s) (if wCls (fetch s.wafer k) = 3 then waited x cw else x) 1 (fetch s.wafer k)) ∧
    (∀ v, coreIssues s.wafer k 0 v → v ≠ 0 → ∀ (p : Fin 8) (en : Bool), 5 < p.val → stops (exec (.winset t p en) s) x 1 v) ∧
    (∀ v, coreIssues s.wafer k 3 v → ∀ line, wSrc1 v = 256 + line → line < 256 → x.vc.winEn = false → ∀ fn cw,
      stops (exec (.vectorFp32 ⟨t, cw⟩ fn) s) (waited x cw) 2 line) ∧
    (∀ v a cw, coreIssues s.wafer k 2 v → srcScalar s.wafer k v (wSrc1 v) = (some a, s.wafer) → a.toNat % 8 ≠ 0 →
      stops (exec (.scalarLoadStore ⟨t, cw⟩ .load) s) (waited x cw) 3 a.toNat) ∧
    (∀ v a cw, coreIssues s.wafer k 9 v → srcScalar s.wafer k v (wSrc1 v) = (some a, s.wafer) →
      (a.toNat % 256 ≠ 0 ∨ spBytes < a.toNat + 256) → stops (exec (.vld ⟨t, cw⟩) s) (waited x cw) 3 a.toNat) ∧
    (∀ v, coreIssues s.wafer k 10 v → x.join.phase ≠ .open → stops (exec (.jacc t) s) x 4 v) ∧
    (∀ v, coreIssues s.wafer k 10 v → x.join.phase ≠ .closed →
      stops (exec (.jwr t) s) x 4 v ∧ ∀ row : Fin 64, stops (exec (.jrd t row) s) x 4 v)

/-! ### The matrix array (03) -/

/-- Slots in turn (R114, R115, R124): a gated slot whose flag reads 1 issues at level 16, a gated idle one at any
level; an idle slot gives way to the next slot or to the end of the table; at the end with no standby bank armed RUN
clears and the array holds. Only the tile changes, and no byte of its memories. TABLE_COMPLETE with ARM set swaps the
banks: the standby bank becomes active and starts at slot 0 of iteration 0, and ARM reads 0 (R124, R127). No byte of
the scratchpad changes. -/
def Obligations.CadenceSlotsComplete : Prop :=
  (∀ (s : State) (t : TileId) (held : Nat), calm s = true →
     let x := tileAt s.wafer (tkey t)
     (x.arr.phase = .gate → flagOf s.wafer (tkey t) (slotAt x.cad x.arr.pos).gateFlag = true →
       ((slotAt x.cad x.arr.pos).kind = 0 ∨ (fieldAt s.wafer (tkey t / 64)).level = 16) → blocked s.wafer = false →
       exec (.gateOpen t held) s = .next (withTile s t (simmered
         { counted (counted x 0x8138 held) 0x23100 held with
             cad := { x.cad with phase := .issuing }
             arr := { x.arr with phase := if (slotAt x.cad x.arr.pos).kind = 0 then .idleSlot else .entry } }))) ∧
     (x.arr.phase = .idleSlot → blocked s.wafer = false → x.arr.loadFault = none →
       let y := counted x 0x23100 (slotAt x.cad x.arr.pos).k
       (∀ p, nextSlot x.cad x.arr.pos = some p → exec (.idleSlotEnd t) s = .next (withTile s t (entersSlot y p))) ∧
       (nextSlot x.cad x.arr.pos = none → exec (.idleSlotEnd t) s = .next (withTile s t (simmered
         { y with cad := { x.cad with phase := .holding }, arr := { x.arr with phase := .tableEnd } })))) ∧
     (x.arr.phase = .tableEnd → x.cad.arm = false →
       exec (.tableComplete t) s = .next (withTile s t (simmered
         { x with cad := { x.cad with run := false, phase := .holding }, arr := { x.arr with phase := .rest } })))) ∧
  (∀ (s : State) (t : TileId),
     let x := tileAt s.wafer (tkey t)
     x.arr.phase = .tableEnd → x.cad.arm = true →
     ∃ u, exec (.tableComplete t) s = .next u ∧
       let y := tileAt u.wafer (tkey t)
       y.cad.active = !x.cad.active ∧ y.cad.arm = false ∧ y.cad.iterNo = 0 ∧ y.cad.slot = 0 ∧ y.sp = x.sp ∧ y.vc = x.vc ∧
         y.bds = x.bds ∧ ∀ j, j ≠ tkey t → tileAt u.wafer j = tileAt s.wafer j)

/-- SHADOW_RELOAD_COMPLETE fills the shadow buffer with the set's bytes from the scratchpad (R92, R93); SET_ENTER
makes the set at the array's position the held one and adds its products to the tile in progress or to the one it
opens, passing to the next set of the chain, or, after the last set of a chain that does not hold, handing the tile to
its capture (R98, R100). The scratchpad does not change. -/
def Obligations.WeightSetsComplete : Prop :=
  ∀ (s : State) (t : TileId) (held : Nat), tileSound (tileAt s.wafer (tkey t)) →
    let x := tileAt s.wafer (tkey t)
    let p := x.arr.pos
    let l := slotAt x.cad p
    (∀ h, x.arr.shadow = some h → h.ready = false →
      ∃ u, exec (.shadowReloadComplete t held) s = .next u ∧
        let y := tileAt u.wafer (tkey t)
        let q := slotAt x.cad h.pos
        y.arr.shadow = some ⟨h.pos, true, x.sp.readN (bAddr q h.pos).toNat (setBytes q.fmtB)⟩ ∧ y.sp = x.sp ∧ y.vc = x.vc ∧
          y.bds = x.bds ∧ ∀ j, j ≠ tkey t → tileAt u.wafer j = tileAt s.wafer j) ∧
    (∀ h, let o := x.arr.tile.getD (openTile x.arr l p)
      blocked s.wafer = false → x.arr.phase = .entry → (fieldAt s.wafer (tkey t / 64)).level = 16 → closingHolds x.arr = false →
      l.reuse = false → o.retries = 0 → x.arr.shadow = some h → h.ready = true → h.pos = p →
      ∃ u, exec (.setEnter t held) s = .next u ∧
        let y := tileAt u.wafer (tkey t)
        let o' := { o with
          accs := accumulate l p o.s (x.sp.readN (aAddr l p).toNat (setBytes l.fmtA)) h.bytes o.accs,
          k := if p.set = 0 then o.k + l.k else o.k, sets := o.sets + 1 }
        y.arr.held = some ⟨l.fmtB, (bAddr l p).toNat, h.bytes⟩ ∧
          (p.set + 1 ≠ l.sets → y.arr.tile = some o' ∧ y.arr.pos = { p with set := p.set + 1 } ∧ y.arr.closing = x.arr.closing) ∧
          (p.set + 1 = l.sets → l.hold = false → y.arr.closing = x.arr.closing ++ [(o', p)] ∧
            (o.locked = true → y.arr.phase = .verdict)) ∧
          y.sp = x.sp ∧ y.vc = x.vc ∧ y.bds = x.bds ∧ ∀ j, j ≠ tkey t → tileAt u.wafer j = tileAt s.wafer j)

/-- TILE_CAPTURE of a tile that does not overflow puts its bytes in the free drain buffer and its entry in the drain
log (R100, R103, R130); DRAIN_WRITE_COMPLETE stores them to the scratchpad, which changes nowhere else, and raises C0
(R103, R295). A locked tile whose verdict is overflow repeats at S + 8 with one more retry, as long as it has had
fewer than three and S + 8 does not pass 511; C4 rises and the capture waits (R66, R106, R109). -/
def Obligations.CapturesComplete : Prop :=
  (∀ (s : State) (t : TileId) (busy : Nat), calm s = true → tileSound (tileAt s.wafer (tkey t)) →
     let x := tileAt s.wafer (tkey t)
     (∀ o p rest, x.arr.closing = (o, p) :: rest → x.arr.drain = none → o.locked = false →
       let l := slotAt x.cad p
       let y := counted (counted (counted x 0x8108 1) 0x8120 busy) 0x23100 busy
       let entry := logEntry l p o false (o.accs.any elemNonfinite)
       exec (.tileCapture t busy) s = .next (withTile s t { y with
         cad := { x.cad with log := mput x.cad.log x.cad.logIdx.toNat entry, logIdx := x.cad.logIdx + 1 },
         arr := { ({ x.arr with closing := rest } : Arr).setFlight o.parity 0 with
           drain := some ⟨(dAddr l p).toNat, drainOf l o p.slot false⟩ } })) ∧
     (∀ d, x.arr.drain = some d →
       ∃ w, exec (.drainWriteComplete t) s = .next { s with wafer := w } ∧
         (tileAt w (tkey t)).sp = x.sp.writeN d.addr d.bytes ∧
         (∀ c, c < d.addr ∨ d.addr + d.bytes.length ≤ c → (tileAt w (tkey t)).sp.read c = x.sp.read c) ∧
         (tileAt w (tkey t)).arr = { x.arr with drain := none } ∧
         (tileAt w (tkey t)).sync.ctrs = mput x.sync.ctrs 0 (mget 0 x.sync.ctrs 0 + 1) ∧
         ∀ j, j ≠ tkey t → stripped (tileAt w j) = stripped (tileAt s.wafer j))) ∧
  (∀ (s : State) (t : TileId) (busy : Nat) (o : OutTile) (p : CadPos) (rest : List (OutTile × CadPos)),
     let x := tileAt s.wafer (tkey t)
     tileSound x → x.arr.closing = (o, p) :: rest → o.locked = true → overflows o.accs = true → o.retries < 3 →
     o.s + 8 ≤ 511 → o.start = p →
     ∃ u, exec (.tileCapture t busy) s = .next u ∧
       let y := tileAt u.wafer (tkey t)
       y.arr.closing = rest ∧ y.arr.drain = x.arr.drain ∧ y.sp = x.sp ∧
         (x.arr.loadFault = none → y.arr.tile = some
           { o with s := o.s + 8, retries := o.retries + 1, k := 0, accs := List.replicate 4096 .zero }) ∧
         y.sync.ctrs = mput x.sync.ctrs 4 (mget 0 x.sync.ctrs 4 + 1))

/-! ### DMA engines, the field reduction unit and the bonded DRAM slices (05, 06) -/

/-- DESCRIPTOR_ACCEPT of a post that passes its checks appends it to the engine's queue under the next sequence number
of the tile, and completes a core's post (R236, R237); a post that fails them is recorded with its code in the
engine's register (R247, R248, R251). DESCRIPTOR_START of a copy within the own scratchpad reads every piece in order
(R239, R244): the entry holds the bytes, waits for no reply, and its writes are its own tile's, issued and held for
their landing. -/
def Obligations.DescriptorsBegin : Prop :=
  (∀ (s : State) (t : TileId) (e : Fin 2) (p : DmaPosted) (rest : List DmaPosted),
     let k := tkey t
     let x := tileAt s.wafer k
     let d := dmaOf x e.val
     tileSound x → usable s.wafer k = true → d.posted = p :: rest → d.queue.length < 16 →
     (calm s = true → acceptCheck s.wafer k (descOf p.words) = none →
       let queue := d.queue ++ [DmaEntry.accepted p.words x.dmaSeq]
       let y := { setDma x e.val { d with posted := rest, queue := queue } with dmaSeq := x.dmaSeq + 1 }
       (p.fromCore = false → exec (.descriptorAccept t e) s = .next (withTile s t y)) ∧
       (p.fromCore = true → exec (.descriptorAccept t e) s =
         .next (withTile s t (retired { y with vc := { x.vc with waits := x.vc.waits.tail } })))) ∧
     (∀ c, acceptCheck s.wafer k (descOf p.words) = some c → p.fromCore = false →
       ∃ u, exec (.descriptorAccept t e) s = .next u ∧
         dmaOf (tileAt u.wafer k) e.val = { d with posted := rest, refused := BitVec.ofNat 8 c })) ∧
  (∀ (s : State) (t : TileId) (e : Fin 2) (q : DmaEntry) (ps : List DmaPiece) (off : DmaPiece → Nat),
     let k := tkey t
     let x := tileAt s.wafer k
     let d := dmaOf x e.val
     calm s = true → tileSound x → s.wafer.halted = false → s.wafer.frozen = false → d.fault = 0 →
     (∀ r ∈ d.queue, r.started = true → r.pieces.length ≤ r.asked) →
     d.queue.find? (fun r => !r.started) = some q → q = DmaEntry.accepted q.words q.seq → (∀ r ∈ d.queue, ¬ r.seq < q.seq) →
     (descOf q.words).fence = false → (descOf q.words).transpose = false →
     (∃ l, readList s.wafer k (descOf q.words) = (some l, s.wafer)) →
     planPieces s.wafer k (descOf q.words) = (ps, false) →
     (∀ r ∈ ps, bits r.src 63 56 = 1 ∧ place s.wafer k r.src = .scratch k (off r) ∧
       (ownPlace s.wafer k r.dst).isSome = true) →
     let got := ps.map (fun r => { r with bytes := some (x.sp.readN (off r) r.len) })
     let queue := d.queue.map (fun r => if r.seq = q.seq then
       { q with started := true, pieces := got, asked := ps.length, sent := true, issued := ps.length } else r)
     exec (.descriptorStart t e) s = .next (withTile s t (setDma x e.val { d with queue := queue })))

/-- DESCRIPTOR_COMPLETE of a one-row copy within the own scratchpad (R241, R245, R253): the row's bytes are stored and
no other byte changes, the descriptor leaves the queue, DONE_SEQ rises by one, the engine's byte counter by the bytes
and CNT_DMA_BANK_WAIT by the cycles refused; with DONE kind 1 the flag it names reads 1 afterwards. DMA_RUNNING_FAULT
(R248): once nothing of a failed descriptor is under way, FAULT holds its code and the queue stays; the module takes a
record. -/
def Obligations.DescriptorsEnd : Prop :=
  (∀ (s : State) (t : TileId) (e : Fin 2) (q : DmaEntry) (rest : List DmaEntry) (r : DmaPiece) (bs : List Byte)
     (off bankWait : Nat),
     let k := tkey t
     let x := tileAt s.wafer k
     let d := dmaOf x e.val
     let g := descOf q.words
     calm s = true → tileSound x → d.queue = q :: rest → q.over = true → q.failed = none →
     q.pieces = [r] → r.bytes = some bs → bs ≠ [] → place s.wafer k r.dst = .scratch k off →
     g.transpose = false → g.block = false →
     (g.doneKind = 0 → ∃ tags, exec (.descriptorComplete t ⟨e, bankWait⟩) s = .next (withTile s t (setDma
         (counted (counted { x with sp := x.sp.writeN off bs, tags := tags } (0x20200 + 8 * e.val) bs.length) 0x20218 bankWait)
         e.val { d with queue := rest, doneSeq := d.doneSeq + 1 })) ∧
       ∀ c, c < off ∨ off + bs.length ≤ c → (x.sp.writeN off bs).read c = x.sp.read c) ∧
     (g.doneKind = 1 → g.doneId < 256 → ∃ w, exec (.descriptorComplete t ⟨e, bankWait⟩) s = .next { s with wafer := w } ∧
       flagOf w k g.doneId = true ∧ (tileAt w k).sp = x.sp.writeN off bs ∧
       dmaOf (tileAt w k) e.val = { d with queue := rest, doneSeq := d.doneSeq + 1 })) ∧
  (∀ (s : State) (t : TileId) (e : Fin 2) (q : DmaEntry) (rest : List DmaEntry) (c : BitVec 8),
     let k := tkey t
     let x := tileAt s.wafer k
     let d := dmaOf x e.val
     d.queue = q :: rest → d.fault = 0 → q.failed = some c → q.over = true → q.pieces = [] →
     ∃ u, exec (.dmaRunningFault t e) s = .next u ∧
       dmaOf (tileAt u.wafer k) e.val = { d with
         fault := c, queue := d.queue.map (fun r => if r.seq = q.seq then { r with landed := true } else r) } ∧
       (tileAt u.wafer k).sp = x.sp ∧ (tileAt u.wafer k).sync = x.sync)

/-- The field reduction unit (R196 to R199): FRU_READY asks for the participants' regions, 512 bytes at a time over
VC6, once every READY_FLAG reads 1; FRU_COMPLETE stores the result at the destination tile, whose scratchpad changes
nowhere else, clears the participants' flags, takes the next descriptor and raises the destination's DONE_CTR. -/
def Obligations.ReductionUnitCompletes : Prop :=
  ∀ (s : State) (f : Fin 84) (q : List W64) (rest : List (List W64)), calm s = true →
    let y := fieldAt s.wafer f.val
    let d := fruDesc q
    let ts := fruTiles f.val d
    let D := 64 * f.val + d.dest
    y.fru.queue = q :: rest →
    (y.fru.phase = .waiting → y.fi.armed = false → fruCheck s.wafer f.val d = none → s.wafer.halted = false →
      s.wafer.frozen = false → ts ≠ [] → (∀ t ∈ ts, flagOf s.wafer t d.ready = true) →
      ∃ w, exec (.fruReady f) s = .next { s with wafer := w } ∧
        (fieldAt w f.val).fru = { y.fru with
          phase := .reading, pulled := ts.map (fun _ => (chunks (fruBytes d)).map (fun _ => none)) } ∧
        w.net.inflight = s.wafer.net.inflight ++ (ts.zipIdx.map (fun p => (chunks (fruBytes d)).zipIdx.map (fun c =>
          let a := 2 ^ 56 + d.src + c.1.1
          (⟨.fru f.val, .tile p.1, 6, .rdReq a c.1.2, 0, .fru p.2 c.2, a, 0, none⟩ : Packet)))).flatten ∧
        ∀ j, stripped (tileAt w j) = stripped (tileAt s.wafer j)) ∧
    (∀ r, y.fru.result = some r → d.dest < 64 → tileSound (tileAt s.wafer D) →
      ∃ w, exec (.fruComplete f) s = .next { s with wafer := w } ∧
        (tileAt w D).sp = (tileAt s.wafer D).sp.writeN d.dst r ∧
        (∀ c, c < d.dst ∨ d.dst + r.length ≤ c → (tileAt w D).sp.read c = (tileAt s.wafer D).sp.read c) ∧
        (tileAt w D).sync.ctrs = mput (tileAt s.wafer D).sync.ctrs d.done (mget 0 (tileAt s.wafer D).sync.ctrs d.done + 1) ∧
        (fieldAt w f.val).fru.queue = rest ∧ (fieldAt w f.val).fru.result = none ∧
        (∀ t ∈ ts, flagOf w t d.ready = false) ∧
        ∀ j, j ≠ D → j ∉ ts → stripped (tileAt w j) = stripped (tileAt s.wafer j))

/-- Bank groups and refresh (R230 to R235): a refresh marks its bank until it ends, when the cycles that accesses to
it waited are counted; a field's fence that is done lets every slice of the field enter self-refresh, and the entry
done puts the group down; a waking group of one slice is awake in that slice alone. No byte of any memory changes. -/
def Obligations.BankGroupsComplete : Prop :=
  ∀ (s : State) (t : TileId) (f : Fin 84) (g : Fin 4) (bank : Fin 16) (n : Nat), calm s = true →
    let k := tkey t
    let x := tileAt s.wafer k
    let y := fieldAt s.wafer f.val
    (x.bds.refreshing = 0 → groupUp (groupOf x.bds (bank.val / 4)) = true →
      exec (.bdsRefresh t bank) s =
        .next (withTile s t { x with bds := { x.bds with refreshing := 1#16 <<< bank.val } })) ∧
    (x.bds.refreshing.getLsbD bank.val = true →
      let y := { x with bds := { x.bds with refreshing := x.bds.refreshing &&& ~~~(1#16 <<< bank.val) } }
      exec (.bdsRefreshEnd t bank n) s = .next (withTile s t (counted y 0x20228
        (if bankWanted (setTile s.wafer k y) k bank.val then n else 0)))) ∧
    (ctlGroup y.bds g.val = .fencing → (∀ d ∈ mget [] y.bds.fence g.val, d ∉ fieldDescs s.wafer f.val) →
      ∃ w, exec (.bdsFenceDone f g) s = .next { s with wafer := w } ∧ ctlGroup (fieldAt w f.val).bds g.val = .entering ∧
        ∀ i, i < 64 → (groupOf (tileAt w (64 * f.val + i)).bds g.val).state = .entering ∧
          (tileAt w (64 * f.val + i)).bds.mem = (tileAt s.wafer (64 * f.val + i)).bds.mem) ∧
    (ctlGroup y.bds g.val = .entering → y.bds.clear.getLsbD g.val = false →
      ∃ w, exec (.bdsEntryDone f g) s = .next { s with wafer := w } ∧ ctlGroup (fieldAt w f.val).bds g.val = .down ∧
        ∀ i, i < 64 → (groupOf (tileAt w (64 * f.val + i)).bds g.val).state = .down ∧
          (tileAt w (64 * f.val + i)).bds.mem = (tileAt s.wafer (64 * f.val + i)).bds.mem) ∧
    ((groupOf x.bds g.val).waking = true → (groupOf x.bds g.val).state ≠ .entering →
      ∃ w, exec (.bdsWakeDone t g) s = .next { s with wafer := w } ∧ (groupOf (tileAt w k).bds g.val).state = .awake ∧
        (groupOf (tileAt w k).bds g.val).waking = false ∧ (tileAt w k).bds.mem = x.bds.mem ∧
        ∀ j, j ≠ k → tileAt w j = tileAt s.wafer j)

/-! ### The wafer network (07) -/

/-- A read of a scratchpad at its target (R262, R264, R265): RD_REQ and NRD leave the network, their answers with
status 0 and the bytes join it, the first on the request's channel and the second on VC6. No byte of any tile changes.
A write to a scratchpad at its target (R222, R264): WR and NWR store their bytes, which is a partial write but for the
last packet of an operand block, which gives the block its tag (R241), and are acknowledged with status 0; no other
byte of the scratchpad and no other tile changes. -/
def Obligations.AccessPacketsComplete : Prop :=
  (∀ (s : State) (n u : Nat) (p : Packet) (a len : Nat) (nw : NetWaits), calm s = true → servedAt s.wafer n p u → bits a 63 56 = 1 →
     let off := bits a 27 0
     let sp := (tileAt s.wafer u).sp
     let after (o : Res) (q : Packet) : Prop := ∃ w, o = .next { s with wafer := w } ∧
       w.net.inflight = dropAt s.wafer.net.inflight n ++ [q] ∧ ∀ j, stripped (tileAt w j) = stripped (tileAt s.wafer j)
     (p.kind = .rdReq a len → off + len ≤ spBytes →
       after (exec (.rdReq ⟨n, nw⟩) s) ⟨p.dst, p.src, p.vc, .rdResp 0 (sp.readN off len), p.tag, p.owner, p.addr, 0, none⟩) ∧
     (p.kind = .nrd a → off + 8 ≤ spBytes →
       after (exec (.nrd ⟨n, nw⟩) s) ⟨p.dst, p.src, 6, .nrdResp 0 (sp.readN off 8), p.tag, p.owner, p.addr, 0, none⟩)) ∧
  (∀ (s : State) (n u : Nat) (p : Packet) (a : Nat) (bs : List Byte) (nw : NetWaits), calm s = true → servedAt s.wafer n p u →
     bits a 63 56 = 1 → bits a 27 0 + bs.length ≤ spBytes →
     let off := bits a 27 0
     let x := tileAt s.wafer u
     let after (o : Res) (vc : Nat) : Prop := ∃ w tags, o = .next { s with wafer := w } ∧
       w.net.inflight = dropAt s.wafer.net.inflight n ++ [⟨p.dst, p.src, vc, .wrAck 0, p.tag, p.owner, p.addr, 0, none⟩] ∧
       stripped (tileAt w u) = stripped { x with sp := x.sp.writeN off bs, tags := tags } ∧
       (∀ g m tag, p.block = some (g, m, tag) → readTag (tileAt w u) g = tag) ∧
       (∀ c, c < off ∨ off + bs.length ≤ c → (tileAt w u).sp.read c = x.sp.read c) ∧
       ∀ j, j ≠ u → stripped (tileAt w j) = stripped (tileAt s.wafer j)
     (p.kind = .wr a bs → after (exec (.wr ⟨n, nw⟩) s) p.vc) ∧ (p.kind = .nwr a bs → after (exec (.nwr ⟨n, nw⟩) s) 6))

/-- Answers at their requester (R265): a core's NRD_RESP writes the register that waits for it and the instruction
completes; a DMA engine's RD_RESP fills its piece and its WR_ACK is one acknowledgment fewer to wait for; each frees
its request's tag (R263). The answer to a reduction unit's pull fills its place, and the last one joins the regions
(R198). STREAM, SYNC and LATE_ACCESS (R233, R296, R355): streamed bytes land without an answer and C1 rises by one; a
SET message writes its flag; an access that finds its bank group down stays in the network, held, and the group begins
to wake. FLIT_CRC_REPLAY counts the replay at the sending link (R266, R288); VC7_AGE changes nothing that the model
holds (R270). -/
def Obligations.AnswersAndOtherPacketsComplete : Prop :=
  (∀ (s : State) (n u : Nat) (p : Packet) (nw : NetWaits), calm s = true → arriving s.wafer n = some p →
     let x := tileAt s.wafer u
     let tags := x.netTags &&& ~~~(1#256 <<< p.tag)
     let mine := p.dst = .tile u ∧ usable s.wafer u = true
     let sole (e : Nat) (q : DmaEntry) := (dmaOf x e).queue = [q] ∧ x.dma0.queue ++ x.dma1.queue = [q] ∧ q.pieces.length ≤ q.asked
     (∀ bs pc r, mine → p.kind = .nrdResp 0 bs → p.owner = .core pc → x.vc.waits.head? = some ⟨.load, r⟩ → r < 32 →
       ∃ w, exec (.nrdResp ⟨n, nw⟩) s = .next { s with wafer := w } ∧ w.net.inflight = dropAt s.wafer.net.inflight n ∧
         stripped (tileAt w u) = stripped { x with
           netTags := tags, vc := nextPc (putS { x.vc with waits := x.vc.waits.tail } r (BitVec.ofNat 64 (leNat bs))) } ∧
         ∀ j, j ≠ u → stripped (tileAt w j) = stripped (tileAt s.wafer j)) ∧
     (∀ bs e i q, mine → p.kind = .rdResp 0 bs → p.owner = .dma e q.seq i → sole e q → q.sent = false → 1 < q.readsDue →
       ∃ w, exec (.rdResp ⟨n, nw⟩) s = .next { s with wafer := w } ∧ w.net.inflight = dropAt s.wafer.net.inflight n ∧
         (dmaOf (tileAt w u) e).queue =
           [{ q with readsDue := q.readsDue - 1, pieces := q.pieces.modify i (fun r => { r with bytes := some bs }) }] ∧
         (tileAt w u).netTags = tags ∧ (tileAt w u).sp = x.sp ∧ (tileAt w u).vc = x.vc ∧
         ∀ j, j ≠ u → stripped (tileAt w j) = stripped (tileAt s.wafer j)) ∧
     (∀ e i q, mine → p.kind = .wrAck 0 → p.owner = .dma e q.seq i → sole e q → q.sent = true →
       (planWrites (descOf q.words) q.pieces).length ≤ q.issued →
       ∃ w, exec (.wrAck ⟨n, nw⟩) s = .next { s with wafer := w } ∧ w.net.inflight = dropAt s.wafer.net.inflight n ∧
         (dmaOf (tileAt w u) e).queue = [{ q with acksDue := q.acksDue - 1 }] ∧
         (tileAt w u).netTags = tags ∧ (tileAt w u).sp = x.sp ∧ (tileAt w u).vc = x.vc ∧
         ∀ j, j ≠ u → stripped (tileAt w j) = stripped (tileAt s.wafer j)) ∧
     (∀ bs f part i q rest, p.dst = .fru f → p.kind = .rdResp 0 bs → p.owner = .fru part i →
       let y := (fieldAt s.wafer f).fru
       let d := fruDesc q
       let pulled := y.pulled.modify part (fun l => l.set i (some bs))
       let datas := pulled.map (fun l => (l.map (fun c => c.getD [])).flatten)
       y.phase = .reading → y.queue = q :: rest →
       ∃ w, exec (.rdResp ⟨n, nw⟩) s = .next { s with wafer := w } ∧ w.net.inflight = dropAt s.wafer.net.inflight n ∧
         (pulled.any (fun l => l.any Option.isNone) = true → (fieldAt w f).fru = { y with pulled := pulled }) ∧
         (pulled.any (fun l => l.any Option.isNone) = false → (∀ b ∈ datas, b.length = fruBytes d) →
           (d.mode = 0 → ∀ b ∈ datas, headOk b = true) → (fieldAt w f).fru = { y with
             phase := .writing, pulled := [], result := some (if d.mode = 0 then fruJoin datas else fru32 d datas) }))) ∧
  (∀ (s : State) (n u : Nat) (p : Packet) (nw : NetWaits), calm s = true →
     let x := tileAt s.wafer u
     (∀ off bs, servedAt s.wafer n p u → p.kind = .stream 1 off bs →
       ∃ w tags, exec (.stream ⟨n, nw⟩) s = .next { s with wafer := w } ∧ (unwatched s.wafer (u / 64) (.ctr u 1) →
           w.net.inflight = dropAt s.wafer.net.inflight n) ∧
         stripped (tileAt w u) = stripped { x with
           sp := x.sp.writeN off bs, tags := tags,
           sync := { x.sync with ctrs := mput x.sync.ctrs 1 (mget 0 x.sync.ctrs 1 + 1) } } ∧
         (∀ c, c < off ∨ off + bs.length ≤ c → (tileAt w u).sp.read c = x.sp.read c) ∧
         ∀ j, j ≠ u → stripped (tileAt w j) = stripped (tileAt s.wafer j)) ∧
     (∀ id, arriving s.wafer n = some p → p.kind = .sync (.set u id true) → id < 256 →
       ∃ w, exec (.syncPacket n) s = .next { s with wafer := w } ∧ flagOf w u id = true ∧
         (∀ i, i ≠ id → flagOf w u i = flagOf s.wafer u i) ∧ (tileAt w u).sp = x.sp ∧
         ∀ j, j ≠ u → stripped (tileAt w j) = stripped (tileAt s.wafer j)) ∧
     (∀ off len, arriving s.wafer n = some p → bdsTarget p = some (u, off, len) → isLate s.wafer p = true →
       ∃ w, exec (.lateAccess n) s = .next { s with wafer := w } ∧
         w.net.inflight = s.wafer.net.inflight.modify n (fun q => { q with held := if q.held = 0 then lastHeld s.wafer u + 1 else q.held }) ∧
         (tileAt w u).bds.mem = x.bds.mem ∧
         (∀ g ∈ groupsOf off len, groupUp (groupOf (tileAt w u).bds g) = true ∨ (groupOf (tileAt w u).bds g).waking = true) ∧
         ∀ j, j ≠ u → tileAt w j = tileAt s.wafer j) ∧
     (∀ (t : TileId) (o : Fin 8), (tileAt s.wafer (tkey t)).fi.armed = false →
       ∃ v, exec (.flitCrcReplay (.tile t o)) s = .next v ∧
         tileAt v.wafer (tkey t) = counted (tileAt s.wafer (tkey t)) 0x21020 1 ∧
         ∀ j, j ≠ tkey t → tileAt v.wafer j = tileAt s.wafer j) ∧
     (∀ place, exec (.vc7Age place) s = .next s))

/-! ### The rim: streams, accumulation areas and HBM (09) -/

/-- The stream engine (R350 to R354): of an entry that is ready as much is read from HBM as the 16-MiB buffer has room
for; what is buffered of the oldest entry, whose gate has passed, goes to the tiles of its group by the hubs' tables
as STREAM packets of up to 512 bytes. HBM does not change. -/
def Obligations.StreamEntriesComplete : Prop :=
  ∀ (s : State) (k : Fin 16) (n : Nat) (e : StreamEntry), calm s = true → s.wafer.halted = false → s.wafer.frozen = false →
    let r := rimAt s.wafer k.val
    let st := r.stream
    (rimSound r → st.started = true → entryAt r st.read = some e → st.used + 512 ≤ 16777216 → e.src + e.bytes ≤ rimReserved →
      (∀ o, entryAt r st.sent = some o → e.layer ≤ o.layer + 1) → entryReady r e = true →
      let m := min ((16777216 - st.used) / 512 * 512) (e.bytes - st.readOff)
      let whole := decide (e.bytes ≤ st.readOff + m)
      let st' := { st with
        read := if whole then st.read + 1 else st.read, readOff := if whole then 0 else st.readOff + m
        buffer := st.take (r.mem.readN (e.src + st.readOff) m) }
      exec (.streamEntryRead k n) s =
        .next { s with wafer := setRim s.wafer k.val (rimCounted { r with stream := st' } 0x30108 n) }) ∧
    (∀ bs rest, st.buffer = bs :: rest → entryAt r st.sent = some e → gatePassed s.wafer k.val e = true →
      let ts := copyTiles s.wafer (streamCopies s.wafer k.val e.group)
      let packets := (ts.map (fun t => (chunks bs.length).map (fun c =>
        (⟨.rim k.val, .tile t, if e.vc3 then 3 else 2,
          .stream (bits e.dst 28 28 + 1) (bits e.dst 27 0 + st.sentOff + c.1) (slice bs c.1 c.2), 0, .none, 0, 0, none⟩ : Packet)))).flatten
      let whole := decide (e.bytes ≤ st.sentOff + bs.length)
      ∃ w, exec (.streamEntrySend k n) s = .next { s with wafer := w } ∧
        w.net.inflight = s.wafer.net.inflight ++ packets ∧
        (rimAt w k.val).stream = { st with
          buffer := if whole then rest else [] :: rest, sent := if whole then st.sent + 1 else st.sent
          sentOff := if whole then 0 else st.sentOff + bs.length } ∧ (rimAt w k.val).mem = r.mem ∧
        ∀ j, tileAt w j = tileAt s.wafer j)

/-- Accumulation areas (R358, R359): AREA_OPEN writes a FREE area's fields, with its tensor's T (R382), COUNT and
EXPECT (R383), and its zeroing begins; AREA_ZEROING_DONE leaves the area OPEN with its elements and arrival counts
zero, and no byte outside them changed, nor one of a RETAINED block (R339); the background zeroer turns a ZERO block
into a JOB block (R340); a per-bank refresh only counts the wait (R334). ACC of one line of FP32 addends to an OPEN
area of a module without a tree, at a moment at which gradient traffic reaches a rim (R35; log 101), (R357, R360 to
R362): each element of the line grows by its addend, the line's arrivals by one, and the sender gets a WR_ACK with
status 0. -/
def Obligations.AreasComplete : Prop :=
  (∀ (s : State) (k : Fin 16) (a : Fin 256) (base count expect n : Nat) (t : Int), calm s = true →
     let r := rimAt s.wafer k.val
     let x := areaAt r a.val
     (
       let shape := areaShape s k.val a.val count expect
       inTree s = false → x.state = .free → base % 64 = 0 → shape.1 % 32 = 0 → 0 < shape.1 → shape.1 ≤ 16777216 →
       -160 ≤ areaScale s k.val a.val t → areaScale s k.val a.val t ≤ 128 →
       1 ≤ shape.2 → shape.2 ≤ 2 ^ 32 → base + 16 * shape.1 + shape.1 / 4 ≤ rimReserved →
       let x' := { Area.reset with
         base := base, count := shape.1, t := areaScale s k.val a.val t, expect := shape.2, state := .zeroing }
       exec (.areaOpen k a base count t expect) s =
         .next { s with wafer := setRim s.wafer k.val { r with areas := mput r.areas a.val x' } }) ∧
     (x.state = .zeroing → inTree s = false →
       ∃ u, exec (.areaZeroingDone k a) s = .next u ∧
         let r' := rimAt u.wafer k.val
         areaAt r' a.val = { x with state := .open, oor := false, decls := [] } ∧
         (∀ c, x.base ≤ c → c < x.base + 16 * x.count + x.count / 4 → r.block (c / 2097152) ≠ .retained → r'.mem.read c = 0) ∧
         ∀ c, c < x.base ∨ x.base + 16 * x.count + x.count / 4 ≤ c ∨ r.block (c / 2097152) = .retained →
           r'.mem.read c = r.mem.read c) ∧
     (n < 32766 → r.block n = .zero → exec (.backgroundZeroer k n) s =
       .next { s with wafer := setRim s.wafer k.val { r with blocks := mput r.blocks n .job } }) ∧
     (∀ bank, exec (.hbmPerBankRefresh k bank 0) s = .next s ∧
       exec (.hbmPerBankRefresh k bank (n + 1)) s =
         .next { s with wafer := setRim s.wafer k.val { r with ctrs := bumpAt r.ctrs 0x30130 (n + 1) } })) ∧
  (∀ (s : State) (n : Nat) (k : Fin 16) (p : Packet) (addr l : Nat) (bs : List Byte) (nw : NetWaits),
     let r := rimAt s.wafer k.val
     let a := bits addr 35 28
     let x := areaAt r a
     calm s = true → s.wafer.halted = false → (s.train.step.begun = true → s.train.step.barrier = true) → inTree s = false →
     rimSound r → arriving s.wafer n = some p → p.kind = .acc addr bs → p.dst = .rim k.val →
     bits addr 43 40 = 8 → bits addr 27 0 = 128 * l → bs.length = 128 → l < x.lines → x.state = .open →
     arrivalsOf r a l + 1 < x.expect →
     r.cache.length ≤ 16383 →
     let addends := packetLine 8 bs 0
     let sums := List.zipWith (addTo x.t) (lineVals r a l) addends
     ∃ w, exec (.acc ⟨n, nw⟩) s = .next { s with wafer := w } ∧
       lineVals (rimAt w k.val) a l = sums.map Prod.fst ∧ arrivalsOf (rimAt w k.val) a l = arrivalsOf r a l + 1 ∧
       areaAt (rimAt w k.val) a = { x with oor := x.oor || sums.any Prod.snd } ∧
       w.net.inflight = dropAt s.wafer.net.inflight n ++ [⟨.rim k.val, p.src, p.vc, .wrAck 0, p.tag, p.owner, addr, 0, none⟩] ∧
       ∀ j, stripped (tileAt w j) = stripped (tileAt s.wafer j))

/-! ### Banister lines and Simmer at the module (08) -/

/-- LINE_RELEASE of a complete line (R309, R310): outside a tree every powered field raises the line's generation by
one and forgets its arrivals; a worker of a tree sends its ARRIVE up once and the generations stay. Simmer's long wait
(R319 to R321): a sample counts while every array simmers, a step down lowers every field's level by one and enters
Simmer-hold, a step up raises it by one, and at level 16 the held releases and the ramp are over. -/
def Obligations.LinesAndSimmerComplete : Prop :=
  (∀ (s : State) (l : Fin 16), calm s = true → lineDone s.wafer l.val = true → s.wafer.halted = false →
     ((lineAt s.wafer l.val).tree = false →
       ∃ u, exec (.lineRelease l) s = .next u ∧ u.train = s.train ∧ u.pwr = s.pwr ∧
         (∀ f, f < 84 → fieldUp s.wafer f = true →
           mget 0 (fieldAt u.wafer f).banGen l.val = mget 0 (fieldAt s.wafer f).banGen l.val + 1 ∧
             mget 0 (fieldAt u.wafer f).arrived l.val = 0) ∧
         (∀ f m, m ≠ l.val → mget 0 (fieldAt u.wafer f).banGen m = mget 0 (fieldAt s.wafer f).banGen m) ∧
         (lineAt u.wafer l.val).sent = false) ∧
     ((lineAt s.wafer l.val).tree = true → childrenArrived s l.val = true → (lineAt s.wafer l.val).sent = false →
       (parentBundle s).isSome = true →
       ∃ u, exec (.lineRelease l) s = .next u ∧ (lineAt u.wafer l.val).sent = true ∧ u.train = s.train ∧
         ∀ f, (fieldAt u.wafer f).banGen = (fieldAt s.wafer f).banGen)) ∧
  (∀ (s : State), s.pwr.phase = .active →
     exec .simmerSample s = .next { s with pwr := { s.pwr with longWait := if allSimmer s.wafer then s.pwr.longWait + 1 else 0 } } ∧
     (20 ≤ s.pwr.longWait → rampAsked s = false → allAt s.wafer 0 = false → s.wafer.frozen = false →
       ∃ u, exec .simmerStepDown s = .next u ∧
         reports { s with wafer := u.wafer, pwr := { s.pwr with simmerHold := true } } u ∧
         (∀ f, f < 84 → (fieldAt u.wafer f).level =
           if (fieldAt s.wafer f).level = 0 then 0 else (fieldAt s.wafer f).level - 1) ∧
         u.wafer.tiles = s.wafer.tiles ∧ u.wafer.rims = s.wafer.rims) ∧
     (rampAsked s = true → allAt s.wafer 16 = false → s.wafer.frozen = false →
       ∃ u, exec .simmerStepUp s = .next u ∧ reports { s with wafer := u.wafer, pwr := u.pwr } u ∧
         (∀ f, f < 84 → (fieldAt u.wafer f).level =
           if (fieldAt s.wafer f).level.toNat < 16 then (fieldAt s.wafer f).level + 1 else (fieldAt s.wafer f).level) ∧
         u.pwr.longWait = 0 ∧ u.wafer.tiles = s.wafer.tiles ∧ u.wafer.rims = s.wafer.rims ∧
         (allAt u.wafer 16 = true → u.pwr.simmerHold = false ∧ u.pwr.ramp = false ∧ rampAsked u = false)))

/-! ### The step (01, 10, 11) -/

/-- STEP_BEGIN writes RSEL to F255 of every live tile, the step's number to every rim where the schedules start anew,
and keeps the step-start state (R37, R346, R347, R375, R430); BATCH_WAIT_TIMEOUT posts event 0x06 once (R482). The
backward barrier, the factor images and a tie's sum (R34, R35, R153, R379, R386, R421): each takes effect once its
inputs are complete, the sum once the barrier is complete too, and leaves the training state alone but for the mark it
sets. -/
def Obligations.StepsBeginAndRunBackward : Prop :=
  (∀ (s : State), calm s = true →
     (mayBegin s = true → (∀ k, (rimAt s.wafer k).unc = []) → s.wafer.comp.unc = [] →
       ∃ w, exec .stepBegin s = .next { s with
           wafer := w,
           train := { s.train with
             start := some (startState s),
             run := s.train.run.map (fun r => { r with fresh := false }),
             step := { StepState.reset with
               begun := true,
               unmet := (if s.train.step.attempts ≠ 0 then s.train.step.unmet
                 else match s.train.job with | some j => j.unmetered | none => false),
               attempts := s.train.step.attempts,
               aborts := s.train.step.aborts } } } ∧
         (∀ t, t ∈ liveTiles s.wafer → flagOf w t 255 = s.train.rsel) ∧
         (∀ k, k < 16 → (rimAt s.wafer k).failed = false → freshStep s = true →
           (rimAt w k).stream.step = BitVec.ofNat 64 (currentStep s) ∧ (rimAt w k).stream.read = 0 ∧
             (rimAt w k).stream.buffer = []) ∧
         ∀ k, (rimAt w k).upd.epochs = (rimAt s.wafer k).upd.epochs ∧ (rimAt w k).upd.startEpochs = (rimAt s.wafer k).upd.epochs) ∧
     (stepping s = true → s.train.step.begun = false → s.train.step.waiting = false → batchOf s (currentStep s) = none →
       s.wafer.halted = false →
       ∃ u, exec .batchWaitTimeout s = .next u ∧ eventQueued s u 0x06 ∧
         reports { s with train := { s.train with step := { s.train.step with waiting := true } } } u)) ∧
  (∀ (s : State), calm s = true → s.wafer.halted = false → s.wafer.frozen = false →
     let st := s.train.step
     (inTree s = false → st.begun = true → st.barrier = false →
       s.wafer.tiles.any (fun p => usable s.wafer p.1 && draining p.2) = false →
       ∃ l n, exec .backwardBarrier s = .next { s with
           free := n, train := { s.train with step := { st with barrier := true, amax := l } } } ∧
         l.map Prod.fst = List.range (groupCount s)) ∧
     (∀ t d, redOf s t = some d → d.low = true → rimSound (rimAt s.wafer d.rim) →
       let x := tstep s t
       let mark (y : TensorStep) : Train :=
         { s.train with step := { st with tensors := mput st.tensors t y } }
       (st.barrier = true → x.phat = false → globalReady s d.rim d.pArea = true →
         let p := (orth d.rows d.rank (areaVals s d d.pArea (d.rows * d.rank))).1
         ∃ w, exec (.orthP t) s = .next { s with wafer := w, train := mark { x with phat := true } } ∧
           (rimAt w d.rim).mem = (rimAt (storeImage s.wafer d .phat p) d.rim).mem ∧ w.tiles = s.wafer.tiles) ∧
       (x.qloc = true → x.qglob = false → globalReady s d.rim d.qArea = true →
         let w := storeImage s.wafer d .qglob (areaVals s d d.qArea (d.cols * d.rank))
         exec (.globalQImage t) s = .next { s with wafer := w, train := mark { x with qglob := true } })) ∧
     (∀ (k : Fin 16) (a : Fin 256) (owner : TileId) (region : W64),
       let r := rimAt s.wafer k.val
       let x := areaAt r a.val
       st.barrier = true → rimSound r → x.state = .complete →
       let bs := wordBytes ((List.range x.count).map (fun e => areaF32 r a.val e 0))
       ∃ w, exec (.tieSumComplete k a owner region) s = .next { s with wafer := w } ∧
         w.net.inflight = s.wafer.net.inflight ++ (chunks bs.length).map (fun c =>
           ⟨.rim k.val, .tile (tkey owner), 5, .wr (region.toNat + c.1) (slice bs c.1 c.2), 0, .none, region.toNat, 0, none⟩) ∧
         w.tiles = s.wafer.tiles ∧ w.rims = s.wafer.rims))

/-- The norm and the verdict outside a tree (R388 to R391): a tensor's norm square is taken over its values once they
are there; with every square there, out-of-range or non-finite values and a non-finite norm skip the step, a norm
above QMULT times the median quarantines it, and any other step is applied. The schedules restart for the next step
(R346). -/
def Obligations.NormAndVerdictComplete : Prop :=
  ∀ (s : State), calm s = true → s.wafer.halted = false → s.wafer.frozen = false → s.tree.cfg.role = 0 →
    let st := s.train.step
    (∀ t d l, redOf s t = some d → (tstep s t).ns = none → normReady s d = true → normValues s d = (some l, s.wafer) →
      exec (.normSquareSend t) s = .next { s with wafer := carryRims s.wafer d.rim 0 4, train := { s.train with step := { st with
        tensors := mput st.tensors t { tstep s t with ns := some (normSquare (lamOf s d) l) } } } }) ∧
    (∀ j, s.train.job = some j → st.verdict = .pending → st.barrier = true →
      j.reds.all (fun d => (tstep s d.id).ns.isSome) = true →
      let norm := normOf (j.reds.map (fun d => (d.id, ((tstep s d.id).ns).getD 0)))
      let oor := j.reds.any (tensorOor s)
      let bad := j.reds.any (tensorBad s)
      let med := medianNorm s.train.hist
      ∃ w v c named, exec .normVerdict s = .next { s with
          wafer := w,
          train := { s.train with step := { st with verdict := v, cause := BitVec.ofNat 8 c, norm := norm, named := named } } } ∧
        (oor = true → v = .skip ∧ c = 1) ∧ (oor = false → bad = true → v = .skip ∧ c = 2) ∧
        (oor = false → bad = false → f32Finite norm = false → v = .skip ∧ c = 3) ∧
        (oor = false → bad = false → f32Finite norm = true →
          (v = .quarantine ↔ (f32Cmp .gt j.desc.qmult 0).1 = true ∧ 32 ≤ s.train.hist.length ∧
            (f32Cmp .gt norm (f32Mul j.desc.qmult med).1).1 = true) ∧
          (v = .quarantine → c = 4) ∧ (v ≠ .quarantine → v = .apply ∧ c = 0)) ∧
        (rimAt w 0).upd.verdict = BitVec.ofNat 2 (verdictCode v) ∧ (rimAt w 0).upd.norm = norm ∧
        (∀ k, k < 16 → (rimAt s.wafer k).failed = false →
          (rimAt w k).stream.step = BitVec.ofNat 64 (currentStep s + 1)) ∧
        w.tiles = s.wafer.tiles ∧ w.fields = s.wafer.fields)

/-- FAST_SHARD_COMMIT (R397, R399, R400): finite results flip the shard's epoch, with the slot's step, and no other
shard's record; a non-finite one turns the step into a quarantine and undoes its flips. The slow tier and the drift
audit (R402 to R411): a transfer retains the step's gradient, a commit writes the other slot and flips it or, for a
non-finite result, stops the tensor; a publish of the oldest update that waits writes the copies, sets the readiness
entries and releases the gradient; an audit that finds every copy as its master gives it changes nothing. -/
def Obligations.UpdateUnitsComplete : Prop :=
  (∀ (s : State) (t sh : Nat) (j : Job) (d : Reduction) (p : Placement),
     calm s = true → (∀ k, rimSound (rimAt s.wafer k)) → s.wafer.comp.unc = [] → s.wafer.fiMod.armed = false →
     s.train.job = some j → redOf s t = some d →
     placeOf s t = some p → d.slow = false → s.train.step.verdict = .apply → s.train.replay = none →
     (d.low = true → (tstep s t).phat = true ∧ (tstep s t).qglob = true) →
     (t, sh) ∉ s.train.step.shards → sh < shardCount d p → s.wafer.halted = false → s.wafer.frozen = false →
     let words (i : Image) : List W32 :=
       if d.low then bytesWords ((rimAt s.wafer d.rim).mem.readN (imageOff d i) (4 * imageLen d i)) else []
     let rs := shardResults s j d p sh (words .phat) (words .qglob)
     let epochs (w : Wafer) (key : Nat) : ShardRec := mget .reset (rimAt w (shardRim p)).upd.epochs key
     (rs.any badResult = false →
       ∃ w, exec (.fastShardCommit t sh) s = .next { s with
           wafer := w, train := { s.train with step := { s.train.step with shards := s.train.step.shards ++ [(t, sh)] } } } ∧
         epochs w (65536 * t + sh) = flipRec s.train.next (epochs s.wafer (65536 * t + sh)) ∧
         ∀ key, key ≠ 65536 * t + sh → epochs w key = epochs s.wafer key) ∧
     (rs.any badResult = true →
       ∃ u, exec (.fastShardCommit t sh) s = .next u ∧ u.train.step.verdict = .quarantine ∧ u.train.step.cause = 5 ∧
         u.train.step.shards = [] ∧ u.train.next = s.train.next)) ∧
  (∀ (s : State) (t : Nat) (j : Job) (d : Reduction) (p : Placement),
     calm s = true → (∀ k, rimSound (rimAt s.wafer k)) → s.wafer.comp.unc = [] → s.wafer.fiMod.armed = false →
     s.train.job = some j → redOf s t = some d → placeOf s t = some p → s.wafer.halted = false → s.wafer.frozen = false →
     let x := slowAt s t
     let st := s.train.step
     (∀ ph q, d.slow = true → (tstep s t).slow = false → st.barrier = true → s.train.replay = none → slowReady s d = true →
       readSources s d = (some (ph, q), s.wafer) →
       let l := slowImage s d ph q
       exec (.slowTierTransfer t) s = .next { s with wafer := carryComp s.wafer d.rim (4 * l.length + 4), train := { s.train with
         step := { st with tensors := mput st.tensors t { tstep s t with slow := true } },
         slow := mput s.train.slow t
           { x with retained := x.retained.filter (fun g => decide (g.1 ≠ s.train.next)) ++ [(s.train.next, lamOf s d, l)] } } }) ∧
     (∀ step lam l, slowNext s x = some (step, lam, l) → x.dead = false → s.ckpt.capturing = [] →
       let rs := ((List.range d.elems).filter (fun i => !isPad d i)).map (fun i =>
         (i, updateElem s j d step (mget 0 (rimAt s.wafer 0).upd.norms step) (slowGradient d lam l i)
           (devWord s.wafer (masterSlot p x.epoch) (4 * i))
           ((List.range d.nstate).map (fun m => devWord s.wafer (stateSlot p x.epoch) (4 * d.nstate * i + 4 * m)))))
       (rs.any badResult = false →
         ∃ w gal m, exec (.slowTierCommit t) s = .next { s with
           wafer := w, gal := gal,
           train := { s.train with
             slow := mput s.train.slow t { (if x.epoch then { x with epoch := false, step0 := BitVec.ofNat 64 step }
               else { x with epoch := true, step1 := BitVec.ofNat 64 step } : SlowTensor) with
                 kept := (if x.kept.isEmpty then [(x.slot, masterWords s d p)] else x.kept) ++ [(BitVec.ofNat 64 step, m)] } } }) ∧
       (rs.any badResult = true →
         ∃ u, exec (.slowTierCommit t) s = .next u ∧ slowAt u t = { x with dead := true } ∧ u.wafer.rims = s.wafer.rims)) ∧
     (∀ u m, x.unshown = some (u, m) → s.train.state ≠ .held → s.ckpt.capturing = [] →
       u.toNat + j.desc.staleness < s.train.next →
       let rest := x.retained.filter (fun g => decide (g.1 ≠ u.toNat))
       let r := (rest.map (fun g => (g.1 : Int) - 1)).foldl min ((s.train.next : Int) - 1 - j.desc.staleness)
       ∃ w, exec (.slowTierPublish t) s = .next { s with
           wafer := w,
           train := { s.train with
             slow := mput s.train.slow t
               { x with published := some u.toNat, kept := x.kept.tail, retained := rest },
             step := { st with publishs := st.publishs ++ [(t, r.toNat)] } } } ∧
         ∀ k i, k < 16 → i < p.count → mget (-1) (rimAt w k).ready (p.first + i) = r) ∧
     (∀ step, s.train.last = some step → step % 64 = 63 → st.begun = false →
       (regen s.wafer j.desc.seed d p (auditMaster s d p) (fun i => decide (i % 1024 = step / 64 % 1024))).rims = s.wafer.rims →
       exec (.driftAudit t) s = .next s))

/-- COMMIT_POINT outside a tree (R38, R416 to R424, R430): the step number rises, the verdict is kept, RSEL flips and
the norm enters the history only under APPLY, the loss scale follows its rules, and the step is closed. STEP_ABORT for
a cause that is due (R39, R587): the causes due make one abort, and the same step is attempted again with them on its
record, where no retirement and no new map is due that could end the job (R568, R598); the eighth abort of a step
stops the job. -/
def Obligations.StepsEnd : Prop :=
  (∀ (s : State) (j : Job) (st : StartState), calm s = true → meetsCommit s = true → (imagesGood s).1 = true →
     s.train.replay = none → inTree s = false → s.train.job = some j → s.train.start = some st →
     let t := s.train
     let v := t.step.verdict
     ∃ u, exec .commitPoint s = .next u ∧ u.train.next = t.next + 1 ∧ u.train.last = some t.next ∧ u.train.lastV = v ∧
       u.train.step = .reset ∧ u.train.start = none ∧ u.train.job = some j ∧
       (v = .apply → u.train.rsel = !t.rsel ∧ u.train.hist = t.step.norm :: t.hist.take 31 ∧ u.train.skips = 0 ∧
         (t.clean + 1 = j.desc.cleanN → u.train.lamG = min j.desc.lsMax (t.lamG + 1) ∧ u.train.clean = 0) ∧
         (t.clean + 1 ≠ j.desc.cleanN → u.train.lamG = t.lamG ∧ u.train.clean = t.clean + 1)) ∧
       (v ≠ .apply → u.train.rsel = t.rsel ∧ u.train.hist = t.hist) ∧
       (v = .skip → u.train.lamG = max j.desc.lsMin (t.lamG - 1) ∧ u.train.clean = 0 ∧ u.train.skips = t.skips + 1) ∧
       (v = .quarantine → u.train.lamG = t.lamG ∧ u.train.clean = t.clean ∧ u.train.skips = t.skips ∧ u.train.groups = t.groups)) ∧
  (∀ (s : State) (cause : Fin 5), calm s = true → s.train.step.due.getLsbD cause.val = true → s.wafer.frozen = false →
     s.wafer.halted = false → s.train.step.begun = true → s.tree.step.prepSent = false →
     ∃ u, exec (.stepAbort cause) s = .next u ∧ u.train.next = s.train.next ∧ u.train.rsel = s.train.rsel ∧
       u.train.lamG = s.train.lamG ∧ u.meter = s.meter ∧
       (s.train.step.attempts + 1 < 8 → nothingDue s →
         u.train.step.attempts = s.train.step.attempts + 1 ∧ u.train.step.aborts = s.train.step.aborts ||| s.train.step.due) ∧
       (8 ≤ s.train.step.attempts + 1 → jobOpen s = true → s.train.state ≠ .closing → u.train.state = .stopped))

/-! ### Checkpoints and the Gallery (11) -/

/-- CHECKPOINT_CAPTURE stores the oldest capture under way in its slot under the next CAPTURE_SEQ and posts event 0x03
(R440, R441, R443); nothing else changes but what is reported. The Gallery stream (R447 to R450): an emission whose
words fit one record takes the next SEQ and enters the retransmit window; a seal follows once nothing of its step is
due; an ACK from the configured receiver lets records go, any other changes nothing; a RESEND sends held records again
and, for lost ones, a GAP with event 0x05. -/
def Obligations.CheckpointsAndGalleryComplete : Prop :=
  (∀ (s : State) (j : Job) (c : Snapshot) (rest : List Snapshot) (i : Nat), s.train.job = some j → s.wafer.fiMod.armed = false →
     s.ckpt.capturing = c :: rest → s.wafer.halted = false → pickSlot s = some i →
     let seq := s.ckpt.captureSeq + 1
     ∃ u, exec .checkpointCapture s = .next u ∧ eventQueued s u 0x03 ∧
       reports { s with ckpt := { s.ckpt with
         capturing := rest, captureSeq := seq,
         slots := mput s.ckpt.slots i (some ⟨c, seq, checkpointBytes s j c seq, false, false, false⟩) } } u) ∧
  (∀ (s : State), s.wafer.fiMod.armed = false →
     let g := s.gal
     let sent (u : State) (n type : Nat) : Prop :=
       ∃ r, u.gal.window = g.window ++ [r] ∧ r.seq = g.seq ∧ r.step = n ∧ r.type = type ∧ u.gal.seq = g.seq + 1
     (∀ t x l, s.wafer.halted = false → g.due.find? (fun y => y.tensor == t) = some x → x.words = some l → l ≠ [] →
       (groupWords 2048 8192 l).2 = l.length →
       galUsed s + (recordBytes s 1 x.step x.tensor x.first l.length x.slotStep.toNat (groupWords 2048 8192 l).1).length ≤ galRoom s →
       ∃ u, exec (.galleryEmission t) s = .next u ∧ sent u x.step 1 ∧ u.gal.due = g.due.filter (fun y => y != x) ∧
         reports { s with gal := u.gal } u) ∧
     (∀ n rest, g.seals = n :: rest → g.due.any (fun x => x.step == n) = false → galDrops s = true →
       ∃ u, exec .seal s = .next u ∧ u.gal.seals = rest ∧ u.gal.seq = g.seq + 1 ∧ u.gal.due = g.due ∧
         reports { s with gal := u.gal } u) ∧
     (∀ seq, (∃ u, exec (.ack seq true) s = .next u ∧ reports { s with gal := { g with
           acked := min g.seq (max g.acked seq), window := g.window.filter (fun r => decide (min g.seq (max g.acked seq) ≤ r.seq)) } } u) ∧
       ∃ u, exec (.ack seq false) s = .next u ∧ reports s u) ∧
     (∀ first count,
       let oldest := match g.window with | r :: _ => r.seq | [] => g.seq
       (oldest ≤ first → ∃ u, exec (.resend first count true) s = .next u ∧ reports s u ∧
         ∀ r p, r ∈ g.window → first ≤ r.seq → r.seq < first + count → galPort s r.seq = some p → .gallery p r.bytes ∈ u.out) ∧
       (first < oldest → 0 < count → galDrops s = true →
         ∃ u, exec (.resend first count true) s = .next u ∧ u.gal.seq = g.seq + 1 ∧ u.gal.due = g.due ∧ eventQueued s u 0x05) ∧
       ∃ u, exec (.resend first count false) s = .next u ∧ reports s u))

/-! ### Field ports and the tree (13) -/

/-- Training and lanes of a field port (R500 to R503, R591): what LINK_TRAINING finds is kept, and a locked port with
8 lanes each way goes on to its ID packet; a port that is down trains again on the timer; a receiver that loses light
retires the position and restripes, a spare lane joins, and FEC_RETRAIN starts over. Other ports do not change. Blocks
and identity of a field port (R498, R499, R505, R506): a trailer lets acknowledged blocks go, returns credits and,
with NAK, sends the others again, while a block that FEC or a CRC finds bad is asked for again and changes no buffer;
an ID that passes every check brings the port up, one that fails holds it in mismatch with its code, as code 6 does
where none arrives; a port held in mismatch sends its own ID again. -/
def Obligations.FieldPortsComplete : Prop :=
  (∀ (s : State) (f : Fin 84), calm s = true →
     let p := portAt s f.val
     let put (q : Port) : State := { s with tree := { s.tree with ports := mput s.tree.ports f.val q } }
     let others (u : State) : Prop := (∀ g, g ≠ f.val → portAt u g = portAt s g) ∧ u.tree.cfg = s.tree.cfg ∧ u.train = s.train
     (∀ r, p.state = .training → p.identity = false → fieldUp s.wafer f.val = true → bundleLit s (f.val / 7) = true →
       (fieldAt s.wafer f.val).fi.armed = false →
       ∃ u, exec (.linkTraining f r) s = .next u ∧ others u ∧
         let q := portAt u f.val
         q.state = .training ∧ q.badRx = ~~~r.rxGood ∧ q.badTx = ~~~r.txGood ∧ q.rxPos = lowestOf r.rxGood 16 ∧
           q.txPos = lowestOf r.txGood 16 ∧
           q.swapped = (if s.tree.cfg.parent = some (f.val / 7) then 0 else r.crossed) ∧
           q.identity = (r.locked && decide (8 ≤ ones (lowestOf r.rxGood 16) ∧ 8 ≤ ones (lowestOf r.txGood 16)))) ∧
     (∃ t, exec .portRetrainTimer s = .next { s with tree := t } ∧ ∀ g, g < 84 →
       mget .reset t.ports g = if (portAt s g).state = .down ∧ fieldUp s.wafer g = true ∧ bundleLit s (g / 7) = true then
         { portAt s g with state := .training, identity := false, ctrs := bumpAt (portAt s g).ctrs 0xB130 1 } else portAt s g) ∧
     (∀ pos, portUp p = true → p.rxPos.getLsbD pos.val = true →
       let work := p.rxPos &&& ~~~(1#18 <<< pos.val)
       let next := laneState { p with rxPos := work }
       ∃ u, exec (.lossOfLight f pos) s = .next u ∧ others u ∧ (portAt u f.val).badRx = p.badRx ||| (1#18 <<< pos.val) ∧
         (portAt u f.val).state = next ∧ (portAt u f.val).rxPos = if next = .down then 0 else work) ∧
     (∀ pos, portUp p = true →
       (p.badRx.getLsbD pos.val = false → p.rxPos.getLsbD pos.val = false → ones p.rxPos < 16 →
         let q := { p with rxPos := p.rxPos ||| (1#18 <<< pos.val) }
         exec (.spareLaneUp f .rx pos) s = .next (put { q with state := laneState q })) ∧
       (p.badTx.getLsbD pos.val = false → p.txPos.getLsbD pos.val = false → ones p.txPos < 16 →
         let q := { p with txPos := p.txPos ||| (1#18 <<< pos.val) }
         exec (.spareLaneUp f .tx pos) s = .next (put { q with state := laneState q }))) ∧
     (portUp p = true → exec (.fecRetrain f) s =
       .next (put { p with state := .training, identity := false, ctrs := bumpAt p.ctrs 0xB130 1 }))) ∧
  (∀ (s : State) (f : Fin 84), calm s = true → s.tree.held = [] →
     let p := portAt s f.val
     let others (u : State) : Prop := (∀ g, g ≠ f.val → portAt u g = portAt s g) ∧ u.tree.cfg = s.tree.cfg ∧ u.train = s.train
     (∀ tr, portUp p = true → tr.crcBad = true ∨ tr.uncorrectable ≠ 0 →
       ∃ u, exec (.blockTrailer f tr) s = .next u ∧ others u ∧ .link f.val (.nak p.lastAck) ∈ u.out ∧
         let q := portAt u f.val
         q.sent = p.sent ∧ q.credits = p.credits ∧ q.lastAck = p.lastAck ∧
           mget .zero q.ctrs 0xB110 = (mget .zero p.ctrs 0xB110).bump tr.corrected ∧
           mget .zero q.ctrs 0xB118 = (mget .zero p.ctrs 0xB118).bump tr.uncorrectable) ∧
     (∀ tr, portUp p = true → tr.crcBad = false → tr.uncorrectable = 0 →
       ∃ u, exec (.blockTrailer f tr) s = .next u ∧ others u ∧ reports { s with tree := u.tree } u ∧
         let q := portAt u f.val
         q.lastAck = tr.seq ∧ q.sent = p.sent.filter (fun b => !ackedBy tr.ack b.seq) ∧
           mget 0 q.credits tr.cvc.val = mget 0 p.credits tr.cvc.val - tr.credits ∧
           (tr.nak = true → ∀ b, b ∈ q.sent → .link f.val b.body ∈ u.out)) ∧
     (∀ i, (p.state = .training ∨ p.state = .mismatch) → p.identity = true →
       ∃ u, exec (.id f i) s = .next u ∧ others u ∧
         let q := portAt u f.val
         q.moduleId = i.moduleId ∧
           (idCheck s f.val i = 0 → q.state = laneState p ∧ q.mismatch = 0 ∧ q.identity = false) ∧
           (idCheck s f.val i ≠ 0 → q.state = .mismatch ∧ q.mismatch = BitVec.ofNat 4 (idCheck s f.val i) ∧ q.identity = true)) ∧
     (p.state = .training → p.identity = true →
       ∃ u, exec (.idTimeout f) s = .next u ∧ others u ∧ (portAt u f.val).state = .mismatch ∧ (portAt u f.val).mismatch = 6) ∧
     (p.state = .mismatch → (fieldAt s.wafer f.val).fi.armed = false →
       ∃ u i, exec (.mismatchResend f) s = .next u ∧ others u ∧ .link f.val (.id i) ∈ u.out ∧ i.moduleId = s.tree.cfg.moduleId ∧
         i.treeId = s.tree.cfg.treeId ∧ i.role = s.tree.cfg.role ∧ (portAt u f.val).state = .mismatch))

/-- What a line of an area and a Banister message do over a tree (R511, R512, R515, R516): PART adds its 32 partials
to the open twin and counts one arrival, GLOBAL replaces the twin's values, TDECL declares its source's T; an ARRIVE
of the present generation counts for its bundle and a stale one is only counted; a RELEASE raises the generation of a
line with TREE set and leaves another alone (R309). The step's exchange over a tree (R510, R519 to R524, R735): JOIN,
AMAX, VERDICT and PREPARED are kept, COMMIT is the worker's commit point, ABORT makes one more attempt of the step,
and FAULT or a bundle that stays down stops the job. -/
def Obligations.TreeMessagesComplete : Prop :=
  (∀ (s : State) (f : Fin 84), calm s = true → portUp (portAt s f.val) = true → ringPlace s = none →
     (∀ x : LinkLine, twinOpen s x = true →
       let k := x.rim.val
       let tw := twinOf x.area.val
       let r := rimAt s.wafer k
       let y := areaAt r tw
       rimSound r →
       (fromBelow s f.val = true → y.state = .open → arrivalsOf r tw x.line + 1 < y.expect →
         ∃ u, exec (.part f x) s = .next u ∧
           lineVals (rimAt u.wafer k) tw x.line = List.zipWith (· + ·) (lineVals r tw x.line) x.vals ∧
           arrivalsOf (rimAt u.wafer k) tw x.line = arrivalsOf r tw x.line + 1 ∧
           areaAt (rimAt u.wafer k) tw = { y with
             oor := y.oor || x.oor || decide (declared y (portSource f.val) ≠ some y.t) } ∧
           u.train = s.train ∧ ∀ j, j ≠ k → rimAt u.wafer j = rimAt s.wafer j) ∧
       (fromAbove s f.val = true → s.tree.step.verdict = none →
         ∃ u, exec (.globalLine f x) s = .next u ∧ lineVals (rimAt u.wafer k) tw x.line = x.vals ∧
           x.line ∈ mget [] u.tree.step.globals (256 * k + tw) ∧ u.train = s.train ∧
           ∀ j, j ≠ k → rimAt u.wafer j = rimAt s.wafer j)) ∧
     (∀ (k : Fin 16) (a : Fin 256) (t : Int), fromBelow s f.val = true →
       twinOpen s ⟨k, a, 0, false, List.replicate 32 0⟩ = true → (areaAt (rimAt s.wafer k.val) (twinOf a.val)).state = .open →
       -160 ≤ t → t ≤ 128 →
       ∃ u, exec (.tdecl f k a t) s = .next u ∧
         declared (areaAt (rimAt u.wafer k.val) (twinOf a.val)) (portSource f.val) = some t ∧
         (rimAt u.wafer k.val).mem = (rimAt s.wafer k.val).mem ∧ u.train = s.train) ∧
     (∀ (id : BitVec 16) (l : Fin 16) (gen : W32),
       let present := id = jobIdOf s ∧ jobOpen s = true ∧ gen = mget 0 (fieldAt s.wafer f.val).banGen l.val
       (isChild s f.val = true →
         (present → lineDone s.wafer l.val = false →
           ∃ u, exec (.linkArrive f id l gen) s = .next u ∧ f.val / 7 ∈ mget [] u.tree.step.arrives l.val ∧
             u.wafer = s.wafer ∧ u.train = s.train) ∧
         (¬ present → ∃ u, exec (.linkArrive f id l gen) s = .next u ∧ u.tree.step = s.tree.step ∧ u.train = s.train ∧
           (fieldAt u.wafer f.val).ctrs = bumpAt (fieldAt s.wafer f.val).ctrs 0xF210 1)) ∧
       (isParent s f.val = true → present →
         ((lineAt s.wafer l.val).tree = true → ∃ u, exec (.linkRelease f id l gen) s = .next u ∧ u.train = s.train ∧
           ∀ g, g < 84 → fieldUp s.wafer g = true →
             mget 0 (fieldAt u.wafer g).banGen l.val = mget 0 (fieldAt s.wafer g).banGen l.val + 1) ∧
         ((lineAt s.wafer l.val).tree = false → ∃ u, exec (.linkRelease f id l gen) s = .next u ∧ u.wafer = s.wafer ∧
           u.train = s.train)))) ∧
  (∀ (s : State) (f : Fin 84), calm s = true → portUp (portAt s f.val) = true →
     let t := s.tree.step
     let stops (c : Instr) : Prop := jobOpen s = true → s.train.state ≠ .closing → t.prepSent = false →
       ∃ u, exec c s = .next u ∧ u.train.state = .stopped ∧ u.meter = s.meter
     (∀ id sm3 ok, isChild s f.val = true → s.host.progs.any (fun p => decide (p.state = .jobStart)) = false →
       ∃ u, exec (.join f id sm3 false ok) s = .next u ∧ (f.val / 7, id, sm3) ∈ u.tree.step.joins ∧ u.train = s.train) ∧
     (∀ j, s.train.job = some j → isParent s f.val = true → s.host.progs.any (fun p => decide (p.state = .jobStart)) = true →
       ∃ u, exec (.join f j.id j.sm3 true true) s = .next u ∧ u.train = { s.train with state := .ready }) ∧
     (∀ first vals i v, vals[i]? = some v → first + i < groupCount s →
       (isChild s f.val = true → ∃ u, exec (.amax f first vals false) s = .next u ∧
         mget 0 (mget [] u.tree.step.amaxFrom (f.val / 7)) (first + i) = v ∧ u.train = s.train) ∧
       (isParent s f.val = true → ∃ u, exec (.amax f first vals true) s = .next u ∧
         mget 0 u.tree.step.amaxFinal (first + i) = v ∧ u.train.next = s.train.next)) ∧
     (∀ v cause norm, isParent s f.val = true → ∃ u, exec (.verdict f v cause norm) s = .next u ∧
       u.tree.step.verdict = some ⟨v, cause, norm⟩ ∧ u.train.next = s.train.next) ∧
     (isChild s f.val = true → s.train.step.begun = true → t.met = false →
       ∃ u, exec (.prepared f (currentStep s)) s = .next u ∧ f.val / 7 ∈ u.tree.step.prepFrom ∧ u.train = s.train) ∧
     (isParent s f.val = true → t.prepSent = true → s.train.replay = none → jobOpen s = true → s.train.start.isSome = true →
       ∃ u, exec (.commit f (currentStep s)) s = .next u ∧ u.train.next = s.train.next + 1 ∧
         u.train.last = some s.train.next ∧ u.train.lastV = s.train.step.verdict) ∧
     (∀ causes, (isChild s f.val = true ∨ isParent s f.val = true) → stepping s = true → t.committed = false → t.stopDue = false →
       s.train.step.attempts + 1 < 8 → nothingDue s →
       ∃ u, exec (.abort f (currentStep s) s.train.step.attempts causes) s = .next u ∧
         u.train.step.attempts = s.train.step.attempts + 1 ∧ u.train.step.aborts = s.train.step.aborts ||| causes ∧
         u.train.next = s.train.next) ∧
     ((isChild s f.val = true ∨ isParent s f.val = true) → stops (.fault f)) ∧
     (∀ b, inTree s = true → b.val ∈ namedBundles s → upPorts s b.val = [] → stops (.bundleDownTimeout b)))

/-! ### Power, clocks and heat (14) -/

/-- FEED_BELOW_44V and RAIL_BELOW_WARNING (R540): issue freezes at level 0 in every field, a freeze is counted and the
long wait starts over; in stages 3 to 7 of a start the wafer powers down and the start goes back to stage 3 (R679).
FREEZE_RECOVERY with no step in progress ends the freeze with the governor held for 50 ms, the clock at 1.0 GHz on one
feed (R541, R542, R557), and the arrays ramp up where steps are asked for. What ends in Retention with the job stopped
(R543, R556, R559, R563, R568): FREEZE_TIMEOUT, a clock at its floor with the power above the limit, an HBM stack at
105 °C, the coolant timeouts, and the loss of the last PLL that can clock the wafer. -/
def Obligations.FreezesAndStopsComplete : Prop :=
  (∀ (s : State), calm s = true →
     let cause (c : Instr) : Prop :=
       (∃ d, c = .feedBelow44v d ∧ (feedOf s d).runs = true) ∨ (∃ r, c = .railBelowWarning r ∧ railOn s r = true)
     (∀ c, cause c → s.wafer.frozen = false → waferPowered s = true → starting s = false →
       ∃ u, exec c s = .next u ∧ reports { s with
         wafer := { s.wafer with frozen := true, fields := mapAll s.wafer.fields (fun x => { x with level := 0 }) },
         pwr := { s.pwr with ctrs := bumpAt s.pwr.ctrs 0x31108 1, longWait := 0 } } u) ∧
     (∀ c, cause c → s.wafer.frozen = false → starting s = true →
       ∃ u, exec c s = .next u ∧ u.wafer.frozen = true ∧ u.wafer.off = BitVec.allOnes 84 ∧ u.pwr.phase = .retention ∧
         u.host.mb.stage = 3 ∧ u.train = s.train ∧ u.meter = s.meter) ∧
     (s.wafer.frozen = true → waferPowered s = true → s.train.step.begun = false →
       ∃ u, exec .freezeRecovery s = .next u ∧ reports { s with
         wafer := { s.wafer with frozen := false },
         pwr := { s.pwr with
           gov := if oneFeed s then { s.pwr.gov with hold := 500, clock := 40, slew := none, vddHigh := false, vddDue := none }
             else { s.pwr.gov with hold := 500 },
           ramp := stepping s } } u)) ∧
  (∀ (s : State) (c : Instr), waferPowered s = true → calm s = true →
     ((c = .freezeTimeout ∧ s.wafer.frozen = true) ∨
       (c = .governorFloorStop ∧ s.pwr.gov.clock = 30 ∧ limitW s < s.pwr.gov.avg100) ∨
       (∃ k temp, c = .hbmOvertemp k temp ∧ 105 ≤ temp ∧ (rimAt s.wafer k.val).fi.armed = false) ∨
       (c = .coolantInletTimeout ∧ 400 < s.pwr.gov.inlet) ∨
       (c = .coolantFlowTimeout ∧ s.pwr.gov.flow < 200) ∨
       (c = .pllLockLoss 0 ∧ s.pwr.pllUse = 0 ∧ s.pwr.pll0 = true ∧ s.pwr.pll8 = false)) →
     ∃ u, exec c s = .next u ∧ heldInRetention s u)

/-- Feeds and sensors (R531 to R533, R542, R549): a lost, an overvolted and a reversed feed no longer run the module,
a feed that was lost or isolated rejoins, and a thermistor or a bus converter is marked failed. Nothing else changes.
A field taken out between steps (R545, R548, R561, R564): after a regulator's trip or two open sense pairs it is on
the failed-field list with its cause, after a junction at 115 °C on two samples or a memory wafer at 110 °C it is
dark. -/
def Obligations.FeedsSensorsAndFieldsComplete : Prop :=
  (∀ (s : State) (d : Feed), calm s = true →
     let after (c : Instr) (t : State) : Prop := ∃ u, exec c s = .next u ∧ reports t u ∧ limitW u = limitW t
     ((feedOf s d).runs = true →
       after (.feedLost d) (onFeed s d (fun f => { f with present := false, lost := true })) ∧
         ∀ u, exec (.feedLost d) s = .next u → recorded s u) ∧
     (((feedOf s d).lost = true ∨ (feedOf s d).isolated = true) → (feedOf s d).reversed = false →
       after (.feedRejoin d) (onFeed s d (fun f => { f with present := true, lost := false, isolated := false }))) ∧
     ((feedOf s d).isolated = false →
       after (.feedOvervoltage d) (onFeed s d (fun f => { f with present := false, isolated := true }))) ∧
     ((feedOf s d).reversed = false →
       after (.feedReversed d) (onFeed s d (fun f => { f with present := false, reversed := true }))) ∧
     (∀ i short, s.pwr.thermistors.getLsbD i.val = false →
       after (.thermistorFailure i short) { s with pwr := { s.pwr with thermistors := s.pwr.thermistors ||| (1#8 <<< i.val) } }) ∧
     (∀ i, s.pwr.converters.getLsbD i.val = false →
       after (.busConverterFail i) { s with pwr := { s.pwr with converters := s.pwr.converters ||| (1#16 <<< i.val) } })) ∧
  (∀ (s : State) (f : Fin 84), calm s = true → s.train.step.begun = false → fieldIn s f.val = true →
     (fieldAt s.wafer f.val).fi.armed = false →
     (∃ u, exec (.regulatorTrip f) s = .next u ∧ listedFailed s u f.val 4 ∧ fieldUp u.wafer f.val = false ∧
       u.meter = s.meter) ∧
     (∃ u, exec (.senseTest f true true) s = .next u ∧ listedFailed s u f.val 5 ∧ fieldUp u.wafer f.val = false ∧
       u.meter = s.meter) ∧
     (∀ junction memory, (110 ≤ memory ∨ 115 ≤ junction ∧ 1 ≤ (fpAt s f.val).hot) →
       ∃ u, exec (.thermalSample f junction memory) s = .next u ∧ fieldUp u.wafer f.val = false ∧ u.meter = s.meter))

/-- Shorts of the other domains and full resets (R544, R547, R559, R563, R679): a rim's stack is lost and the rim
listed, new jobs are refused; the lasers go dark and every port with them; the companion's domains, FULL_RESET, a
companion die at 115 °C and the coolant's power-off start the module anew. -/
def Obligations.ShortsAndResetsComplete : Prop :=
  ∀ (s : State) (k : Fin 16), calm s = true →
    ((jobOpen s = false ∨ s.train.state = .stopped) →
      (∃ u, exec (.domainShort (.rim k)) s = .next u ∧ u.pwr = { s.pwr with noJobs := true } ∧
        k.val ∈ u.wafer.repair.rims ∧ (rimAt u.wafer k.val).failed = true ∧ (rimAt u.wafer k.val).mem = [] ∧
        (∀ j, j ≠ k.val → rimAt u.wafer j = rimAt s.wafer j) ∧ u.train = s.train) ∧
      (∃ u, exec (.domainShort .hbmAux) s = .next u ∧ u.pwr = { s.pwr with noJobs := true } ∧
        (∀ j, j < 16 → (rimAt u.wafer j).failed = true ∧ (rimAt u.wafer j).mem = []) ∧ u.train = s.train)) ∧
    (∃ u, exec (.domainShort .laser) s = .next u ∧ u.pwr = { s.pwr with laserOff := true } ∧ u.wafer = s.wafer ∧
      ∀ f, f < 84 → (portAt s f).state ≠ .off → (portAt u f).state = .down) ∧
    (∃ u, exec (.domainShort .companionDie) s = .next u ∧ coldStarted s u 0x00) ∧
    (∃ u, exec (.domainShort .companionMemory) s = .next u ∧ coldStarted s u 0x00) ∧
    (∃ u, exec .fullReset s = .next u ∧ coldStarted s u 0x01) ∧
    (∀ temp, 115 ≤ temp → ∃ u, exec (.companionOvertemp temp) s = .next u ∧ coldStarted s u 0x01) ∧
    (s.pwr.flowLost = true → s.pwr.gov.flow < 200 →
      ∃ u, exec .coolantFlowPowerOff s = .next u ∧ coldStarted s u 0x21) ∧
    (2 ≤ s.host.mb.stage.toNat → s.host.mb.stage.toNat ≤ 7 →
      ∃ u, exec .coolantConditionsLost s = .next u ∧ coldStarted s u 0x21)

/-- GOVERNOR_SAMPLE (R550 to R552): the readings are stored, a millisecond above 25 kW costs 1 ms of credit and is
counted, any other earns 0.1 ms up to 400 ms, and the cause of stepping down is decided anew; the clock does not move.
The clock's steps (R551, R553 to R556): one step of 25 MHz down for a cause, up towards the policy clock with VDD_F
raised first above 1.5 GHz; the new clock holds once its slew is done, and VDD_F is lowered at 1.5 GHz. -/
def Obligations.GovernorAndClockComplete : Prop :=
  (∀ (s : State) (r : GovReading), calm s = true → s.wafer.fiMod.armed = false →
     ∃ u, exec (.governorSample r) s = .next u ∧ reports { s with pwr := u.pwr } u ∧
       let g := s.pwr.gov
       let g' := u.pwr.gov
       g'.avg10 = r.avg10ms ∧ g'.avg100 = r.avg100ms ∧ g'.avg1s = r.avg1s ∧ g'.inlet = r.inlet ∧ g'.flow = r.flow ∧
         g'.avgMs = (if r.msEnd then r.avgMs else g.avgMs) ∧ g'.clock = g.clock ∧ g'.slew = g.slew ∧
         g'.credit = (if r.msEnd && !govHeld s && decide (limitW u = 25000) then
           (if 25000 < r.avgMs then g.credit - 10 else min 4000 (g.credit + 1)) else g.credit) ∧
         u.pwr.ctrs = (if r.msEnd && decide (25000 < r.avgMs) then bumpAt s.pwr.ctrs 0x31110 1 else s.pwr.ctrs) ∧
         g'.down = downCause (onGov u (fun x => { x with down := g.down })) ∧
         u.pwr.feedA = { s.pwr.feedA with volts := r.feedA } ∧ u.pwr.feedB = { s.pwr.feedB with volts := r.feedB } ∧
         u.pwr.fields = s.pwr.fields ∧ u.pwr.phase = s.pwr.phase) ∧
  (∀ (s : State), calm s = true →
     let p := s.pwr
     let g := p.gov
     (downCause s ≠ 0 → g.slew = none → govHeld s = false → 30 < g.clock → p.phase = .active →
       exec .clockStepDown s = .next { s with pwr := { p with
         gov := { g with slew := some (g.clock - 1), cause := downCause s, down := downCause s },
         ctrs := bumpAt p.ctrs 0x31100 1 } }) ∧
     (g.clock < policyClock s → g.avg1s + 1000 ≤ limitW s → downCause s = 0 → g.slew = none → g.vddDue = none →
       govHeld s = false → p.phase = .active → (60 ≤ g.clock → boostOk s = true ∧ g.avg1s ≤ 21000) →
       exec .clockStepUp s = .next { s with pwr := { p with
         gov := if g.clock < 60 ∨ g.vddHigh = true then { g with slew := some (g.clock + 1) } else { g with vddDue := some true } } }) ∧
     (∀ c, g.slew = some c → ∃ u, exec .clockSlewDone s = .next u ∧ reports { s with pwr := { p with
         gov := { g with clock := c, slew := none, vddDue := if c ≤ 60 ∧ g.vddHigh then some false else g.vddDue } } } u) ∧
     (g.vddDue = some false → exec .vddFChangeDone s = .next { s with pwr := { p with
         gov := { g with vddHigh := false, vddDue := none } } }) ∧
     (g.vddDue = some true → boostOk s = true → downCause s = 0 → govHeld s = false →
       exec .vddFChangeDone s = .next { s with pwr := { p with
         gov := { g with vddHigh := true, vddDue := none, slew := some (g.clock + 1) } } }))

/-- Heat below the darkening limits (R558 to R560, R559): a sample sets the field's readings and its memory wafer's
refresh class, and counts the pulses that the duty has withheld; the duty moves by one step a time between 8 and 16
with event 0x08 on entry and exit; a field hot at duty 8 asks for clock steps; a stack at 95 °C and companion cores at
105 °C are throttled until they have cooled. Clock and light sources (R568, R570, R691): a PLL that is not in use
loses its lock without further effect, a field that loses its clock input takes its backup, and a bay without its
source takes its bundle's ports down. -/
def Obligations.HeatClockAndLightComplete : Prop :=
  (∀ (s : State) (f : Fin 84), calm s = true →
     let p := s.pwr
     let q := fpAt s f.val
     let put (x : FieldPwr) : SMap FieldPwr := mput p.fields f.val x
     (∀ j m, fieldIn s f.val = true → (fieldAt s.wafer f.val).fi.armed = false → (j < 115 ∨ q.hot = 0) → m < 110 →
       ∃ u, exec (.thermalSample f j m) s = .next u ∧ reports { s with
           wafer := u.wafer,
           pwr := { p with
             fields := put { q with tmax := j, tmem := m, hot := if 115 ≤ j then q.hot + 1 else 0,
                                     ctrs := if withheld s f.val = 0 then q.ctrs else bumpAt q.ctrs 0xA100 (withheld s f.val) },
             throttleStep := if 105 ≤ j ∨ 100 ≤ m then p.throttleStep else p.throttleStep.filter (fun g => g != f.val) } } u ∧
         (fieldAt u.wafer f.val).bds.hot = decide (85 < m) ∧ (∀ g, g ≠ f.val → fieldAt u.wafer g = fieldAt s.wafer g) ∧
         (∀ t, tileAt u.wafer t = tileAt s.wafer t) ∧ u.wafer.rims = s.wafer.rims) ∧
     (fieldIn s f.val = true → fieldHot s f.val = true → 8 < q.duty →
       ∃ u, exec (.throttleDutyDown f) s = .next u ∧ (q.duty = 16 → eventQueued s u 0x08) ∧
         u.pwr = { p with fields := u.pwr.fields } ∧ (fpAt u f.val).duty = q.duty - 1 ∧
         (fpAt u f.val).ctrs = (if q.duty = 16 then bumpAt q.ctrs 0xA108 1 else q.ctrs) ∧ u.wafer = s.wafer) ∧
     (fieldIn s f.val = true → q.tmax ≤ 100 → q.tmem < 100 → q.duty < 16 →
       ∃ u, exec (.throttleDutyUp f) s = .next u ∧ (q.duty = 15 → eventQueued s u 0x08) ∧
         reports { s with pwr := { p with fields := put { q with duty := q.duty + 1 } } } u) ∧
     (fieldIn s f.val = true → fieldHot s f.val = true → q.duty = 8 → f.val ∉ p.throttleStep →
       exec (.throttleFloorTimeout f) s = .next { s with pwr := { p with throttleStep := p.throttleStep ++ [f.val] } }) ∧
     (∀ k temp, waferPowered s = true → (rimAt s.wafer k.val).fi.armed = false → temp < 105 →
       ∃ u, exec (.hbmOvertemp k temp) s = .next u ∧ reports { s with pwr := { p with
         hbmHot := if temp < 95 then p.hbmHot.filter (fun g => g != k.val)
           else if k.val ∈ p.hbmHot then p.hbmHot else p.hbmHot ++ [k.val] } } u) ∧
     (∀ temp, s.wafer.fiMod.armed = false → temp < 115 →
       ∃ u, exec (.companionOvertemp temp) s = .next u ∧ reports { s with pwr := { p with coresLow := decide (105 ≤ temp) } } u)) ∧
  (∀ (s : State), calm s = true →
     (s.pwr.pllUse = 0 → s.pwr.pll8 = true →
       ∃ u, exec (.pllLockLoss 8) s = .next u ∧ reports { s with pwr := { s.pwr with pll8 := false } } u) ∧
     (s.pwr.pllUse = 8 → s.pwr.pll0 = true →
       ∃ u, exec (.pllLockLoss 0) s = .next u ∧ reports { s with pwr := { s.pwr with pll0 := false } } u) ∧
     (∀ f, fieldIn s f.val = true →
       let q := fpAt s f.val
       ∃ u, exec (.clockInputLoss f) s = .next u ∧
         reports { s with pwr := { s.pwr with fields := mput s.pwr.fields f.val { q with clkSel := q.backup, backup := q.clkSel } } } u) ∧
     (∀ b, (∃ u, exec (.laserSourceModuleChange b true) s = .next u ∧
         reports { s with tree := { s.tree with lasers := s.tree.lasers ||| (1#12 <<< b.val) } } u) ∧
       ∃ u, exec (.laserSourceModuleChange b false) s = .next u ∧ u.tree.lasers = s.tree.lasers &&& ~~~(1#12 <<< b.val) ∧
         (∀ f, f ∈ bundlePorts b.val → (portAt s f).state ≠ .off → (portAt u f).state = .down) ∧
         (∀ f, f ∉ bundlePorts b.val → portAt u f = portAt s f) ∧ u.wafer = s.wafer ∧ u.pwr = s.pwr ∧ u.train = s.train))

/-! ### Reliability (15, 16) -/

/-- PATROL_SCRUB (R581 to R584): a clean location stays; a correctable error is corrected in place and counted; an
uncorrectable one is marked and recorded. No other location changes. Failing links (R589, R590): a retired channel of
a bundle or of a rim's port takes one of its 8 or 2 spares and is counted at its field, the field fails where none is
left, and a mesh link has none to retire; a field whose link fails within a step is kept for the step's boundary, and
between steps it is out and listed at once. -/
def Obligations.ScrubAndFailingLinksComplete : Prop :=
  (∀ (s : State) (t : TileId) (k : Fin 16) (i g : Nat), calm s = true → waferPowered s = true →
     let x := tileAt s.wafer (tkey t)
     let r := rimAt s.wafer k.val
     let c := s.wafer.comp
     let after (p : ScrubPlace) (e : EccResult) (z : State) : Prop := ∃ u, exec (.patrolScrub p e) s = .next u ∧ reports z u
     let rim (y : Rim) : State := { s with wafer := setRim s.wafer k.val y }
     let comp (y : Comp) : State := { s with wafer := { s.wafer with comp := y } }
     (usable s.wafer (tkey t) = true → i < 98303 →
       after (.scratchpad t i) .clean s ∧
       after (.scratchpad t i) .corrected (withTile s t { counted x 0x24100 1 with
         spCor := x.spCor.filter (fun j => j != i) }) ∧
       after (.scratchpad t i) .uncorrectable (withTile s t { x with spUnc := addOnce x.spUnc i })) ∧
     (usable s.wafer (tkey t) = true → after (.scratchpad t 98303) .clean (withTile s t (counted x 0x24120 1))) ∧
     (usable s.wafer (tkey t) = true → g < 4194304 → bdsReady s.wafer (tkey t) (64 * g) 64 = true →
       after (.bds t g) .clean s ∧
       after (.bds t g) .corrected (withTile s t { counted x 0x24110 1 with
         bdsCor := x.bdsCor.filter (fun j => j != g) }) ∧
       after (.bds t g) .uncorrectable (withTile s t { x with bdsUnc := addOnce x.bdsUnc g })) ∧
     (r.failed = false → g < 1073741824 → (g / 32768 < 32766 → r.block (g / 32768) ≠ .zero) →
       after (.hbm k g) .clean s ∧
       after (.hbm k g) .corrected (rim { rimCounted r 0x32100 1 with
         cor := r.cor.filter (fun j => j != g) }) ∧
       after (.hbm k g) .uncorrectable (rim { r with unc := addOnce r.unc g })) ∧
     (serving s = true → g < 34359738368 → (64 * g < fwRegion → mget BlockState.zero c.blocks (g / 32768) ≠ .zero) →
       after (.companion g) .clean s ∧
       after (.companion g) .corrected (comp { c with
         cor := c.cor.filter (fun j => j != g) }) ∧
       after (.companion g) .uncorrectable (comp { c with unc := addOnce c.unc g }))) ∧
  (∀ (s : State) (f : Fin 84), calm s = true → waferPowered s = true →
     let used (x : LinkPlace) : Nat := mget 0 s.wafer.net.channels (linkKey x)
     let spend (x : LinkPlace) : State :=
       let n := { s.wafer.net with channels := mput s.wafer.net.channels (linkKey x) (used x + 1) }
       let q := { fieldAt s.wafer f.val with ctrs := bumpAt (fieldAt s.wafer f.val).ctrs 0x9108 1 }
       { s with wafer := setField { s.wafer with net := n } f.val q }
     (∀ t p, ∃ u, exec (.channelRetire (.tile t p)) s = .next u ∧ reports s u) ∧
     (∀ x n, (∃ o, x = .hub f o ∧ n = 8) ∨ (∃ k, x = .rim k f ∧ n = 2) → fieldUp s.wafer f.val = true →
       (used x < n → ∃ u, exec (.channelRetire x) s = .next u ∧ reports (spend x) u) ∧
       (n ≤ used x → s.train.step.begun = true → ∃ u, exec (.channelRetire x) s = .next u ∧ reports s u ∧ f.val ∈ u.rel.failing)) ∧
     (fieldUp s.wafer f.val = true →
       (s.train.step.begun = true →
         ∃ u, exec (.linkFieldFail f) s = .next u ∧ reports s u ∧ f.val ∈ u.rel.failing) ∧
       (s.train.step.begun = false → s.rel.failing = [] →
         ∃ u, exec (.linkFieldFail f) s = .next u ∧ fieldUp u.wafer f.val = false ∧ listedFailed s u f.val 6 ∧
           u.meter = s.meter)))

/-- JTAG_ACCESS (R625, R698): an instruction above the debug level does nothing; BYPASS changes nothing, reads shift
bytes out, halt and resume set the halt of the debugger, and at level Factory a key slot is revoked for good and the
lists of the repair map are cleared. -/
def Obligations.JtagAccessCompletes : Prop :=
  ∀ (s : State) (op : JtagOp), calm s = true →
    let shifts (op : JtagOp) : Prop := ∃ u bs, exec (.jtagAccess op) s = .next u ∧ reports s u ∧ .jtag bs ∈ u.out
    let after (op : JtagOp) (t : State) : Prop := ∃ u, exec (.jtagAccess op) s = .next u ∧ reports t u
    (levelCode s.sec.level < jtagLevel op → after op s) ∧
    after .bypass s ∧ shifts .idcode ∧
    (1 ≤ levelCode s.sec.level → waferPowered s = true → shifts .trace) ∧
    (∀ (a : BitVec 40) tgt off, 1 ≤ levelCode s.sec.level → waferPowered s = true → cfgAddr a.toNat = some (tgt, off) →
      isSingle tgt = true → ∃ u bs, exec (.jtagAccess (.counter a)) s = .next u ∧ .jtag bs ∈ u.out ∧ u.meter = s.meter) ∧
    (2 ≤ levelCode s.sec.level →
      (waferPowered s = true → after .halt { s with wafer := { s.wafer with dbgHalt := true } }) ∧
      after .resume { s with wafer := { s.wafer with dbgHalt := false } } ∧
      (∀ (a : W64) n x bs z, debugPlace s a.toNat n = some x → debugRead s x n = (some bs, z) →
        ∃ u, exec (.jtagAccess (.memRead a n)) s = .next u ∧ .jtag bs ∈ u.out ∧ u.meter = s.meter) ∧
      (∀ (a : W64) (bs : List Byte) off, debugPlace s a.toNat bs.length = some (.comp off) → bs ≠ [] →
        off + bs.length ≤ fwRegion → s.wafer.comp.unc = [] → s.wafer.fiMod.armed = false → s.wafer.comp.mem.wf = true →
        jobOpen s = false →
        ∃ u, exec (.jtagAccess (.memWrite a bs)) s = .next u ∧ u.wafer.comp.mem.readN off bs.length = bs ∧
          (∀ c, c < off ∨ off + bs.length ≤ c → u.wafer.comp.mem.read c = s.wafer.comp.mem.read c) ∧
          u.wafer.tiles = s.wafer.tiles ∧ u.wafer.rims = s.wafer.rims) ∧
      (∀ (a : W64) (bs : List Byte) off, debugPlace s a.toNat bs.length = some (.comp off) → bs ≠ [] → jobOpen s = true →
        (∀ b ∈ blocksOf off bs.length, mget BlockState.zero s.wafer.comp.blocks b = .retained) →
        after (.memWrite a bs) s)) ∧
    (s.sec.level = .factory →
      shifts .scan ∧
      (∀ i, after (.revokeKey i) { s with sec := { s.sec with revoked := s.sec.revoked ||| (1#12 <<< i.val) } }) ∧
      (waferPowered s = false →
        after .clearFailed { s with wafer := { s.wafer with repair := { s.wafer.repair with fields := [], rims := [] } } } ∧
        after .clearRetired { s with wafer := { s.wafer with repair := { s.wafer.repair with retired := [] } } }))

/-! ### Start and resets (18) -/

/-- Stages 1 to 3 (R666 to R670): supply and coolant in range lead to stage 2, anything else to code 0x20 or 0x21; an
admissible stored image runs and leads to stage 3, none leads to the recovery loader with the wafer in Retention; the
march test's failed slices are kept. Stages 4 to 7 and the ready post (R671 to R678): fields power up but for the
recorded ones, a rail that fails records its field; the clock locks at 1.5 GHz, a field whose backup clock fails being
only recorded; failed tiles are retired and tile memories are clear; failed stacks are marked and the links train;
then the module is Active, and vector 8 goes out whatever MB_EVENT_MASK holds. -/
def Obligations.StartStagesComplete : Prop :=
  (∀ (s : State),
     let rest (u : State) : Prop := u.wafer = s.wafer ∧ u.train = s.train ∧ u.ckpt.slots = s.ckpt.slots ∧ u.meter = s.meter
     (∀ a b inlet flow id, s.host.mb.stage = 0x01 ∨ s.host.mb.stage = 0x20 ∨ s.host.mb.stage = 0x21 →
       let th := s.pwr.thermistors
       let good := (480 ≤ a ∧ a ≤ 580 ∧ s.pwr.feedA.reversed = false) ∨ (480 ≤ b ∧ b ≤ 580 ∧ s.pwr.feedB.reversed = false)
       let cool := th &&& 0x03 ≠ 0x03 ∧ th &&& 0x0C ≠ 0x0C ∧ inlet ≤ 400 ∧ 200 ≤ flow
       ∃ u, exec (.stageAlwaysOn a b inlet flow id) s = .next u ∧ rest u ∧
         (good → a ≤ 600 → b ≤ 600 → cool → u.host.mb.stage = 0x02) ∧
         (¬ good ∨ 600 < a ∨ 600 < b → u.host.mb.stage = 0x20) ∧
         (good → a ≤ 600 → b ≤ 600 → ¬ cool → u.host.mb.stage = 0x21) ∧
         u.pwr.feedA.volts = a ∧ u.pwr.feedB.volts = b ∧ u.dmt.loop = !id.isEmpty) ∧
     (s.host.mb.stage = 0x02 → s.pwr.phase = .standby → ∀ p0 p1,
       (∀ i, s.host.fw.stored = some i → s.sec.rollback ≤ i.svn → s.sec.revoked.getLsbD i.slot = false → s.sec.badCode = false →
         s.sec.life ≠ .scrapped →
         ∃ u, exec (.stageCompanion p0 p1) s = .next u ∧ rest u ∧ u.host.mb.stage = 0x03 ∧ u.host.fw.running = some i ∧
           u.sec.level = .closed ∧ u.sec.challenge = none ∧ u.ckpt.key = none ∧ u.gal.key = none ∧ u.host.linkUp0 = p0 ∧
           u.host.linkUp1 = p1) ∧
       (s.host.fw.stored = none →
         ∃ u, exec (.stageCompanion p0 p1) s = .next u ∧ rest u ∧ u.host.mb.stage = 0x30 ∧ u.pwr.phase = .retention)) ∧
     (s.host.mb.stage = 0x03 → s.wafer.frozen = false → ∀ l,
       ∃ u, exec (.stageMemoryWafer l) s = .next u ∧ rest u ∧ u.host.mb.stage = 0x04 ∧ u.pwr.failedSlices = l.map tkey)) ∧
  (∀ (s : State), calm s = true → s.wafer.frozen = false →
     (s.host.mb.stage = 0x04 → ∀ l, ∃ u, exec (.stageFields l) s = .next u ∧ u.host.mb.stage = 0x05 ∧ u.train = s.train ∧
       ∀ f : Fin 84, (fieldAt u.wafer f.val).level = 0 ∧
         (fieldUp u.wafer f.val = true ↔ s.wafer.repair.fields.any (fun p => p.1 == f.val) = false ∧ f ∉ l)) ∧
     (s.host.mb.stage = 0x05 → ∀ p0 l, (entryFields (if p0 then 0 else 8)).any (fieldUp s.wafer) = true →
       ∃ u, exec (.stageClock p0 ⟨[], l⟩) s = .next u ∧ u.host.mb.stage = 0x06 ∧ u.pwr.gov.clock = 60 ∧
         u.pwr.pllUse = (if p0 then 0 else 8) ∧ u.train = s.train) ∧
     (s.host.mb.stage = 0x06 → ∀ l, ∃ u, exec (.stageTiles l) s = .next u ∧ u.host.mb.stage = 0x07 ∧ (∀ q ∈ u.wafer.tiles, q.2 = lostTile q.2) ∧
       ∀ t, t ∈ l → fieldUp s.wafer t.f.val = true → tkey t ∈ u.wafer.repair.retired) ∧
     (s.host.mb.stage = 0x07 → s.pwr.linked = false → ∀ l n0 n8 e0 e8,
       ∃ u, exec (.stageLinks l n0 n8 e0 e8) s = .next u ∧ u.pwr.linked = true ∧ u.host.mb.stage = 0x07 ∧ u.gal.up0 = e0 ∧
         u.gal.up1 = e8 ∧ (∀ k, k ∈ l → (rimAt u.wafer k.val).failed = true) ∧ (l ≠ [] → u.pwr.noJobs = true)) ∧
     (s.host.mb.stage = 0x07 → s.pwr.linked = true →
       ∃ u, exec .readyPost s = .next u ∧ u.host.mb.stage = 0x10 ∧ u.pwr = { s.pwr with phase := .active, linked := false } ∧
         u.wafer = s.wafer ∧ u.train = s.train ∧
         (s.host.busMast = true → msixMasked s 8 = false → .msix 8 ∈ u.out) ∧
         (s.host.busMast = false ∨ msixMasked s 8 = true → u.host.pba.getLsbD 8 = true)))

/-- Resets of the function and of the control processor (R456, R603, R680, R694, R699): a warm restart, an FLR, a
PERST# that ends and the watchdog close the job, empty the rings and start the control processor at stage 2 with level
Closed, while the wafer keeps its power and its map; SYS_RESET below 100 µs is ignored and from 1 ms on is a cold
start. Small events of the always-on and companion domains (R449, R456, R715): the heart beat, an Ethernet link, and a
PERST# of the other port. -/
def Obligations.RestartsAndSmallEventsComplete : Prop :=
  (∀ (s : State) (i : FwImage), calm s = true → serving s = true → s.host.fw.stored = some i → s.sec.rollback ≤ i.svn →
     s.sec.revoked.getLsbD i.slot = false →
     (∃ u, exec .warmRestart s = .next u ∧ warmStarted s u) ∧
     (∃ u, exec .flr s = .next u ∧ warmStarted s u ∧ u.host.msix = [] ∧ u.host.busMast = false) ∧
     (∃ u, exec .watchdogExpiry s = .next u ∧ warmStarted s u ∧ u.host.events.length = 1) ∧
     (∀ p : Fin 2, p.val = b2n s.host.port →
       (∃ u, exec (.perst p true) s = .next u ∧ u.host.perst = true ∧ u.host.busMast = false ∧ u.train = s.train ∧
         u.wafer = s.wafer) ∧
       (s.host.perst = true → ∃ u, exec (.perst p false) s = .next u ∧ warmStarted s u ∧ u.host.perst = false))) ∧
  (∀ (s : State),
     (serving s = true → inRecovery s = false →
       exec .mbHeartBeat s = .next { s with host := { s.host with mb := { s.host.mb with heart := s.host.mb.heart + 1 } } }) ∧
     (∀ up, exec (.ethernetLinkChange 0 up) s = .next { s with gal := { s.gal with up0 := up } } ∧
       exec (.ethernetLinkChange 1 up) s = .next { s with gal := { s.gal with up1 := up } }) ∧
     (∀ (p : Fin 2) on, p.val ≠ b2n s.host.port →
       ∃ u, exec (.perst p on) s = .next u ∧ reports { s with host :=
         if p.val = 0 then { s.host with linkUp0 := !on } else { s.host with linkUp1 := !on } } u))

/-! ### The Demitasse (17) -/

/-- ADC_SAMPLE (R639, R640, R644): meter time rises by one; energy imported on a feed goes into its register and into
the total, modulo 10^14 mWh with the rest below 1 mWh kept; exported energy goes into the feed's reverse register
alone. A meter without supply takes no sample, and nothing outside the meter changes. Marks, intervals and the supply
(R637, R642, R645, R648 to R652, R657): a valid frame's mark waits for the next sample boundary, an invalid frame is
counted; the close writes the interval's record and opens the next at the registers; what is saved when the supply
fails comes back when it returns, with the case's opening logged; the display steps through its 12 items. -/
def Obligations.MeterSamplesAndEventsComplete : Prop :=
  (∀ (s : State) (va ia vb ib : Int),
     let m := s.meter
     let ca := sampleEnergy (clip24 va) (clip24 ia)
     let cb := sampleEnergy (clip24 vb) (clip24 ib)
     (m.powered = true →
       ∃ n, exec (.adcSample va ia vb ib) s = .next { s with meter := n } ∧ n.time = m.time + 1 ∧ n.records = m.records ∧
         (0 ≤ clip24 va * clip24 ia → 0 ≤ clip24 vb * clip24 ib →
           n.regs.eA = (m.regs.eA + (m.res.a + ca) / 2 ^ 96) % 10 ^ 14 ∧ n.res.a = (m.res.a + ca) % 2 ^ 96 ∧
             n.regs.eB = (m.regs.eB + (m.res.b + cb) / 2 ^ 96) % 10 ^ 14 ∧ n.res.b = (m.res.b + cb) % 2 ^ 96 ∧
             n.regs.eT = (m.regs.eT + (m.res.a + ca) / 2 ^ 96 + (m.res.b + cb) / 2 ^ 96) % 10 ^ 14 ∧ n.regs.erA = m.regs.erA ∧
             n.regs.erB = m.regs.erB) ∧
         (clip24 va * clip24 ia < 0 → clip24 vb * clip24 ib < 0 →
           n.regs.erA = (m.regs.erA + (m.res.rA + ca) / 2 ^ 96) % 10 ^ 14 ∧
             n.regs.erB = (m.regs.erB + (m.res.rB + cb) / 2 ^ 96) % 10 ^ 14 ∧ n.regs.eA = m.regs.eA ∧ n.regs.eB = m.regs.eB ∧
             n.regs.eT = m.regs.eT)) ∧
     (m.powered = false → exec (.adcSample va ia vb ib) s = .next s)) ∧
  (∀ (s : State),
     let m := s.meter
     let after (c : Instr) (p : Meter → Prop) : Prop := ∃ n, exec c s = .next { s with meter := n } ∧ p n
     (m.powered = true →
       (∀ bs k, parseMark bs = some k → (m.lastSeq = some k.seq → 3 < (m.time - m.markTime).toNat) →
         after (.markFrame bs) (fun n => n.lastSeq = some k.seq ∧ n.markTime = m.time ∧ n.regs = m.regs ∧
           ∃ gap, n.interval = { m.interval with marks := m.interval.marks ++ [(k, gap)] } ∧
             (gap = true ↔ ∃ q, m.lastSeq = some q ∧ k.seq ≠ q + 1))) ∧
       (∀ bs, parseMark bs = none →
         after (.markFrame bs) (fun n => n.discarded = m.discarded + 1 ∧ n.interval = m.interval ∧ n.regs = m.regs)) ∧
       (∀ k gap rest, m.interval.marks = (k, gap) :: rest → m.closeAt.toNat ≤ m.time.toNat → registersAgree m = true → m.records.length < 131072 →
         after .intervalClose (fun n =>
           n.records = m.records ++ [⟨m.interval.no, m.time, m.regs.eA, m.regs.eB, Sys2Proof.Machine.running m.regs.eA m.interval.endA,
             Sys2Proof.Machine.running m.regs.eB m.interval.endB, k.seq, k.jobId, k.kind, m.interval.flags ||| (if gap then 0x01 else 0)⟩] ∧
           n.interval = ⟨m.interval.no + 1, m.regs.eA, m.regs.eB, 0, rest⟩ ∧ n.regs = m.regs ∧ n.saved.regs = m.regs)) ∧
       after .meterSave (fun n => n = { m with saved := ⟨m.regs, m.res, m.time, m.interval⟩ }) ∧
       after .supplyFailing (fun n => n.powered = false ∧ n.saved = ⟨m.regs, m.res, m.time, m.interval⟩ ∧ n.regs = m.regs) ∧
       after .displayAdvance (fun n => n = { m with item := m.item % 12 + 1 }) ∧
       after .displayReturnTimeout (fun n => n = { m with item := 1 })) ∧
     (m.powered = false → ∀ ticks kept,
       after (.meterPowerUp ticks kept) (fun n => n.powered = true ∧ n.regs = m.saved.regs ∧ n.res = m.saved.res ∧
         n.time = (if kept then m.saved.time + BitVec.ofNat 64 ticks else m.saved.time) ∧ n.interval.no = m.saved.interval.no ∧
         (m.caseLatch = true → n.caseOpen = true ∧ n.caseLatch = false) ∧ (kept = false → n.timeLost = true))) ∧
     after .caseOpened (fun n => n = { m with caseLatch := true }))

/-- The meter's port (R655, R658, R659): a powered meter answers each command with one frame; a nonce that is not 16
bytes long and a range that names nothing are refused with 0x02, a range whose first entry is gone with 0x03. Only
INTERVALS marks what has been read. -/
def Obligations.MeterPortAnswers : Prop :=
  ∀ (s : State) (nonce : List Byte) (first count : Nat), s.meter.powered = true →
    let m := s.meter
    let sends (cmd status : Nat) (payload : List Byte) : State :=
      { s with out := s.out ++ [.meterPort (portFrame cmd status payload)] }
    let got := m.records.filter (fun r => decide (first ≤ r.no.toNat ∧ r.no.toNat < first + count))
    let base := m.eventNo.toNat - m.events.length
    let asked := nonce.length = 16 ∧ 0 < count ∧ count ≤ 64
    exec .identify s = .next (sends 0x01 0x00 Config.meterStore) ∧
    exec .status s = .next (sends 0x05 0x00
      (leBytes 1 (meterFlags m) ++ leBytes 4 m.eventNo.toNat ++ leBytes 8 m.overwrote.toNat)) ∧
    (nonce.length = 16 → exec (.totals nonce) s = .next (sends 0x02 0x00 (signed nonce (totalsBytes m)))) ∧
    (nonce.length ≠ 16 → exec (.totals nonce) s = .next (sends 0x02 0x02 [])) ∧
    (asked → first < m.interval.no.toNat →
      (got.head?.map (fun r => r.no.toNat) = some first → ∃ k, exec (.intervals nonce first count) s =
        .next { sends 0x03 0x00 (signed nonce ((got.map intervalBytes).flatten)) with meter := { m with readTo := k } }) ∧
      (got.head?.map (fun r => r.no.toNat) ≠ some first → exec (.intervals nonce first count) s = .next (sends 0x03 0x03 []))) ∧
    (¬ asked ∨ m.interval.no.toNat ≤ first → exec (.intervals nonce first count) s = .next (sends 0x03 0x02 [])) ∧
    (asked → first < m.eventNo.toNat →
      (base ≤ first → exec (.events nonce first count) s =
        .next (sends 0x04 0x00 (signed nonce (((m.events.drop (first - base)).take count).map meterEventBytes).flatten))) ∧
      (first < base → exec (.events nonce first count) s = .next (sends 0x04 0x03 []))) ∧
    (¬ asked ∨ m.eventNo.toNat ≤ first → exec (.events nonce first count) s = .next (sends 0x04 0x02 []))

/-- The module's side of the meter and the job's end (R323, R646, R647, R661 to R663): a queued mark goes out three
times; a meter that leaves is recorded and makes the job unmetered, one that comes is measured; SWITCH_COMPLETE ends a
closing job with the wafer's units at reset and CAPTURE_SEQ kept. -/
def Obligations.MarksAndSwitchComplete : Prop :=
  ∀ (s : State), s.wafer.fiMod.armed = false →
    (∀ k rest, s.dmt.queue = k :: rest → metered s = true →
      exec .jobMarkSend s = .next { s with
        dmt := { s.dmt with queue := rest, lastSeq := k.seq },
        out := s.out ++ [.markFrame (markBytes k), .markFrame (markBytes k), .markFrame (markBytes k)] }) ∧
    (∀ id, metered s = true → ∃ u, exec (.presenceChange false false id) s = .next u ∧ metered u = false ∧ u.dmt.queue = [] ∧
      u.train = { s.train with job := s.train.job.map (fun j => { j with unmetered := true }) } ∧ u.wafer = s.wafer ∧
      u.rel.sticky.getLsbD 12 = true) ∧
    (∀ id, metered s = false → ∃ u, exec (.presenceChange true true id) s = .next u ∧ metered u = true ∧
      u.dmt.idHash = Config.sm3 id ∧ eventQueued s u 0x0A ∧ u.train = s.train ∧ u.wafer = s.wafer) ∧
    (switching s = true → calm s = true → s.wafer.net.inflight = [] → s.host.cfg.cur = none → s.host.cfg.held = [] →
      s.rel.mapDue = none →
      ∃ u, exec .switchComplete s = .next u ∧ u.train = .reset ∧ u.ckpt.captureSeq = s.ckpt.captureSeq ∧ u.ckpt.slots = [] ∧
        u.ckpt.key = none ∧ u.gal.key = none ∧ u.wafer.net.inflight = [] ∧ u.wafer.groups = [] ∧ u.wafer.halted = false ∧
        u.wafer.repair = s.wafer.repair ∧ u.wafer.off = s.wafer.off ∧ (∀ t, (tileAt u.wafer t).sp = []) ∧
        (∀ f, (fieldAt u.wafer f).level = (fieldAt s.wafer f).level) ∧ u.meter = s.meter)

/-! ### Config writes (20 and the register tables) -/

/-- Config writes at one tile (R127, R207, R208, R210, R250, R324 to R326): CAD_CTRL starts a table that passes its
load or sets ARM, VC_CTRL starts the core, VC_WIN places its window, DMAn_CTL posts the descriptor or clears the
engine, and the sync block's registers take their values. The source's status is clear afterwards. -/
def Obligations.TileConfigWritesComplete : Prop :=
  ∀ (s : State) (src : CfgSrc) (t : TileId) (v : W64), calm s = true → mayConfigure s src → usable s.wafer (tkey t) = true →
    (tileAt s.wafer (tkey t)).fi.armed = false →
    let k := tkey t
    let tgt := CfgTarget.tile t.f t.t
    let x := tileAt s.wafer k
    let at' (u : State) : Tile := tileAt u.wafer k
    let after (c : Instr) (off : Nat) (y : Tile) : Prop :=
      exec c s = .next (configured s src k off (setTile (cfgOut s.wafer [k] off) k y))
    let done (c : Instr) (p : State → Prop) : Prop := ∃ u, exec c s = .next u ∧ p u ∧ u.train = s.train ∧ u.wafer.rims = s.wafer.rims
    (x.cad.run = false → tileSound x → (∀ p, firstWork x.cad x.cad.active = some p → loadCheck x p false = none) →
      done (.cadRun src tgt v) (fun u => (at' u).cad.run = true ∧ (at' u).cad.arm = v.getLsbD 2 ∧ (at' u).cad.slot = 0 ∧
        (at' u).cad.iterNo = 0 ∧ (at' u).sp = x.sp)) ∧
    done (.cadArm src tgt v) (fun u => (at' u).cad = { x.cad with arm := v.getLsbD 2 } ∧ (at' u).sp = x.sp ∧ (at' u).vc = x.vc) ∧
    (x.vc.run = false →
      after (.vcRun src tgt v) 0x19000 { x with vc := { x.vc with
        startPc := bits (v ||| 1).toNat 27 16, run := true, phase := .running, pc := bits (v ||| 1).toNat 27 16, fault := 0,
        loops := [] } } ∧
      (bits v.toNat 3 1 ≤ 5 → after (.vcWin src tgt v) 0x19018 { x with vc := { x.vc with
        winPos := BitVec.ofNat 3 (bits v.toNat 3 1), winEn := v.getLsbD 0 } })) ∧
    (∀ e : Fin 2,
      (v.getLsbD 1 = false → done (.dmaPost src tgt e v) (fun u => dmaOf (at' u) e.val = { dmaOf x e.val with
        posted := (dmaOf x e.val).posted ++ [⟨(List.range 8).map (fun i => mget 0 (dmaOf x e.val).desc i), false⟩] })) ∧
      (v.getLsbD 0 = false → tileSound x → done (.dmaClear src tgt e v) (fun u => (dmaOf (at' u) e.val).queue = [] ∧
        (dmaOf (at' u) e.val).fault = 0 ∧ (dmaOf (at' u) e.val).refused = 0))) ∧
    (∀ i : Fin 4, done (.syncFlagWrite src tgt i v) (fun u => (at' u).sync.flags =
      (x.sync.flags &&& ~~~((0xFFFFFFFFFFFFFFFF#256) <<< (64 * i.val))) ||| ((v.setWidth 256) <<< (64 * i.val)))) ∧
    done (.syncSetf src tgt v) (fun u => ∀ id, id < 256 → flagOf u.wafer k id =
      if id = bits v.toNat 7 0 then v.getLsbD 8 else flagOf s.wafer k id) ∧
    done (.syncAddc src tgt v) (fun u => (at' u).sync.ctrs =
      mput x.sync.ctrs (bits v.toNat 39 32) (ctrOf s.wafer k (bits v.toNat 39 32) + v.setWidth 32)) ∧
    (∀ i : Fin 256, done (.syncCtrWrite src tgt i v) (fun u => (at' u).sync.ctrs = mput x.sync.ctrs i.val (v.setWidth 32)))

/-- Config writes at a field and at rim0 (R232, R235, R312, R318, R321, R329, R332, R346, R728, R729): BDS_PD begins
fences and wakes groups, what it says of a group in entry waits for the entry's end; SIMMER_LEVEL takes 0 to 16, and
Simmer-hold ends where every field is at 16 again; a Banister line's mask and its participants change only while
nobody has arrived, RIM_STEP restarts a schedule, and a group mask is stored. Injection registers and plain register
writes (R10, R125, R607, R715, R733): the control processor's write sets the register of a unit, with ARMED clear
nothing fires; a host's never does; a bank header takes its value while its bank may be written; a mailbox scratch
register is stored. -/
def Obligations.UnitAndPlainWritesComplete : Prop :=
  (∀ (s : State) (src : CfgSrc) (f : Fin 84) (v : W64), calm s = true → mayConfigure s src → fieldUp s.wafer f.val = true →
     let tgt := CfgTarget.field f
     let sent (off : Nat) : Wafer := cfgOut s.wafer [64 * f.val] off
     let x (off : Nat) : Field := fieldAt (sent off) f.val
     let after (c : Instr) (n off : Nat) (w : Wafer) : Prop := exec c s = .next (configured s src n off w)
     (∀ c, c = .bdsPdRequest src tgt v ∨ c = .bdsPdClear src tgt v →
       let b := (fieldAt s.wafer f.val).bds
       ∃ w, after c (64 * f.val) 0xD000 w ∧ (fieldAt w f.val).bds.pdReq = v.setWidth 4 ∧ w.rims = s.wafer.rims ∧ ∀ g, g < 4 →
         let d := (fieldAt w f.val).bds
         (v.getLsbD g = true → b.pdReq.getLsbD g = false →
           (ctlGroup b g ≠ .entering → ctlGroup d g = .fencing) ∧
           (ctlGroup b g = .entering → ctlGroup d g = .entering ∧ d.again.getLsbD g = true)) ∧
         (v.getLsbD g = false → b.pdReq.getLsbD g = true →
           (ctlGroup b g ≠ .entering → ctlGroup d g = .awake) ∧
           (ctlGroup b g = .entering → ctlGroup d g = .entering ∧ d.clear.getLsbD g = true))) ∧
     ((v.setWidth 5 : BitVec 5).toNat ≤ 16 →
       let w := setField (sent 0xF008) f.val { x 0xF008 with
         level := v.setWidth 5, pending := (x 0xF008).pending && decide ((v.setWidth 5 : BitVec 5) ≠ 16) }
       exec (.simmerLevel src tgt v) s = .next { configured s src (64 * f.val) 0xF008 w with
         pwr := { s.pwr with simmerHold := s.pwr.simmerHold && !allAt w 16 } }) ∧
     (∀ l : Fin 16, lineBusy s.wafer l.val = false →
       let off := 0xF100 + 8 * l.val
       after (.banMaskWrite src tgt l v) (64 * f.val) off
         (setField (sent off) f.val { x off with banMask := mput (x off).banMask l.val v }) ∧
       ((rimAt s.wafer 0).failed = false →
         let y := { lineAt s.wafer l.val with tree := v.getLsbD 1, comp := v.getLsbD 0 }
         after (.banLineWrite src l v) 8192 (0xF000 + 8 * l.val) { s.wafer with lines := mput s.wafer.lines l.val y })) ∧
     (∀ k : Fin 16, (rimAt s.wafer k.val).failed = false →
       let w := cfgOut s.wafer [8192 + k.val] 0x30000
       let r := rimAt s.wafer k.val
       let st := { r.stream with
         step := v, started := true, read := 0, readOff := 0, sent := 0, sentOff := 0, buffer := [],
         bases := (List.range 16).map (fun l => (l, rimGen s.wafer k.val l)) }
       after (.rimStep src k v) (8192 + k.val) 0x30000 (setRim w k.val { r with stream := st })) ∧
     (∀ g : Fin 128, (rimAt s.wafer 0).failed = false →
       after (.grpMaskWrite src g f v) 8192 (0x40000 + 0x400 * g.val + 8 * f.val)
         { s.wafer with groups := mput s.wafer.groups (84 * g.val + f.val) v })) ∧
  (∀ (s : State) (v : W64), calm s = true →
     let after (c : Instr) (n off : Nat) (w : Wafer) : Prop :=
       ∃ u, exec c s = .next u ∧ u.wafer = cfgBack off w n ∧ u.train = s.train ∧ u.pwr = s.pwr
     (bridgeBusy s = false →
       (∀ f t, usable s.wafer (64 * f.val + t.val) = true → (tileAt s.wafer (64 * f.val + t.val)).fi.armed = false →
         let k := 64 * f.val + t.val
         let x := tileAt s.wafer k
         after (.fiCtlWrite .firmware (.tile f t) v) k 0x24000
           (setTile (cfgOut s.wafer [k] 0x24000) k { x with fi := x.fi.write v }) ∧
         (s.host.cfg.busy = false → s.host.mb.stage = 0x10 → 2 ≤ levelCode s.sec.level →
           after (.fiCtlWrite .host (.tile f t) v) k 0x24000 (cfgOut s.wafer [k] 0x24000)) ∧
         ((s.host.cfg.busy = true ∨ s.host.mb.stage ≠ 0x10 ∨ levelCode s.sec.level < 2) →
           ∃ u, exec (.fiCtlWrite .host (.tile f t) v) s = .next u ∧ u.wafer = s.wafer)) ∧
       (v.getLsbD 8 = false →
         (∀ f : Fin 84, fieldUp s.wafer f.val = true →
           let w := cfgOut s.wafer [64 * f.val] 0x9000
           let x := fieldAt w f.val
           after (.fiCtlWrite .firmware (.field f) v) (64 * f.val) 0x9000 (setField w f.val { x with fi := x.fi.write v })) ∧
         (∀ k : Fin 16, (rimAt s.wafer k.val).failed = false →
           let r := rimAt s.wafer k.val
           after (.fiCtlWrite .firmware (.rim k) v) (8192 + k.val) 0x32000
             (setRim (cfgOut s.wafer [8192 + k.val] 0x32000) k.val { r with fi := r.fi.write v })) ∧
         ((rimAt s.wafer 0).failed = false →
           after (.fiCtlWrite .firmware .module v) 8192 0x32040 { s.wafer with fiMod := s.wafer.fiMod.write v }))) ∧
     (∀ src (t : TileId), mayConfigure s src → usable s.wafer (tkey t) = true → (tileAt s.wafer (tkey t)).fi.armed = false →
       let x := tileAt s.wafer (tkey t)
       bankBusy x.cad false = false →
       exec (.registerWrite (.cfg src (.tile t.f t.t) 0x8008 v)) s = .next (configured s src (tkey t) 0x8008
         (setTile (cfgOut s.wafer [tkey t] 0x8008) (tkey t) { x with cad := { x.cad with hdr0 := v &&& 0xFFFFFFFFFFFF00FF } }))) ∧
     (∀ i : Fin 4, ∃ u, exec (.registerWrite (.bar0 (0x40 + 8 * i.val) 8 v)) s = .next u ∧
       reports { s with host := { s.host with mb := { s.host.mb with scratch := mput s.host.mb.scratch i.val v } } } u))

/-- The config window (R279, R717 to R723): a start sets BUSY and clears the status, a start while BUSY is set sets
OVERRUN, and one that the bridge holds waits; a CFG packet applies the access at its target, CFG_RESP is counted, and
at the end BUSY clears and CFG_DATA holds what was read. -/
def Obligations.ConfigWindowCompletes : Prop :=
  ∀ (s : State) (ctl : W64), calm s = true →
    let c := s.host.cfg
    let put (d : CfgWin) : State := { s with host := { s.host with cfg := d } }
    let starts (i : Instr) (write : Bool) : Prop := ctl.getLsbD 0 = true → ctl.getLsbD 1 = write →
      (c.busy = true → ∃ u, exec i s = .next u ∧ reports (put { c with overrun := true }) u) ∧
      (c.busy = false → ∃ u, exec i s = .next u ∧ u.host.cfg.busy = true ∧ u.host.cfg.overrun = false ∧
        u.wafer.tiles = s.wafer.tiles ∧ u.wafer.rims = s.wafer.rims ∧ u.train = s.train ∧
        (bridgeBusy s = true → u.host.cfg.held = c.held ++ [⟨.host, c.addr, write, c.data, [], []⟩] ∧ u.wafer = s.wafer) ∧
        (bridgeBusy s = false → ∃ a, u.host.cfg.cur = some a ∧ a.src = .host ∧ a.addr = c.addr ∧ a.write = write ∧
          a.value = c.data ∧ u.wafer = cfgOut s.wafer a.todo (bits c.addr.toNat 24 0)))
    starts (.configRead ctl) false ∧ starts (.configWrite ctl) true ∧
    (∀ a (t : TileId), c.cur = some a → s.wafer.frozen = false → tkey t ∈ a.todo →
      let n := tkey t
      let off := bits a.addr.toNat 24 0
      a.src = .host ∨ a.write = false ∨ off ≠ 0x9000 →
      ∃ u, exec (.cfg (.tile t.f t.t)) s = .next u ∧
        u.host.cfg.cur = some { a with todo := a.todo.filter (fun m => m != n) } ∧
        (a.write = false → u.host.cfg.result = (readTarget s n off).2.1 ∧
          u.host.cfg.status = c.status.note (readTarget s n off).1 n) ∧
        (a.write = true → u.host.cfg.status = c.status.note (writeTarget a.src s n off a.value).1 n)) ∧
    (∀ a (t : TileId), c.cur = some a → tkey t ∉ a.todo →
      let off := bits a.addr.toNat 24 0
      ∃ u, exec (.cfgResp (.tile t.f t.t)) s = .next u ∧
        u.host.cfg = { c with cur := some { a with resp := a.resp.filter (fun m => m != tkey t) } } ∧
        u.wafer = if tkey t ∈ a.resp then cfgBack off s.wafer (tkey t) else s.wafer) ∧
    (∀ a, c.cur = some a → s.wafer.frozen = false →
      (a.todo ≠ [] ∨ a.resp ≠ [] → exec .configAccessComplete s = .next s) ∧
      (a.todo = [] → a.resp = [] → c.held = [] →
        (a.src = .host → exec .configAccessComplete s = .next (put { c with
          busy := false, cur := none, data := if a.write then c.data else if c.status.err = 0 then c.result else 0 })) ∧
        (a.src = .firmware → exec .configAccessComplete s = .next (put { c with cur := none }))) ∧
      (∀ b rest, a.todo = [] → a.resp = [] → c.held = b :: rest → bridgeHeld s = false →
        ∃ u d, exec .configAccessComplete s = .next u ∧ u.host.cfg.held = rest ∧ u.host.cfg.cur = some d ∧
          d.src = b.src ∧ d.addr = b.addr ∧ d.write = b.write ∧ d.value = b.value))

/-! ### Rings, the function and the mailbox (12, 20) -/

/-- The rings (R458, R459, R462 to R469): a doorbell within 4,095 takes its value, one beyond is ring error 0x01; EN
starts a ring at index 0 with PHASE 1, and a ring that stops is disabled once no command of it is in progress; a
command that is taken reserves its completion entry; the waiting exclusive command starts; a progress entry takes the
next place. The function and the mailbox (R454, R455, R715, R716): it moves to the port whose link is up, with bus
mastering off and event 0x0B; bus mastering sends what waited; MB_EVENT bits are cleared by ones and MB_EVENT_MASK is
stored. -/
def Obligations.RingsFunctionAndMailboxComplete : Prop :=
  (∀ (s : State) (i : Fin 8),
     let r := ringAt s i.val
     let after (c : Instr) (p : State → Prop) : Prop := ∃ u, exec c s = .next u ∧ reports s u ∧ p u
     (∀ v : W32, (v.toNat ≤ 4095 → after (.dbSqTail i v) (fun u => ringAt u i.val = { r with sqTail := v.toNat })) ∧
       (4095 < v.toNat → r.state = .running → after (.dbSqTail i v) (fun u => (ringAt u i.val).state = .error ∧
         (ringAt u i.val).error = 1 ∧ eventQueued s u 0x0E)) ∧
       (v.toNat ≤ 4095 → (v.toNat + 4096 - r.cqHead) % 4096 ≤ (r.cqTail + 4096 - r.cqHead) % 4096 →
         after (.dbCqHead i v) (fun u => ringAt u i.val = { r with cqHead := v.toNat }))) ∧
     (∀ ctl : W64,
       (r.en = false → after (.ringEnable i ctl) (fun u => ringAt u i.val = { r with
         coalTime := (ctl ||| 1).extractLsb' 16 8, coalCount := (ctl ||| 1).extractLsb' 8 8, en := true, state := .running,
         error := 0, sqHead := 0, sqTail := 0, cqTail := 0, cqHead := 0, phase := true, unsignalled := 0 })) ∧
       (r.en = true → after (.ringDisable i ctl) (fun u => (ringAt u i.val).en = false ∧ (ringAt u i.val).state = .stopping))) ∧
     (r.state = .stopping → s.host.progs.any (fun p => p.ring == i.val) = false →
       after (.ringStopped i) (fun u => ringAt u i.val = { r with state := .disabled })) ∧
     (∀ e, serving s = true → s.host.progs.length < 256 → (List.range 8).find? (mayTake s) = some i.val →
       let op := fieldN e 0 2
       let id : BitVec 16 := BitVec.ofNat 16 (fieldN e 2 2)
       s.host.progs.any (fun p => p.ring == i.val && p.cmdId == id) = false → knownOps.contains op = true →
       exclusive op = false → fieldN e 6 1 < 8 → zeros e 7 16 = true →
       after (.commandTake (some e)) (fun u => ringAt u i.val = { r with
           sqHead := (r.sqHead + 1) % 4096, reserved := r.reserved + 1 } ∧
         u.host.progs = s.host.progs ++ [⟨i.val, id, op, bitOf (fieldN e 6 1) 0, bitOf (fieldN e 6 1) 1, .taken, 0⟩])) ∧
     (∀ p, s.host.progs.any (fun p => exclusive p.opcode && decide (p.state ≠ .waiting)) = false →
       s.host.progs.find? (fun p => decide (p.state = .waiting)) = some p →
       after .exclusiveStart (fun u => { p with state := .taken } ∈ u.host.progs ∧ u.host.progs.length = s.host.progs.length)) ∧
     (∀ p id stage a b, s.host.progs.find? (fun p => p.ring == i.val && p.cmdId == id) = some p → p.progress = true →
       p.state ≠ .waiting → 64 < freeEntries r →
       after (.progressEntry i id stage a b) (fun u => u.host.progs = s.host.progs ∧
         (ringAt u i.val).cqTail = (if r.cqTail = 4095 then 0 else r.cqTail + 1))) ∧
     (r.coalTime ≠ 0 → r.unsignalled ≠ 0 → after (.coalTimeExpiry i) (fun u => ringAt u i.val = { r with unsignalled := 0 })) ∧
     (s.host.dropped ≠ 0 → s.host.events.length < 256 →
       after .eventDropReport (fun u => u.host.dropped = 0 ∧ eventQueued s u 0x0D))) ∧
  (∀ (s : State),
     ((if s.host.port then s.host.linkUp1 else s.host.linkUp0) = false →
       (if s.host.port then s.host.linkUp0 else s.host.linkUp1) = true →
       ∃ u, exec .functionPortMove s = .next u ∧ eventQueued s u 0x0B ∧
         reports { s with host := { s.host with port := !s.host.port, busMast := false } } u) ∧
     (∃ u, exec .busMasterEnable s = .next u ∧ reports { s with host := { s.host with busMast := true } } u ∧
       u.host.heldOut = [] ∧ ∀ p, p ∈ s.host.heldOut → .hostWrite p.1 p.2 ∈ u.out) ∧
     (∀ v : W64, exec (.mbEventClear v) s = .next { s with host := { s.host with mb := { s.host.mb with
       event := s.host.mb.event &&& ~~~(v.setWidth 6) } } }) ∧
     (∀ v : W64, ∃ u, exec (.mbEventMask v) s = .next u ∧ u.host.mb.event = s.host.mb.event ∧
       reports { s with host := { s.host with mb := { s.host.mb with mask := v.setWidth 6 } } } u))

/-! ### Host commands: device, firmware, power and meter (12, 14, 17) -/

/-- The device and firmware families (R473, R488, R490, R491, R507, R680): DEV_IDENTIFY answers with its page,
DEV_STATUS with its three words, DEV_EVENT_WAIT with the oldest event or by waiting; DEV_TREE_CONFIG stores the
module's place and its ports train or are off; DEV_FW_LOAD writes the staging area, DEV_FW_COMMIT stores a signed
image, DEV_FW_ACTIVATE and DEV_RESET end in a warm restart. The power and meter families (R320, R550, R554, R632,
R646, R647, R661, R666): PWR_POLICY sets the cap and the boost, PWR_RAMP_UP completes at level 16 and asks for the
ramp below it, PWR_STATE starts the wafer, takes it to Retention or the module to Standby, MTR_MARK queues a mark
under the next sequence number, MTR_STATUS names the last mark sent. -/
def Obligations.DevicePowerAndMeterCommandsComplete : Prop :=
  (∀ (s : State) (h : CmdHdr) (p : Prog), calm s = true →
     let acc (op : Nat) : Prop := accepted s h op p
     let ok (c : Instr) (t : State) (d0 d1 d2 : W64) : Prop := ∃ u, exec c s = .next u ∧ completed t u p .ok d0 d1 d2
     let fw := s.host.fw
     let put (x : Fw) : State := { s with host := { s.host with fw := x } }
     (acc 0x0101 → ∀ buf, 4096 ≤ bufSize buf → bufBad buf = none → ∃ v : W32, (∀ i, fw.running = some i → v = i.version) ∧
       ok (.devIdentify h buf) (writeSegs s buf.segs (slice (identityPage s v) 0 4096))
         (word [0xB1, fld s.host.mb.stage.toNat 8, fld s.tree.cfg.moduleId.toNat 32]) (v.setWidth 64) 0) ∧
     (acc 0x0102 → ok (.devStatus h) s (word [powerCode s, fld (jobCode s.train.state) 8, fld (jobIdOf s).toNat 16]) (lastStepWord s)
       (summaryWord s)) ∧
     (acc 0x0103 →
       (∀ e rest, s.host.events = e :: rest →
         ok (.devEventWait h) { s with host := { s.host with events := rest } } (eventWords e).1 (eventWords e).2.1 (eventWords e).2.2) ∧
       (s.host.events = [] → (s.host.progs.filter (fun q => decide (q.state = .event))).length < 16 →
         ∃ u, exec (.devEventWait h) s = .next u ∧ keptWaiting (holdProg s p .event) u)) ∧
     (acc 0x0104 → ∀ id role parent children ports treeId,
       let kids := ports.take children
       let named := (if parent = 0xFF then [] else [parent]) ++ kids
       roleGood role parent children = true → kids.length = children → (∀ n ∈ named, n < 84 ∧ darkField s n = false) →
       (named.map (fun n => n / 7)).Nodup →
       ∃ u, exec (.devTreeConfig h id role parent children ports treeId) s = .next u ∧ u.tree.cfg =
           ⟨true, id, role, if parent = 0xFF then none else some (parent / 7), kids.map (fun n => n / 7), treeId⟩ ∧
         u.wafer = s.wafer ∧ u.train = s.train ∧ u.host.progs = s.host.progs.erase p ∧
         ∀ f, f < 84 → (portAt u f).state =
           if f / 7 ∈ named.map (fun n => n / 7) ∧ fieldUp s.wafer f = true then (if bundleLit u (f / 7) then .training else .down)
           else .off) ∧
     (acc 0x0110 → ∀ off buf, off < stagingBytes → off + bufSize buf ≤ stagingBytes → bufBad buf = none →
       ok (.devFwLoad h off buf) (put { fw with staging := fw.staging.writeN off (bufRead buf) }) 0 0 0) ∧
     (acc 0x0111 → ∀ n i, n ≤ stagingBytes → Config.readImage (fw.staging.readN 0 n) = some i →
       Config.imageSigned (fw.staging.readN 0 n) = true → i.slot < 4 → s.sec.revoked.getLsbD i.slot = false → s.sec.rollback ≤ i.svn →
       ok (.devFwCommit h n) (put { fw with stored := some i }) (i.version.setWidth 64) 0 0) ∧
     (∀ i, fw.stored = some i → s.sec.rollback ≤ i.svn → s.sec.revoked.getLsbD i.slot = false →
       (acc 0x0105 → ∃ u, exec (.devReset h 0) s = .next u ∧ warmStarted s u) ∧
       (acc 0x0112 → ∀ raise, ∃ u, exec (.devFwActivate h raise) s = .next u ∧ warmStarted s u ∧
         u.sec.rollback = if raise then i.svn else s.sec.rollback))) ∧
  (∀ (s : State) (h : CmdHdr) (p : Prog), calm s = true →
     let acc (op : Nat) : Prop := accepted s h op p
     let ok (c : Instr) (t : State) (d0 d1 d2 : W64) : Prop := ∃ u, exec c s = .next u ∧ completed t u p .ok d0 d1 d2
     let un := match s.train.job with | some j => j.unmetered | none => false
     (acc 0x0801 → ∀ boost cap, boost ≤ 1 → 1 ≤ cap → cap ≤ 25000 → ok (.pwrPolicy h boost cap)
       { s with pwr := { s.pwr with gov := { s.pwr.gov with boost := decide (boost = 1), cap := cap } } } 0 0 0) ∧
     (acc 0x0802 → s.pwr.phase = .active →
       (allAt s.wafer 16 = true → ok (.pwrRampUp h) s 0 0 0) ∧
       (allAt s.wafer 16 = false → ∃ u, exec (.pwrRampUp h) s = .next u ∧
         keptWaiting { holdProg s p .rampUp with pwr := { s.pwr with ramp := true } } u)) ∧
     (acc 0x0803 →
       (s.sec.life ≠ .scrapped →
         (s.pwr.phase = .active → ok (.pwrState h 0) s 0 0 0) ∧
         (s.pwr.phase = .retention → s.sec.badCode = false → ∃ u, exec (.pwrState h 0) s = .next u ∧
           keptWaiting (setStage (holdProg s p (.power 0)) 0x03) u)) ∧
       (s.train.state = .none ∧ jobOpen s = false ∨ s.train.state = .stopped →
         (s.pwr.phase = .retention → ok (.pwrState h 3) s 0 0 0) ∧
         (s.pwr.phase = .active → ∃ u, exec (.pwrState h 3) s = .next u ∧ heldInRetention s u)) ∧
       (s.train.state = .none → ∃ u, exec (.pwrState h 4) s = .next u ∧ coldStarted { s with out := u.out } u 0x00)) ∧
     (acc 0x0901 → metered s = true → un = false → s.dmt.queue.length < 13 → ok (.mtrMark h)
       { s with dmt := { s.dmt with queue := s.dmt.queue ++ [⟨3, jobIdOf s, s.dmt.nextSeq⟩], nextSeq := s.dmt.nextSeq + 1 } }
       (s.dmt.nextSeq.setWidth 64) 0 0) ∧
     (acc 0x0902 → ok (.mtrStatus h) s (word [b2n (metered s), fld (b2n un) 1])
       ((s.dmt.nextSeq - BitVec.ofNat 32 s.dmt.queue.length).setWidth 64) 0))

/-! ### Host commands: jobs, steps and synchronization (12) -/

/-- The job family (R323, R475 to R477, R510, R737): JOB_OPEN of an admissible image loads it with step constants and
scales as it says, JOB_START makes the job READY at step 0 or, in a tree, sends its JOIN, JOB_CLOSE with no step under
way begins the switch. -/
def Obligations.JobCommandsComplete : Prop :=
  ∀ (s : State) (h : CmdHdr) (p : Prog), calm s = true →
    let acc (op : Nat) : Prop := accepted s h op p
    (acc 0x0201 → ∀ id buf m z, jobsBarred s = false → s.pwr.phase = .active → bufBad buf = none →
      s.rel.retest = [] → s.rel.hbmRows = [] →
      (∀ f, f < 84 → s.wafer.off.getLsbD f = true → s.wafer.repair.fields.any (fun x => x.1 == f) = true) →
      parseImage (inTree s) (bufRead buf) = some m → namesBadBlock s.wafer m = false → checkpointSize m ≤ m.desc.ckptBytes →
      (metered s = true ∨ m.desc.unmeteredOk = true) → bridgeBusy s = false → s.rel.mapDue = none → loadConfig s m.loads = (true, z) →
      let sm3 := Config.sm3 (bufRead buf)
      let j := jobOf m id sm3 (bufRead buf).length (!metered z)
      calm (loadJob z m j) = true →
      ∃ u, exec (.jobOpen h id buf sm3) s = .next u ∧
        completed (loadJob z m j) u p .ok (BitVec.ofNat 64 (bufRead buf).length) 0 0 ∧ u.train.state = .loaded ∧
        u.train.job = some j ∧ u.train.lamG = m.desc.lsInit ∧ u.train.rsel = false ∧ u.train.hist = [] ∧
        u.train.batches = [] ∧ u.wafer.halted = false ∧ u.ckpt.slots = [] ∧ u.ckpt.captureSeq = z.ckpt.captureSeq ∧
        (∀ k, k < 16 → (rimAt u.wafer k).areas = [] ∧ (rimAt u.wafer k).stream.started = false)) ∧
    (acc 0x0202 → ∀ j, s.train.job = some j → s.pwr.phase = .active → calm (startLocal s j) = true →
      (inTree s = false → ∃ u, exec (.jobStart h) s = .next u ∧ u.train.state = .ready ∧ u.train.next = 0 ∧ u.train.last = none ∧
        u.train.consts = j.consts ∧ u.train.job = some j ∧ u.host.progs = s.host.progs.erase p) ∧
      (inTree s = true → childBundles s = [] → (parentBundle s).isSome = true → s.tree.step.joinSent = false →
        s.tree.step.joins = [] → ∃ u, exec (.jobStart h) s = .next u ∧ u.tree.step.joinSent = true ∧ u.train.state = s.train.state ∧
          u.train.next = 0 ∧ { p with state := .jobStart, rdata0 := 0 } ∈ u.host.progs)) ∧
    (acc 0x0203 → ∀ mode, mode ≤ 1 → (mode = 1 ∨ s.train.run = none ∧ s.train.replay = none) →
      ∃ u, exec (.jobClose h mode) s = .next u ∧ u.train =
          { s.train with state := .closing, run := none, replay := none, step := .reset } ∧
        u.wafer = { s.wafer with halted := true } ∧ { p with state := .jobClose mode, rdata0 := 0 } ∈ u.host.progs)

/-- The step and sync commands (R301, R325, R434, R435, R438, R480 to R483): STEP_RUN and STEP_REPLAY begin and stay
in progress, STEP_STOP ends a run after its step or at once, STEP_RESUME makes a held job READY, STEP_CONST keeps a
record; SYNC_ARRIVE arrives for the companion die, SYNC_WATCH registers its watch, SYNC_SIGNAL writes a flag or adds
to a counter. -/
def Obligations.StepAndSyncCommandsComplete : Prop :=
  ∀ (s : State) (h : CmdHdr) (p : Prog), calm s = true →
    let acc (op : Nat) : Prop := accepted s h op p
    let ok (c : Instr) (t : State) (d0 d1 d2 : W64) : Prop := ∃ u, exec c s = .next u ∧ completed t u p .ok d0 d1 d2
    let train (t : Train) : State := { s with train := t }
    let observed := 1 ≤ levelCode s.sec.level
    (acc 0x0301 → ∀ count verify trace ref slot buf, ref ≤ 2 → (verify = true → ref = 1 → slotGood s slot = true) →
      (trace = true → observed) → s.pwr.phase = .active →
      let byHost := verify && decide (ref = 2)
      ((byHost || trace) = true → bufBad buf = none) →
      let r : Run := ⟨if count = 0 then none else some count, verify, trace, ref, slot, false, if byHost then bufRead buf else [],
        if trace && !byHost then buf.segs else [], true⟩
      ∃ u, exec (.stepRun h count verify trace ref slot buf) s = .next u ∧ keptWaiting { holdProg s p .stepRun with
        train := { s.train with state := .running, run := some r },
        pwr := { s.pwr with ramp := s.pwr.ramp || !allAt s.wafer 16 } } u) ∧
    (acc 0x0302 →
      (s.train.step.begun = true ∨ s.train.step.attempts ≠ 0 → ok (.stepStop h)
        (train { s.train with run := s.train.run.map (fun r => { r with stop := true }) }) (BitVec.ofNat 64 (currentStep s)) 0 0) ∧
      (s.train.step.begun = false → s.train.step.attempts = 0 → ∃ u, exec (.stepStop h) s = .next u ∧ u.wafer = s.wafer ∧
        u.train = { s.train with state := .ready, run := none, step := { s.train.step with waiting := false } } ∧
        u.host.progs.any (fun q => decide (q.state = .stepRun)) = false)) ∧
    (acc 0x0303 → s.train.replay = none → ok (.stepResume h) (train { s.train with state := .ready }) 0 0 0) ∧
    (acc 0x0304 → ∀ n set buf, observed → s.pwr.phase = .active → mayReplay s n = true → (set ≠ 0 → bufBad buf = none) →
      ∃ u, exec (.stepReplay h n set buf) s = .next u ∧ keptWaiting { holdProg s p .replay with
        train := { s.train with replay := some ⟨n, if set = 0 then [] else buf.segs⟩ } } u) ∧
    (acc 0x0305 → ∀ prog first k, prog ≤ 15 → stepTaken s first = false →
      ok (.stepConst h prog first k) (train { s.train with consts := s.train.consts ++ [⟨prog, first, k⟩] }) 0 0 0) ∧
    (acc 0x0310 → ∀ l : Fin 16, s.pwr.phase = .active → (lineAt s.wafer l.val).comp = true →
      let t := { s with wafer := onLine s.wafer l.val (fun x => { x with compArrived := true }) }
      let g := (lineGen s l.val).setWidth 64
      ok (.syncArrive h l false) t g 0 0 ∧
        ∃ u, exec (.syncArrive h l true) s = .next u ∧ keptWaiting (holdProg t p (.arrive l.val) g) u) ∧
    (acc 0x0311 → ∀ (d0 d1 : W64) f x i, s.pwr.phase = .active → (bits d0.toNat 50 49 = 2 ∨ bits d0.toNat 63 57 ≠ 127) →
      parseWatch s.wafer (64 * firstUp s.wafer) none d0.toNat d1.toNat (some .comp) = .inl (f, x) → watchTrue s.wafer f x = false →
      freeSlot (fieldAt s.wafer f) = some i → (fieldAt s.wafer f).comp.getLsbD i = false →
      ∃ u, exec (.syncWatch h d0 d1) s = .next u ∧ mget none (fieldAt u.wafer f).watches i = some x ∧ u.train = s.train ∧
        u.host.progs = (holdProg s p (.watch f i)).host.progs) ∧
    (acc 0x0312 → ∀ (a : BitVec 40) (v : W64) (f : Fin 84) (t : Fin 64), s.pwr.phase = .active → bridgeBusy s = false →
      let k := 64 * f.val + t.val
      usable s.wafer k = true → (tileAt s.wafer k).fi.armed = false →
      (cfgAddr a.toNat = some (.tile f t, 0x22020) →
        ok (.syncSignal h a v)
          (configured s .firmware k 0x22020 (setFlag (cfgOut s.wafer [k] 0x22020) k (bits v.toNat 7 0) (v.getLsbD 8))) 0 0 0) ∧
      (cfgAddr a.toNat = some (.tile f t, 0x22028) →
        ok (.syncSignal h a v) (configured s .firmware k 0x22028
          (addCtr (cfgOut s.wafer [k] 0x22028) k (bits v.toNat 39 32) (v.setWidth 32))) 0 0 0))

/-! ### Host commands: data, state, checkpoints and the Gallery (11, 12) -/

/-- The data and state families (R339, R432, R484 to R486): DATA_WRITE stores to companion memory and DATA_READ
answers with what it holds, no other byte changing; DATA_STAGE keeps a batch, DATA_RETAIN sets the state of a stack's
blocks; landing records, the replay record and the job's state are read out. The checkpoint and Gallery families
(R440, R445, R449, R486, R487, R613, R620): CKPT_CAPTURE starts a capture at the last commit point or asks for one at
the next; a slot is listed, read, which sets its reading flag, released and restored; a wrapped key is installed and
measured; GAL_NET stores an address and GAL_STATUS answers with the stream's counts. -/
def Obligations.DataCheckpointAndGalleryCommandsComplete : Prop :=
  (∀ (s : State) (h : CmdHdr) (p : Prog), calm s = true →
     let acc (op : Nat) : Prop := accepted s h op p
     let ok (c : Instr) (t : State) (d0 d1 d2 : W64) : Prop := ∃ u, exec c s = .next u ∧ completed t u p .ok d0 d1 d2
     let c := s.wafer.comp
     (∀ (a : W64) buf, bufBad buf = none → 0 < bufSize buf →
       (∀ x, dataPlace s a.toNat (bufSize buf) = some x → placeOn s x = true →
         (acc 0x0401 → jobOpen s = false → calm { s with wafer := devStore s.wafer a.toNat (bufRead buf) } = true →
           ok (.dataWrite h a buf) { s with wafer := devStore s.wafer a.toNat (bufRead buf) } 0 0 0) ∧
         (acc 0x0402 → ∀ bs w, devLoad s.wafer a.toNat (bufSize buf) (if jobOpen s then 2 else 0) = (some bs, w) →
           calm { s with wafer := w } = true → ok (.dataRead h a buf) (writeSegs { s with wafer := w } buf.segs bs) 0 0 0)) ∧
       (∀ off, dataPlace s a.toNat (bufSize buf) = some (.comp off) → c.unc = [] → c.cor = [] → s.wafer.fiMod.armed = false →
         (acc 0x0401 → jobOpen s = false → ∃ u, exec (.dataWrite h a buf) s = .next u ∧ u.wafer.tiles = s.wafer.tiles ∧
           u.wafer.rims = s.wafer.rims ∧ u.wafer.comp.mem = c.mem.writeN off (bufRead buf) ∧
           (c.mem.wf = true → u.wafer.comp.mem.readN off (bufSize buf) = bufRead buf) ∧
           ∀ b, b < off ∨ off + bufSize buf ≤ b → u.wafer.comp.mem.read b = c.mem.read b) ∧
         (acc 0x0402 → ok (.dataRead h a buf) (writeSegs s buf.segs (c.mem.readN off (bufSize buf))) 0 0 0))) ∧
     (acc 0x0403 → ∀ n off bytes desc, off + bytes ≤ fwRegion → batchOf s n = none → (stepTaken s n = false ∨ mayStage s n = true) →
       s.train.batches.length < 8 → ok (.dataStage h n off bytes desc)
         { s with train := { s.train with batches := insertBatch ⟨n, off, bytes, slice desc 0 64⟩ s.train.batches } } 0 0 0) ∧
     (acc 0x0404 → ∀ k first count dst, k < 16 → first + count ≤ 32766 → dst ≤ 1 → s.pwr.phase = .active →
       (rimAt s.wafer k).failed = false →
       let r := setBlocks (rimAt s.wafer k) first count (if dst = 1 then .retained else .zero)
       ok (.dataRetain h k first count dst) { s with wafer := setRim s.wafer k r } 0 0 0) ∧
     (∀ buf, bufBad buf = none →
       (acc 0x0501 → ∀ first count,
         let ns := (recordedIn s first count).eraseDups.take (bufSize buf / 320)
         ∃ d, (∀ n rest, ns = n :: rest → d = BitVec.ofNat 64 n) ∧ ok (.stateLrRead h first count buf)
           (writeSegs s buf.segs (ns.map (fun n => (recordAt s n).getD [])).flatten) (BitVec.ofNat 64 ns.length) d 0) ∧
       (acc 0x0502 → ∀ r, s.ckpt.replayRec = some r → ok (.stateReplayRead h buf) (writeSegs s buf.segs r) 0 0 0) ∧
       (acc 0x0503 → s.train.job ≠ none → ∃ bs, ok (.stateJob h buf) (writeSegs s buf.segs bs) 0 0 0))) ∧
  (∀ (s : State) (h : CmdHdr) (p : Prog), calm s = true →
     let acc (op : Nat) : Prop := accepted s h op p
     let ok (c : Instr) (t : State) (d0 d1 d2 : W64) : Prop := ∃ u, exec c s = .next u ∧ completed t u p .ok d0 d1 d2
     (acc 0x0601 →
       (∀ n i, s.train.last = some n → (s.train.state = .ready ∨ s.train.state = .held) → pickSlot s = some i → calm (takeSnapshot s n).2 = true →
         ∃ u x, exec (.ckptCapture h) s = .next u ∧ u.ckpt.capturing = s.ckpt.capturing ++ [x] ∧ x.step = n ∧
           x.lamG = s.train.lamG ∧ u.ckpt.slots = s.ckpt.slots ∧ u.train = s.train) ∧
       (s.train.last = none ∨ s.train.state = .running → ∃ u, exec (.ckptCapture h) s = .next u ∧
         keptWaiting { holdProg s p .capture with ckpt := { s.ckpt with asked := true } } u)) ∧
     (∀ buf, bufBad buf = none →
       (acc 0x0602 → ok (.ckptList h buf)
         (writeSegs s buf.segs (Config.layout 3 (((List.range (slotCount s)).map (slotLine s)).flatten))) 0 0 0) ∧
       (acc 0x0603 → ∀ i off c, mget none s.ckpt.slots i = some c → i < slotCount s → off ≤ c.bytes.length → c.invalid = false → c.bad = false →
         ok (.ckptRead h i off buf) (writeSegs { s with ckpt := { s.ckpt with
           slots := mput s.ckpt.slots i (some { c with reading := true }) } } buf.segs (c.bytes.drop off)) 0 0 0) ∧
       (∀ k, unwrapKey s buf 1 = some k → acc 0x0606 → ∃ u, exec (.ckptKey h buf) s = .next u ∧ u.ckpt.key = some k ∧
         u.gal.key = s.gal.key ∧ u.wafer = s.wafer ∧ u.train = s.train ∧ u.host.progs = s.host.progs.erase p) ∧
       (∀ k, unwrapKey s buf 2 = some k → acc 0x0702 → ∃ u, exec (.galKey h buf) s = .next u ∧ u.gal.key = some k ∧
         u.ckpt.key = s.ckpt.key ∧ u.wafer = s.wafer ∧ u.train = s.train ∧ u.host.progs = s.host.progs.erase p)) ∧
     (acc 0x0604 → ∀ i c, i < slotCount s → mget none s.ckpt.slots i = some c → ok (.ckptRelease h i)
       { s with ckpt := { s.ckpt with slots := mput s.ckpt.slots i (some { c with reading := false }) } } 0 0 0) ∧
     (acc 0x0605 → ∀ j i c buf, s.train.job = some j → s.pwr.phase = .active → s.train.replay = none →
       mget none s.ckpt.slots i = some c → c.invalid = false → c.bad = false → restoreGood s j c.bytes = true → calm (restoreSnap s j c.snap) = true →
       ∃ u, exec (.ckptRestore h 0 i buf) s = .next u ∧ u.train.state = .ready ∧ u.train.next = c.snap.step + 1 ∧
         u.train.last = some c.snap.step ∧ u.train.lamG = c.snap.lamG ∧ u.train.rsel = c.snap.rsel ∧ u.train.hist = c.snap.hist ∧
         u.train.step = .reset ∧ u.wafer.halted = false ∧ u.host.progs = s.host.progs.erase p) ∧
     (acc 0x0701 → ∀ x, netGood x = true → ok (.galNet h x) (setNet s x) 0 0 0) ∧
     (acc 0x0703 → ok (.galStatus h) s (BitVec.ofNat 64 s.gal.seq) (BitVec.ofNat 64 s.gal.acked)
       (BitVec.ofNat 64 (s.gal.window.map (fun r => r.bytes.length)).sum)))

/-! ### Host commands: debug, attestation and injection (12, 15, 16) -/

/-- The debug, attestation and injection families (R489, R599, R602, R609, R617 to R619, R622 to R630, R734, R738): a
challenge takes the next sequence number, an unlock that is not refused raises the level or makes the transition,
DBG_LOCK ends in Closed; halt, resume, memory, trace and counters; quote and certificates; points are armed, disarmed
and listed. -/
def Obligations.DebugCommandsComplete : Prop :=
  ∀ (s : State) (h : CmdHdr) (p : Prog), calm s = true →
    let acc (op : Nat) : Prop := accepted s h op p
    let ok (c : Instr) (t : State) (d0 d1 d2 : W64) : Prop := ∃ u, exec c s = .next u ∧ completed t u p .ok d0 d1 d2
    let sec (x : Sec) : State := { s with sec := x }
    let on (w : Wafer) : State := { s with wafer := w }
    (∀ buf, bufBad buf = none →
      (acc 0x0A01 → ∀ n, levelArg n = true → s.sec.refused < 8 → ∃ draw,
        let bs := challengeBytes (sec { s.sec with unlockSeq := s.sec.unlockSeq + 1 }) n draw
        ok (.dbgChallenge h n buf) (writeSegs (sec { s.sec with
          unlockSeq := s.sec.unlockSeq + 1, challenge := some ⟨n, bs⟩ }) buf.segs bs) 0 0 0) ∧
      (acc 0x0A02 → ∀ n age, levelArg n = true → unlockRefusal s n (bufRead buf) age = none →
        (n ≤ 3 → (n = 1 ∨ s.pwr.phase = .active) → ∃ u, exec (.dbgUnlock h n buf age) s = .next u ∧ u.sec.level = levelOf n ∧
          u.sec.challenge = none ∧ u.sec.life = s.sec.life ∧ u.meter = s.meter ∧
          u.sec.unlocks = (if s.sec.unlocks = BitVec.allOnes 32 then s.sec.unlocks else s.sec.unlocks + 1)) ∧
        (3 < n → ∃ u, exec (.dbgUnlock h n buf age) s = .next u ∧ u.sec.level = .closed ∧ u.sec.challenge = none ∧
          u.sec.life = lifeTarget n ∧ u.meter = s.meter)) ∧
      (acc 0x0A07 → 1 ≤ levelCode s.sec.level → s.pwr.phase = .active →
        ∀ set, ok (.dbgTrace h set buf) (writeTrace s buf.segs) 0 0 0) ∧
      (acc 0x0A08 → ∀ (a : BitVec 40) n tgt off bs z,
        let c := min n (bufSize buf / 8)
        1 ≤ levelCode s.sec.level → s.pwr.phase = .active → bridgeBusy s = false → cfgAddr a.toNat = some (tgt, off) →
        isSingle tgt = true → off + 8 * c ≤ 0x2000000 → readWords s (firstTarget tgt) off c = (bs, z) → calm z = true →
        ok (.dbgCounters h a n buf) (writeSegs z buf.segs bs) 0 0 0) ∧
      (acc 0x0A06 → 2 ≤ levelCode s.sec.level → 0 < bufSize buf → ∀ (a : W64) x, debugPlace s a.toNat (bufSize buf) = some x →
        placeReady s.wafer x (bufSize buf) = true →
        (∀ bs z, debugRead s x (bufSize buf) = (some bs, z) → calm z = true → ok (.dbgMem h 0 a buf) (writeSegs z buf.segs bs) 0 0 0) ∧
        (calm (debugWrite s x (bufRead buf)) = true → ok (.dbgMem h 1 a buf) (debugWrite s x (bufRead buf)) 0 0 0)) ∧
      (s.sec.life ≠ .blank → s.sec.life ≠ .scrapped →
        (acc 0x0B01 → ∀ nonce, ok (.attQuote h nonce buf) (writeSegs s buf.segs (quoteBytes s nonce)) 0 0 0) ∧
        (acc 0x0B02 → ok (.attCert h buf) (writeSegs s buf.segs Config.certificates) 0 0 0)) ∧
      (acc 0x0C03 → ok (.fiStatus h buf) (writeSegs s buf.segs (fiBytes s.wafer (bufSize buf))) 0 0 0)) ∧
    (acc 0x0A03 → ∃ u, exec (.dbgLock h) s = .next u ∧ u.sec.level = .closed ∧ u.meter = s.meter ∧
      (levelCode s.sec.level < 2 → u.wafer = s.wafer ∧ u.train = s.train ∧ u.ckpt = s.ckpt)) ∧
    (2 ≤ levelCode s.sec.level →
      (acc 0x0A04 → s.pwr.phase = .active → ok (.dbgHalt h) (on { s.wafer with dbgHalt := true }) 0 0 0) ∧
      (acc 0x0A05 → s.wafer.dbgHalt = true → ok (.dbgResume h) (on { s.wafer with dbgHalt := false }) 0 0 0) ∧
      (acc 0x0C01 → ∀ point mode count target, fiGood point mode count = true → s.pwr.phase = .active →
        let r : FiReg := ⟨BitVec.ofNat 16 point, BitVec.ofNat 2 mode, BitVec.ofNat 32 count, true⟩
        (∀ l, fiUnits s point target = some (.tiles l) → ok (.fiArm h point mode count target)
          (on (l.foldl (fun w t => onTile w t (fun x => { x with fi := r })) s.wafer)) 0 0 0) ∧
        (∀ l, fiUnits s point target = some (.fields l) → point ∉ [0x0228, 0x0229, 0x022B, 0x0233] →
          ok (.fiArm h point mode count target) (on (l.foldl (fun w f => onField w f (fun x => { x with fi := r })) s.wafer)) 0 0 0) ∧
        (∀ k, fiUnits s point target = some (.rim k) → point ∉ [0x030A, 0x030C] →
          ok (.fiArm h point mode count target) (on (setRim s.wafer k { rimAt s.wafer k with fi := r })) 0 0 0))) ∧
    (acc 0x0C02 → ∀ point, ok (.fiDisarm h point) (on (disarmPoint s.wafer point)) 0 0 0)

/-! ### Every host command of data, state, checkpoints, the Gallery, debugging, attestation and injection ends in a next state -/

/-- The data, state, checkpoint and Gallery commands, each in a next state from every state in which it is taken and
accepted (R432, R440, R445, R449, R484 to R487, R620): DATA_WRITE and DATA_READ of a place that is named and powered,
and of none, which changes nothing; DATA_STAGE; DATA_RETAIN; the three reads of state; capture, list, read, release,
restore and key of checkpoints; the Gallery's address, key and status. Beside what is said here nothing of the module
moves. -/
def Obligations.DataAndStateCommandsEnd : Prop :=
  ∀ (s : State) (h : CmdHdr) (p : Prog) (buf : HostBuf), calm s = true → bufBad buf = none →
    let n := bufSize buf
    let at' (x : Place) : Prop := placeOn s x = true ∧ 0 < n
    let ends (c : Instr) (op : Nat) (t : State) : Prop :=
      accepted s h op p → calm t = true → ∃ u, exec c s = .next u ∧ answered t u p
    (∀ a : W64,
      (∀ x, dataPlace s a.toNat n = some x → at' x →
        (jobOpen s = false →
          ends (.dataWrite h a buf) 0x0401 { s with wafer := devStore s.wafer a.toNat (bufRead buf) }) ∧
        (∀ bs w, devLoad s.wafer a.toNat n (if jobOpen s then 2 else 0) = (some bs, w) →
          ends (.dataRead h a buf) 0x0402 { s with wafer := w })) ∧
      (dataPlace s a.toNat n = none → ends (.dataWrite h a buf) 0x0401 s ∧ ends (.dataRead h a buf) 0x0402 s)) ∧
    (∀ step off bytes desc,
      (off + bytes ≤ fwRegion → batchOf s step = none → (stepTaken s step = false ∨ mayStage s step = true) →
        s.train.batches.length < 8 → ends (.dataStage h step off bytes desc) 0x0403
          { s with train := { s.train with batches := insertBatch ⟨step, off, bytes, slice desc 0 64⟩ s.train.batches } }) ∧
      (fwRegion < off + bytes → ends (.dataStage h step off bytes desc) 0x0403 s)) ∧
    (∀ k first count dst, k < 16 → first + count ≤ 32766 → dst ≤ 1 → s.pwr.phase = .active → (rimAt s.wafer k).failed = false →
      ends (.dataRetain h k first count dst) 0x0404
        { s with wafer := setRim s.wafer k (setBlocks (rimAt s.wafer k) first count (if dst = 1 then .retained else .zero)) }) ∧
    (∀ first count, ends (.stateLrRead h first count buf) 0x0501 s) ∧
    ends (.stateReplayRead h buf) 0x0502 s ∧
    ends (.stateJob h buf) 0x0503 s ∧
    ((s.train.last = none ∨ s.train.state = .running) → accepted s h 0x0601 p →
      ∃ u, exec (.ckptCapture h) s = .next u ∧ keptWaiting (holdProg { s with ckpt := { s.ckpt with asked := true } } p .capture) u) ∧
    ends (.ckptList h buf) 0x0602 s ∧
    (∀ i off c, mget none s.ckpt.slots i = some c →
      (i < slotCount s → off ≤ c.bytes.length → c.invalid = false → c.bad = false → ends (.ckptRead h i off buf) 0x0603
        { s with ckpt := { s.ckpt with slots := mput s.ckpt.slots i (some { c with reading := true }) } }) ∧
      (i < slotCount s → ends (.ckptRelease h i) 0x0604
        { s with ckpt := { s.ckpt with slots := mput s.ckpt.slots i (some { c with reading := false }) } }) ∧
      (∀ j, s.train.job = some j → s.pwr.phase = .active → s.train.replay = none → c.invalid = false → c.bad = false →
        (restoreGood s j c.bytes = true → ends (.ckptRestore h 0 i buf) 0x0605 (restoreSnap s j c.snap)) ∧
        (restoreGood s j c.bytes = false → ends (.ckptRestore h 0 i buf) 0x0605 s))) ∧
    (∀ k, unwrapKey s buf 1 = some k → accepted s h 0x0606 p →
      ∃ u, exec (.ckptKey h buf) s = .next u ∧ u.ckpt = { s.ckpt with key := some k } ∧ u.gal = s.gal ∧ u.wafer = s.wafer ∧
        u.train = s.train ∧ u.host.progs = s.host.progs.erase p) ∧
    (∀ x, netGood x = true → ends (.galNet h x) 0x0701 (setNet s x)) ∧
    (∀ k, unwrapKey s buf 2 = some k → accepted s h 0x0702 p →
      ∃ u, exec (.galKey h buf) s = .next u ∧ u.gal = { s.gal with key := some k } ∧ u.ckpt = s.ckpt ∧ u.wafer = s.wafer ∧
        u.train = s.train ∧ u.host.progs = s.host.progs.erase p) ∧
    ends (.galStatus h) 0x0703 s

/-- The debug, attestation and injection commands, each in a next state from every state in which it is taken and
accepted (R489, R602, R617 to R619, R626, R628, R738): challenge, an accepted unlock, the lock below Invasive; halt
and resume; memory, trace and counters; quote and certificates, which a Blank or Scrapped module refuses with nothing
changed; a point armed at tiles and at a rim, points disarmed and listed. Beside what is said here nothing of the
module moves. -/
def Obligations.DebugAndInjectionCommandsEnd : Prop :=
  ∀ (s : State) (h : CmdHdr) (p : Prog) (buf : HostBuf), calm s = true → bufBad buf = none →
    let ends (c : Instr) (op : Nat) (t : State) : Prop :=
      accepted s h op p → calm t = true → ∃ u, exec c s = .next u ∧ answered t u p
    let on (w : Wafer) : State := { s with wafer := w }
    let n := bufSize buf
    (∀ level, levelArg level = true → s.sec.refused < 8 → accepted s h 0x0A01 p →
      ∃ u bs, exec (.dbgChallenge h level buf) s = .next u ∧
        u.sec = { s.sec with unlockSeq := s.sec.unlockSeq + 1, challenge := some ⟨level, bs⟩ } ∧ bs.length = 64 ∧
        u.wafer = s.wafer ∧ u.train = s.train ∧ u.host.progs = s.host.progs.erase p) ∧
    (∀ level age, 1 ≤ level → level ≤ 3 → (level = 1 ∨ s.pwr.phase = .active) → unlockRefusal s level (bufRead buf) age = none →
      (level ≠ 2 ∨ s.sec.life ≠ .deployed) → accepted s h 0x0A02 p →
      ∃ u, exec (.dbgUnlock h level buf age) s = .next u ∧ u.sec.level = levelOf level ∧ u.sec.challenge = none ∧
        u.sec.life = s.sec.life ∧ u.wafer = s.wafer ∧ u.train = s.train ∧ u.host.progs = s.host.progs.erase p) ∧
    (levelCode s.sec.level < 2 → accepted s h 0x0A03 p →
      ∃ u, exec (.dbgLock h) s = .next u ∧ u.sec.level = .closed ∧ u.wafer = s.wafer ∧ u.train = s.train ∧
        u.host.progs = s.host.progs.erase p) ∧
    (2 ≤ levelCode s.sec.level →
      (s.pwr.phase = .active → ends (.dbgHalt h) 0x0A04 (on { s.wafer with dbgHalt := true })) ∧
      (s.wafer.dbgHalt = true → ends (.dbgResume h) 0x0A05 (on { s.wafer with dbgHalt := false })) ∧
      (∀ (a : W64) x, debugPlace s a.toNat n = some x → placeReady s.wafer x n = true → 0 < n →
        (∀ bs z, debugRead s x n = (some bs, z) → ends (.dbgMem h 0 a buf) 0x0A06 z) ∧
        ends (.dbgMem h 1 a buf) 0x0A06 (debugWrite s x (bufRead buf))) ∧
      (∀ (a : W64), debugPlace s a.toNat n = none → ends (.dbgMem h 0 a buf) 0x0A06 s ∧ ends (.dbgMem h 1 a buf) 0x0A06 s)) ∧
    (1 ≤ levelCode s.sec.level → s.pwr.phase = .active →
      (∀ set, ends (.dbgTrace h set buf) 0x0A07 s) ∧
      (∀ (a : BitVec 40) words tgt off bs z,
        let c := min words (n / 8)
        bridgeBusy s = false → cfgAddr a.toNat = some (tgt, off) → isSingle tgt = true → off + 8 * c ≤ 0x2000000 →
        readWords s (firstTarget tgt) off c = (bs, z) → ends (.dbgCounters h a words buf) 0x0A08 z)) ∧
    (∀ nonce, ends (.attQuote h nonce buf) 0x0B01 s) ∧
    ends (.attCert h buf) 0x0B02 s ∧
    (2 ≤ levelCode s.sec.level → ∀ point mode count target, fiGood point mode count = true → s.pwr.phase = .active →
      let r : FiReg := ⟨BitVec.ofNat 16 point, BitVec.ofNat 2 mode, BitVec.ofNat 32 count, true⟩
      (∀ l, fiUnits s point target = some (.tiles l) →
        ends (.fiArm h point mode count target) 0x0C01 (on (l.foldl (fun w t => onTile w t (fun x => { x with fi := r })) s.wafer))) ∧
      (∀ k, fiUnits s point target = some (.rim k) → point ∉ [0x030A, 0x030C] →
        ends (.fiArm h point mode count target) 0x0C01 (on (setRim s.wafer k { rimAt s.wafer k with fi := r })))) ∧
    (∀ point, ends (.fiDisarm h point) 0x0C02 (on (disarmPoint s.wafer point))) ∧
    ends (.fiStatus h buf) 0x0C03 s

end Statements
end

