-- ==== Sys2Proof/Laws/State.lean ====
section
/-!
SUPPORT. One lemma per field for each named update of `State`, so that no proof unfolds a record update, and what an update
of the wafer leaves of it.
-/

namespace Sys2Proof.Machine

open Sys2Proof

/-! ### onHost -/

@[simp] theorem onHost_wafer (s : State) (f : HostSide → HostSide) : (onHost s f).wafer = s.wafer := rfl
@[simp] theorem onHost_host (s : State) (f : HostSide → HostSide) : (onHost s f).host = f s.host := rfl
@[simp] theorem onHost_train (s : State) (f : HostSide → HostSide) : (onHost s f).train = s.train := rfl
@[simp] theorem onHost_ckpt (s : State) (f : HostSide → HostSide) : (onHost s f).ckpt = s.ckpt := rfl
@[simp] theorem onHost_gal (s : State) (f : HostSide → HostSide) : (onHost s f).gal = s.gal := rfl
@[simp] theorem onHost_tree (s : State) (f : HostSide → HostSide) : (onHost s f).tree = s.tree := rfl
@[simp] theorem onHost_pwr (s : State) (f : HostSide → HostSide) : (onHost s f).pwr = s.pwr := rfl
@[simp] theorem onHost_rel (s : State) (f : HostSide → HostSide) : (onHost s f).rel = s.rel := rfl
@[simp] theorem onHost_sec (s : State) (f : HostSide → HostSide) : (onHost s f).sec = s.sec := rfl
@[simp] theorem onHost_dmt (s : State) (f : HostSide → HostSide) : (onHost s f).dmt = s.dmt := rfl
@[simp] theorem onHost_meter (s : State) (f : HostSide → HostSide) : (onHost s f).meter = s.meter := rfl
@[simp] theorem onHost_out (s : State) (f : HostSide → HostSide) : (onHost s f).out = s.out := rfl
@[simp] theorem onHost_free (s : State) (f : HostSide → HostSide) : (onHost s f).free = s.free := rfl
@[simp] theorem onHost_pending (s : State) (f : HostSide → HostSide) : (onHost s f).pending = s.pending := rfl

/-! ### onTrain -/

@[simp] theorem onTrain_wafer (s : State) (f : Train → Train) : (onTrain s f).wafer = s.wafer := rfl
@[simp] theorem onTrain_host (s : State) (f : Train → Train) : (onTrain s f).host = s.host := rfl
@[simp] theorem onTrain_train (s : State) (f : Train → Train) : (onTrain s f).train = f s.train := rfl
@[simp] theorem onTrain_ckpt (s : State) (f : Train → Train) : (onTrain s f).ckpt = s.ckpt := rfl
@[simp] theorem onTrain_gal (s : State) (f : Train → Train) : (onTrain s f).gal = s.gal := rfl
@[simp] theorem onTrain_tree (s : State) (f : Train → Train) : (onTrain s f).tree = s.tree := rfl
@[simp] theorem onTrain_pwr (s : State) (f : Train → Train) : (onTrain s f).pwr = s.pwr := rfl
@[simp] theorem onTrain_rel (s : State) (f : Train → Train) : (onTrain s f).rel = s.rel := rfl
@[simp] theorem onTrain_sec (s : State) (f : Train → Train) : (onTrain s f).sec = s.sec := rfl
@[simp] theorem onTrain_dmt (s : State) (f : Train → Train) : (onTrain s f).dmt = s.dmt := rfl
@[simp] theorem onTrain_meter (s : State) (f : Train → Train) : (onTrain s f).meter = s.meter := rfl
@[simp] theorem onTrain_out (s : State) (f : Train → Train) : (onTrain s f).out = s.out := rfl
@[simp] theorem onTrain_free (s : State) (f : Train → Train) : (onTrain s f).free = s.free := rfl
@[simp] theorem onTrain_pending (s : State) (f : Train → Train) : (onTrain s f).pending = s.pending := rfl

/-! ### onW -/

@[simp] theorem onW_wafer (s : State) (f : Wafer → Wafer) : (onW s f).wafer = f s.wafer := rfl
@[simp] theorem onW_host (s : State) (f : Wafer → Wafer) : (onW s f).host = s.host := rfl
@[simp] theorem onW_train (s : State) (f : Wafer → Wafer) : (onW s f).train = s.train := rfl
@[simp] theorem onW_ckpt (s : State) (f : Wafer → Wafer) : (onW s f).ckpt = s.ckpt := rfl
@[simp] theorem onW_gal (s : State) (f : Wafer → Wafer) : (onW s f).gal = s.gal := rfl
@[simp] theorem onW_tree (s : State) (f : Wafer → Wafer) : (onW s f).tree = s.tree := rfl
@[simp] theorem onW_pwr (s : State) (f : Wafer → Wafer) : (onW s f).pwr = s.pwr := rfl
@[simp] theorem onW_rel (s : State) (f : Wafer → Wafer) : (onW s f).rel = s.rel := rfl
@[simp] theorem onW_sec (s : State) (f : Wafer → Wafer) : (onW s f).sec = s.sec := rfl
@[simp] theorem onW_dmt (s : State) (f : Wafer → Wafer) : (onW s f).dmt = s.dmt := rfl
@[simp] theorem onW_meter (s : State) (f : Wafer → Wafer) : (onW s f).meter = s.meter := rfl
@[simp] theorem onW_out (s : State) (f : Wafer → Wafer) : (onW s f).out = s.out := rfl
@[simp] theorem onW_free (s : State) (f : Wafer → Wafer) : (onW s f).free = s.free := rfl
@[simp] theorem onW_pending (s : State) (f : Wafer → Wafer) : (onW s f).pending = s.pending := rfl

/-! ### onPwr -/

@[simp] theorem onPwr_wafer (s : State) (f : Pwr → Pwr) : (onPwr s f).wafer = s.wafer := rfl
@[simp] theorem onPwr_host (s : State) (f : Pwr → Pwr) : (onPwr s f).host = s.host := rfl
@[simp] theorem onPwr_train (s : State) (f : Pwr → Pwr) : (onPwr s f).train = s.train := rfl
@[simp] theorem onPwr_ckpt (s : State) (f : Pwr → Pwr) : (onPwr s f).ckpt = s.ckpt := rfl
@[simp] theorem onPwr_gal (s : State) (f : Pwr → Pwr) : (onPwr s f).gal = s.gal := rfl
@[simp] theorem onPwr_tree (s : State) (f : Pwr → Pwr) : (onPwr s f).tree = s.tree := rfl
@[simp] theorem onPwr_pwr (s : State) (f : Pwr → Pwr) : (onPwr s f).pwr = f s.pwr := rfl
@[simp] theorem onPwr_rel (s : State) (f : Pwr → Pwr) : (onPwr s f).rel = s.rel := rfl
@[simp] theorem onPwr_sec (s : State) (f : Pwr → Pwr) : (onPwr s f).sec = s.sec := rfl
@[simp] theorem onPwr_dmt (s : State) (f : Pwr → Pwr) : (onPwr s f).dmt = s.dmt := rfl
@[simp] theorem onPwr_meter (s : State) (f : Pwr → Pwr) : (onPwr s f).meter = s.meter := rfl
@[simp] theorem onPwr_out (s : State) (f : Pwr → Pwr) : (onPwr s f).out = s.out := rfl
@[simp] theorem onPwr_free (s : State) (f : Pwr → Pwr) : (onPwr s f).free = s.free := rfl
@[simp] theorem onPwr_pending (s : State) (f : Pwr → Pwr) : (onPwr s f).pending = s.pending := rfl

/-! ### onTree -/

@[simp] theorem onTree_wafer (s : State) (f : Tree → Tree) : (onTree s f).wafer = s.wafer := rfl
@[simp] theorem onTree_host (s : State) (f : Tree → Tree) : (onTree s f).host = s.host := rfl
@[simp] theorem onTree_train (s : State) (f : Tree → Tree) : (onTree s f).train = s.train := rfl
@[simp] theorem onTree_ckpt (s : State) (f : Tree → Tree) : (onTree s f).ckpt = s.ckpt := rfl
@[simp] theorem onTree_gal (s : State) (f : Tree → Tree) : (onTree s f).gal = s.gal := rfl
@[simp] theorem onTree_tree (s : State) (f : Tree → Tree) : (onTree s f).tree = f s.tree := rfl
@[simp] theorem onTree_pwr (s : State) (f : Tree → Tree) : (onTree s f).pwr = s.pwr := rfl
@[simp] theorem onTree_rel (s : State) (f : Tree → Tree) : (onTree s f).rel = s.rel := rfl
@[simp] theorem onTree_sec (s : State) (f : Tree → Tree) : (onTree s f).sec = s.sec := rfl
@[simp] theorem onTree_dmt (s : State) (f : Tree → Tree) : (onTree s f).dmt = s.dmt := rfl
@[simp] theorem onTree_meter (s : State) (f : Tree → Tree) : (onTree s f).meter = s.meter := rfl
@[simp] theorem onTree_out (s : State) (f : Tree → Tree) : (onTree s f).out = s.out := rfl
@[simp] theorem onTree_free (s : State) (f : Tree → Tree) : (onTree s f).free = s.free := rfl
@[simp] theorem onTree_pending (s : State) (f : Tree → Tree) : (onTree s f).pending = s.pending := rfl

/-! ### setRing -/

@[simp] theorem setRing_wafer (s : State) (i : Nat) (r : Ring) : (setRing s i r).wafer = s.wafer := rfl
@[simp] theorem setRing_host (s : State) (i : Nat) (r : Ring) : (setRing s i r).host = { s.host with rings := mput s.host.rings i r } := rfl
@[simp] theorem setRing_train (s : State) (i : Nat) (r : Ring) : (setRing s i r).train = s.train := rfl
@[simp] theorem setRing_ckpt (s : State) (i : Nat) (r : Ring) : (setRing s i r).ckpt = s.ckpt := rfl
@[simp] theorem setRing_gal (s : State) (i : Nat) (r : Ring) : (setRing s i r).gal = s.gal := rfl
@[simp] theorem setRing_tree (s : State) (i : Nat) (r : Ring) : (setRing s i r).tree = s.tree := rfl
@[simp] theorem setRing_pwr (s : State) (i : Nat) (r : Ring) : (setRing s i r).pwr = s.pwr := rfl
@[simp] theorem setRing_rel (s : State) (i : Nat) (r : Ring) : (setRing s i r).rel = s.rel := rfl
@[simp] theorem setRing_sec (s : State) (i : Nat) (r : Ring) : (setRing s i r).sec = s.sec := rfl
@[simp] theorem setRing_dmt (s : State) (i : Nat) (r : Ring) : (setRing s i r).dmt = s.dmt := rfl
@[simp] theorem setRing_meter (s : State) (i : Nat) (r : Ring) : (setRing s i r).meter = s.meter := rfl
@[simp] theorem setRing_out (s : State) (i : Nat) (r : Ring) : (setRing s i r).out = s.out := rfl
@[simp] theorem setRing_free (s : State) (i : Nat) (r : Ring) : (setRing s i r).free = s.free := rfl
@[simp] theorem setRing_pending (s : State) (i : Nat) (r : Ring) : (setRing s i r).pending = s.pending := rfl

/-! ### onRing -/

@[simp] theorem onRing_wafer (s : State) (i : Nat) (f : Ring → Ring) : (onRing s i f).wafer = s.wafer := rfl
@[simp] theorem onRing_host (s : State) (i : Nat) (f : Ring → Ring) : (onRing s i f).host = { s.host with rings := mput s.host.rings i (f (ringAt s i)) } := rfl
@[simp] theorem onRing_train (s : State) (i : Nat) (f : Ring → Ring) : (onRing s i f).train = s.train := rfl
@[simp] theorem onRing_ckpt (s : State) (i : Nat) (f : Ring → Ring) : (onRing s i f).ckpt = s.ckpt := rfl
@[simp] theorem onRing_gal (s : State) (i : Nat) (f : Ring → Ring) : (onRing s i f).gal = s.gal := rfl
@[simp] theorem onRing_tree (s : State) (i : Nat) (f : Ring → Ring) : (onRing s i f).tree = s.tree := rfl
@[simp] theorem onRing_pwr (s : State) (i : Nat) (f : Ring → Ring) : (onRing s i f).pwr = s.pwr := rfl
@[simp] theorem onRing_rel (s : State) (i : Nat) (f : Ring → Ring) : (onRing s i f).rel = s.rel := rfl
@[simp] theorem onRing_sec (s : State) (i : Nat) (f : Ring → Ring) : (onRing s i f).sec = s.sec := rfl
@[simp] theorem onRing_dmt (s : State) (i : Nat) (f : Ring → Ring) : (onRing s i f).dmt = s.dmt := rfl
@[simp] theorem onRing_meter (s : State) (i : Nat) (f : Ring → Ring) : (onRing s i f).meter = s.meter := rfl
@[simp] theorem onRing_out (s : State) (i : Nat) (f : Ring → Ring) : (onRing s i f).out = s.out := rfl
@[simp] theorem onRing_free (s : State) (i : Nat) (f : Ring → Ring) : (onRing s i f).free = s.free := rfl
@[simp] theorem onRing_pending (s : State) (i : Nat) (f : Ring → Ring) : (onRing s i f).pending = s.pending := rfl

/-! ### onPort -/

@[simp] theorem onPort_wafer (s : State) (i : Nat) (g : Port → Port) : (onPort s i g).wafer = s.wafer := rfl
@[simp] theorem onPort_host (s : State) (i : Nat) (g : Port → Port) : (onPort s i g).host = s.host := rfl
@[simp] theorem onPort_train (s : State) (i : Nat) (g : Port → Port) : (onPort s i g).train = s.train := rfl
@[simp] theorem onPort_ckpt (s : State) (i : Nat) (g : Port → Port) : (onPort s i g).ckpt = s.ckpt := rfl
@[simp] theorem onPort_gal (s : State) (i : Nat) (g : Port → Port) : (onPort s i g).gal = s.gal := rfl
@[simp] theorem onPort_tree (s : State) (i : Nat) (g : Port → Port) : (onPort s i g).tree = { s.tree with ports := mput s.tree.ports i (g (portAt s i)) } := rfl
@[simp] theorem onPort_pwr (s : State) (i : Nat) (g : Port → Port) : (onPort s i g).pwr = s.pwr := rfl
@[simp] theorem onPort_rel (s : State) (i : Nat) (g : Port → Port) : (onPort s i g).rel = s.rel := rfl
@[simp] theorem onPort_sec (s : State) (i : Nat) (g : Port → Port) : (onPort s i g).sec = s.sec := rfl
@[simp] theorem onPort_dmt (s : State) (i : Nat) (g : Port → Port) : (onPort s i g).dmt = s.dmt := rfl
@[simp] theorem onPort_meter (s : State) (i : Nat) (g : Port → Port) : (onPort s i g).meter = s.meter := rfl
@[simp] theorem onPort_out (s : State) (i : Nat) (g : Port → Port) : (onPort s i g).out = s.out := rfl
@[simp] theorem onPort_free (s : State) (i : Nat) (g : Port → Port) : (onPort s i g).free = s.free := rfl
@[simp] theorem onPort_pending (s : State) (i : Nat) (g : Port → Port) : (onPort s i g).pending = s.pending := rfl

/-! ### onFp -/

@[simp] theorem onFp_wafer (s : State) (i : Nat) (g : FieldPwr → FieldPwr) : (onFp s i g).wafer = s.wafer := rfl
@[simp] theorem onFp_host (s : State) (i : Nat) (g : FieldPwr → FieldPwr) : (onFp s i g).host = s.host := rfl
@[simp] theorem onFp_train (s : State) (i : Nat) (g : FieldPwr → FieldPwr) : (onFp s i g).train = s.train := rfl
@[simp] theorem onFp_ckpt (s : State) (i : Nat) (g : FieldPwr → FieldPwr) : (onFp s i g).ckpt = s.ckpt := rfl
@[simp] theorem onFp_gal (s : State) (i : Nat) (g : FieldPwr → FieldPwr) : (onFp s i g).gal = s.gal := rfl
@[simp] theorem onFp_tree (s : State) (i : Nat) (g : FieldPwr → FieldPwr) : (onFp s i g).tree = s.tree := rfl
@[simp] theorem onFp_pwr (s : State) (i : Nat) (g : FieldPwr → FieldPwr) : (onFp s i g).pwr = { s.pwr with fields := mput s.pwr.fields i (g (fpAt s i)) } := rfl
@[simp] theorem onFp_rel (s : State) (i : Nat) (g : FieldPwr → FieldPwr) : (onFp s i g).rel = s.rel := rfl
@[simp] theorem onFp_sec (s : State) (i : Nat) (g : FieldPwr → FieldPwr) : (onFp s i g).sec = s.sec := rfl
@[simp] theorem onFp_dmt (s : State) (i : Nat) (g : FieldPwr → FieldPwr) : (onFp s i g).dmt = s.dmt := rfl
@[simp] theorem onFp_meter (s : State) (i : Nat) (g : FieldPwr → FieldPwr) : (onFp s i g).meter = s.meter := rfl
@[simp] theorem onFp_out (s : State) (i : Nat) (g : FieldPwr → FieldPwr) : (onFp s i g).out = s.out := rfl
@[simp] theorem onFp_free (s : State) (i : Nat) (g : FieldPwr → FieldPwr) : (onFp s i g).free = s.free := rfl
@[simp] theorem onFp_pending (s : State) (i : Nat) (g : FieldPwr → FieldPwr) : (onFp s i g).pending = s.pending := rfl

/-! ### drawFree -/

@[simp] theorem drawFree_wafer (s : State) : ((drawFree s).2).wafer = s.wafer := rfl
@[simp] theorem drawFree_host (s : State) : ((drawFree s).2).host = s.host := rfl
@[simp] theorem drawFree_train (s : State) : ((drawFree s).2).train = s.train := rfl
@[simp] theorem drawFree_ckpt (s : State) : ((drawFree s).2).ckpt = s.ckpt := rfl
@[simp] theorem drawFree_gal (s : State) : ((drawFree s).2).gal = s.gal := rfl
@[simp] theorem drawFree_tree (s : State) : ((drawFree s).2).tree = s.tree := rfl
@[simp] theorem drawFree_pwr (s : State) : ((drawFree s).2).pwr = s.pwr := rfl
@[simp] theorem drawFree_rel (s : State) : ((drawFree s).2).rel = s.rel := rfl
@[simp] theorem drawFree_sec (s : State) : ((drawFree s).2).sec = s.sec := rfl
@[simp] theorem drawFree_dmt (s : State) : ((drawFree s).2).dmt = s.dmt := rfl
@[simp] theorem drawFree_meter (s : State) : ((drawFree s).2).meter = s.meter := rfl
@[simp] theorem drawFree_out (s : State) : ((drawFree s).2).out = s.out := rfl
@[simp] theorem drawFree_free (s : State) : ((drawFree s).2).free = s.free + 1 := rfl
@[simp] theorem drawFree_pending (s : State) : ((drawFree s).2).pending = s.pending := rfl

/-! ### setSticky -/

@[simp] theorem setSticky_wafer (s : State) (i : Nat) : (setSticky s i).wafer = s.wafer := rfl
@[simp] theorem setSticky_host (s : State) (i : Nat) : (setSticky s i).host = s.host := rfl
@[simp] theorem setSticky_train (s : State) (i : Nat) : (setSticky s i).train = s.train := rfl
@[simp] theorem setSticky_ckpt (s : State) (i : Nat) : (setSticky s i).ckpt = s.ckpt := rfl
@[simp] theorem setSticky_gal (s : State) (i : Nat) : (setSticky s i).gal = s.gal := rfl
@[simp] theorem setSticky_tree (s : State) (i : Nat) : (setSticky s i).tree = s.tree := rfl
@[simp] theorem setSticky_pwr (s : State) (i : Nat) : (setSticky s i).pwr = s.pwr := rfl
@[simp] theorem setSticky_rel (s : State) (i : Nat) : (setSticky s i).rel = { s.rel with sticky := s.rel.sticky ||| (1#16 <<< i) } := rfl
@[simp] theorem setSticky_sec (s : State) (i : Nat) : (setSticky s i).sec = s.sec := rfl
@[simp] theorem setSticky_dmt (s : State) (i : Nat) : (setSticky s i).dmt = s.dmt := rfl
@[simp] theorem setSticky_meter (s : State) (i : Nat) : (setSticky s i).meter = s.meter := rfl
@[simp] theorem setSticky_out (s : State) (i : Nat) : (setSticky s i).out = s.out := rfl
@[simp] theorem setSticky_free (s : State) (i : Nat) : (setSticky s i).free = s.free := rfl
@[simp] theorem setSticky_pending (s : State) (i : Nat) : (setSticky s i).pending = s.pending := rfl

/-! ### updProg -/

@[simp] theorem updProg_wafer (s : State) (p q : Prog) : (updProg s p q).wafer = s.wafer := rfl
@[simp] theorem updProg_host (s : State) (p q : Prog) : (updProg s p q).host = { s.host with progs := s.host.progs.map (fun x => if x = p then q else x) } := rfl
@[simp] theorem updProg_train (s : State) (p q : Prog) : (updProg s p q).train = s.train := rfl
@[simp] theorem updProg_ckpt (s : State) (p q : Prog) : (updProg s p q).ckpt = s.ckpt := rfl
@[simp] theorem updProg_gal (s : State) (p q : Prog) : (updProg s p q).gal = s.gal := rfl
@[simp] theorem updProg_tree (s : State) (p q : Prog) : (updProg s p q).tree = s.tree := rfl
@[simp] theorem updProg_pwr (s : State) (p q : Prog) : (updProg s p q).pwr = s.pwr := rfl
@[simp] theorem updProg_rel (s : State) (p q : Prog) : (updProg s p q).rel = s.rel := rfl
@[simp] theorem updProg_sec (s : State) (p q : Prog) : (updProg s p q).sec = s.sec := rfl
@[simp] theorem updProg_dmt (s : State) (p q : Prog) : (updProg s p q).dmt = s.dmt := rfl
@[simp] theorem updProg_meter (s : State) (p q : Prog) : (updProg s p q).meter = s.meter := rfl
@[simp] theorem updProg_out (s : State) (p q : Prog) : (updProg s p q).out = s.out := rfl
@[simp] theorem updProg_free (s : State) (p q : Prog) : (updProg s p q).free = s.free := rfl
@[simp] theorem updProg_pending (s : State) (p q : Prog) : (updProg s p q).pending = s.pending := rfl

@[simp] theorem drawFree_number (s : State) : (drawFree s).1 = s.free := rfl

end Sys2Proof.Machine
end

