-- ==== Sys2Proof/Laws/Maps.lean ====
section
/-!
SUPPORT. What the sparse maps and the byte memories do: a read after a write, and the canonical form, which every memory
operation keeps.
-/

namespace Sys2Proof.Machine

open Sys2Proof

section maps
variable {α : Type}

@[simp] theorem mget_nil (d : α) (k : Nat) : mget d [] k = d := rfl

/-- A read after a write to the same key gives the value written. -/
@[simp] theorem mget_mput_same (d : α) (m : SMap α) (k : Nat) (v : α) : mget d (mput m k v) k = v := by
  induction m with
  | nil => simp [mput, mget]
  | cons p m ih => obtain ⟨k', v'⟩ := p; simp only [mput]; split <;> (try split) <;> simp_all [mget]

/-- A write leaves every other key alone. -/
@[simp] theorem mget_mput_other (d : α) (m : SMap α) {k j : Nat} (v : α) (h : k ≠ j) :
    mget d (mput m k v) j = mget d m j := by
  induction m with
  | nil => simp [mput, mget, h]
  | cons p m ih =>
    obtain ⟨k', v'⟩ := p; simp only [mput]; split <;> (try split)
    · subst_vars; simp [mget, h]
    · simp [mget, h]
    · simp [mget, ih]

/-- Of two writes to one key the later stands. -/
@[simp] theorem mput_mput_same (m : SMap α) (k : Nat) (v w : α) : mput (mput m k v) k w = mput m k w := by
  induction m with
  | nil => simp [mput]
  | cons p m ih =>
    obtain ⟨k', v'⟩ := p; simp only [mput]; split
    · simp [mput]
    · split <;> simp [mput, *]

end maps

/-- The least address a memory lists is above `a`. -/
def Memory.above (a : Nat) : Memory → Prop
  | [] => True
  | (a', _) :: _ => a < a'

theorem Memory.wf_cons {a : Nat} {b : Byte} {m : Memory} :
    Memory.wf ((a, b) :: m) = true ↔ b ≠ 0 ∧ Memory.above a m ∧ Memory.wf m = true := by
  cases m with
  | nil => simp [Memory.wf, Memory.above]
  | cons p m => obtain ⟨a', b'⟩ := p; simp [Memory.wf, Memory.above, and_assoc]

theorem Memory.above_write {a a' : Nat} {m : Memory} {b : Byte} (h : Memory.above a m) (ha : a < a') (hw : m.wf = true) :
    Memory.above a (m.write a' b) := by
  cases m with
  | nil => simp only [Memory.write]; split <;> simp [Memory.above, ha]
  | cons p m =>
    obtain ⟨c, d⟩ := p
    have hc : a < c := h
    rw [Memory.wf_cons] at hw
    simp only [Memory.write]
    split
    · split
      · cases m with
        | nil => simp [Memory.above]
        | cons q m => obtain ⟨e, f⟩ := q; exact Nat.lt_trans hc hw.2.1
      · exact ha
    · split
      · split
        · exact hc
        · exact ha
      · exact hc

/-- A write of one byte keeps the canonical form. -/
theorem Memory.wf_write {m : Memory} (hw : m.wf = true) (a : Nat) (b : Byte) : (m.write a b).wf = true := by
  induction m with
  | nil => simp only [Memory.write]; split <;> simp_all [Memory.wf]
  | cons p m ih =>
    obtain ⟨c, d⟩ := p
    have hw' := hw
    rw [Memory.wf_cons] at hw
    obtain ⟨hd, hab, hm⟩ := hw
    simp only [Memory.write]
    split
    · subst_vars
      split
      · exact hm
      · rw [Memory.wf_cons]; exact ⟨‹_›, hab, hm⟩
    · split
      · split
        · exact hw'
        · rw [Memory.wf_cons]; exact ⟨‹_›, ‹_›, hw'⟩
      · rw [Memory.wf_cons]
        exact ⟨hd, Memory.above_write hab (by omega) hm, ih hm⟩

/-- A write of bytes keeps the canonical form. -/
theorem Memory.wf_writeN {bs : List Byte} : ∀ {m : Memory} (_ : m.wf = true) (a : Nat), (m.writeN a bs).wf = true := by
  induction bs with
  | nil => intro m hw a; exact hw
  | cons b bs ih => intro m hw a; exact ih (Memory.wf_write hw a b) (a + 1)

theorem Memory.above_filter {a : Nat} {m : Memory} (p : Nat × Byte → Bool) (h : Memory.above a m) (hw : m.wf = true) :
    Memory.above a (m.filter p) := by
  induction m with
  | nil => trivial
  | cons q m ih =>
    obtain ⟨c, d⟩ := q
    rw [Memory.wf_cons] at hw
    have hc : a < c := h
    simp only [List.filter]
    split
    · exact hc
    · refine ih ?_ hw.2.2
      cases m with
      | nil => trivial
      | cons q m => obtain ⟨e, f⟩ := q; exact Nat.lt_trans hc hw.2.1

/-- Clearing keeps the canonical form. -/
theorem Memory.wf_clear {m : Memory} (hw : m.wf = true) (a n : Nat) : (m.clear a n).wf = true := by
  unfold Memory.clear
  generalize (fun c : Nat × Byte => decide (c.1 < a ∨ a + n ≤ c.1)) = p
  induction m with
  | nil => rfl
  | cons q m ih =>
    obtain ⟨c, d⟩ := q
    rw [Memory.wf_cons] at hw
    simp only [List.filter]
    split
    · rw [Memory.wf_cons]; exact ⟨hw.1, Memory.above_filter p hw.2.1 hw.2.2, ih hw.2.2⟩
    · exact ih hw.2.2

/-- Below the least listed address a memory reads 0. -/
theorem Memory.read_above {a : Nat} {m : Memory} (h : Memory.above a m) (hw : m.wf = true) : m.read a = 0 := by
  induction m with
  | nil => rfl
  | cons q m ih =>
    obtain ⟨c, d⟩ := q
    rw [Memory.wf_cons] at hw
    have hc : a < c := h
    have : Memory.above a m := by
      cases m with
      | nil => trivial
      | cons q m => obtain ⟨e, f⟩ := q; exact Nat.lt_trans hc hw.2.1
    simp only [Memory.read, mget] at ih ⊢
    rw [if_neg (by omega)]
    exact ih this hw.2.2

/-- A read of the byte just written. -/
@[simp] theorem Memory.read_write_same {m : Memory} (hw : m.wf = true) (a : Nat) (b : Byte) : (m.write a b).read a = b := by
  induction m with
  | nil => simp only [Memory.write]; split <;> simp_all [Memory.read, mget]
  | cons q m ih =>
    obtain ⟨c, d⟩ := q
    have hw' := hw
    rw [Memory.wf_cons] at hw
    simp only [Memory.write]
    split
    · subst_vars
      split
      · subst_vars; exact Memory.read_above hw.2.1 hw.2.2
      · simp [Memory.read, mget]
    · split
      · split
        · subst_vars; exact Memory.read_above (m := (c, d) :: m) (by assumption) hw'
        · simp [Memory.read, mget]
      · have := ih hw.2.2
        simp only [Memory.read, mget] at this ⊢
        rw [if_neg (by assumption)]; exact this

/-- A write leaves every other byte alone. -/
@[simp] theorem Memory.read_write_other (m : Memory) {a c : Nat} (b : Byte) (h : a ≠ c) : (m.write a b).read c = m.read c := by
  induction m with
  | nil => simp only [Memory.write]; split <;> simp [Memory.read, mget, h]
  | cons q m ih =>
    obtain ⟨e, d⟩ := q
    simp only [Memory.read] at ih ⊢
    simp only [Memory.write]
    split
    · subst_vars; split <;> simp [mget, h]
    · split
      · split
        · rfl
        · simp [mget, h]
      · simp only [mget, ih]

/-- A write of bytes leaves every byte outside them alone. -/
theorem Memory.read_writeN_other {bs : List Byte} : ∀ (m : Memory) (a c : Nat), (c < a ∨ a + bs.length ≤ c) →
    (m.writeN a bs).read c = m.read c := by
  induction bs with
  | nil => intro m a c _; rfl
  | cons b bs ih =>
    intro m a c h
    simp only [List.length_cons] at h
    simp only [Memory.writeN]
    rw [ih _ _ _ (by omega), Memory.read_write_other _ _ (by omega)]

/-- A read of the bytes just written. -/
theorem Memory.readN_writeN {bs : List Byte} : ∀ {m : Memory} (_ : m.wf = true) (a : Nat),
    (m.writeN a bs).readN a bs.length = bs := by
  induction bs with
  | nil => intro m _ a; rfl
  | cons b bs ih =>
    intro m hw a
    simp only [Memory.writeN, List.length_cons, Memory.readN]
    rw [Memory.read_writeN_other _ _ _ (by omega), Memory.read_write_same hw, ih (Memory.wf_write hw a b)]

end Sys2Proof.Machine
end

