-- ==== Sys2Proof/Laws/Wafer.lean ====
section
/-!
SUPPORT. What the operations over the wafer do: one part changed and the others left alone, the detections they post, an
instruction of a core, and an event that posts nothing.
-/

namespace Sys2Proof.Machine

open Sys2Proof

/-! ### Parts by number -/

@[simp] theorem tileAt_setTile_same (w : Wafer) (t : Nat) (x : Tile) : tileAt (setTile w t x) t = x := by
  simp [tileAt, setTile]

@[simp] theorem tileAt_setTile_other (w : Wafer) {t u : Nat} (x : Tile) (h : t ≠ u) :
    tileAt (setTile w t x) u = tileAt w u := by simp [tileAt, setTile, h]

@[simp] theorem setTile_setTile (w : Wafer) (t : Nat) (x y : Tile) : setTile (setTile w t x) t y = setTile w t y := by
  simp [setTile]

@[simp] theorem setTile_posted (w : Wafer) (t : Nat) (x : Tile) : (setTile w t x).posted = w.posted := rfl
@[simp] theorem setTile_net (w : Wafer) (t : Nat) (x : Tile) : (setTile w t x).net = w.net := rfl
@[simp] theorem setTile_fields (w : Wafer) (t : Nat) (x : Tile) : (setTile w t x).fields = w.fields := rfl
@[simp] theorem setTile_rims (w : Wafer) (t : Nat) (x : Tile) : (setTile w t x).rims = w.rims := rfl
@[simp] theorem setTile_repair (w : Wafer) (t : Nat) (x : Tile) : (setTile w t x).repair = w.repair := rfl
@[simp] theorem setTile_off (w : Wafer) (t : Nat) (x : Tile) : (setTile w t x).off = w.off := rfl
@[simp] theorem fieldAt_setTile (w : Wafer) (t f : Nat) (x : Tile) : fieldAt (setTile w t x) f = fieldAt w f := rfl
@[simp] theorem rimAt_setTile (w : Wafer) (t k : Nat) (x : Tile) : rimAt (setTile w t x) k = rimAt w k := rfl

@[simp] theorem onTile_eq (w : Wafer) (t : Nat) (f : Tile → Tile) : onTile w t f = setTile w t (f (tileAt w t)) := rfl

@[simp] theorem fieldAt_setField_same (w : Wafer) (f : Nat) (x : Field) : fieldAt (setField w f x) f = x := by
  simp [fieldAt, setField]

@[simp] theorem fieldAt_setField_other (w : Wafer) {f g : Nat} (x : Field) (h : f ≠ g) :
    fieldAt (setField w f x) g = fieldAt w g := by simp [fieldAt, setField, h]

@[simp] theorem setField_setField (w : Wafer) (f : Nat) (x y : Field) : setField (setField w f x) f y = setField w f y := by
  simp [setField]

@[simp] theorem setField_posted (w : Wafer) (f : Nat) (x : Field) : (setField w f x).posted = w.posted := rfl
@[simp] theorem setField_net (w : Wafer) (f : Nat) (x : Field) : (setField w f x).net = w.net := rfl
@[simp] theorem tileAt_setField (w : Wafer) (f t : Nat) (x : Field) : tileAt (setField w f x) t = tileAt w t := rfl
@[simp] theorem rimAt_setField (w : Wafer) (f k : Nat) (x : Field) : rimAt (setField w f x) k = rimAt w k := rfl
@[simp] theorem onField_eq (w : Wafer) (f : Nat) (g : Field → Field) : onField w f g = setField w f (g (fieldAt w f)) := rfl

@[simp] theorem rimAt_setRim_same (w : Wafer) (k : Nat) (x : Rim) : rimAt (setRim w k x) k = x := by simp [rimAt, setRim]

@[simp] theorem rimAt_setRim_other (w : Wafer) {k l : Nat} (x : Rim) (h : k ≠ l) : rimAt (setRim w k x) l = rimAt w l := by
  simp [rimAt, setRim, h]

@[simp] theorem setRim_setRim (w : Wafer) (k : Nat) (x y : Rim) : setRim (setRim w k x) k y = setRim w k y := by simp [setRim]

@[simp] theorem setRim_posted (w : Wafer) (k : Nat) (x : Rim) : (setRim w k x).posted = w.posted := rfl
@[simp] theorem setRim_net (w : Wafer) (k : Nat) (x : Rim) : (setRim w k x).net = w.net := rfl
@[simp] theorem tileAt_setRim (w : Wafer) (k t : Nat) (x : Rim) : tileAt (setRim w k x) t = tileAt w t := rfl
@[simp] theorem fieldAt_setRim (w : Wafer) (k f : Nat) (x : Rim) : fieldAt (setRim w k x) f = fieldAt w f := rfl
@[simp] theorem onRim_eq (w : Wafer) (k : Nat) (g : Rim → Rim) : onRim w k g = setRim w k (g (rimAt w k)) := rfl

@[simp] theorem onNet_posted (w : Wafer) (g : Net → Net) : (onNet w g).posted = w.posted := rfl
@[simp] theorem tileAt_onNet (w : Wafer) (g : Net → Net) (t : Nat) : tileAt (onNet w g) t = tileAt w t := rfl
@[simp] theorem fieldAt_onNet (w : Wafer) (g : Net → Net) (f : Nat) : fieldAt (onNet w g) f = fieldAt w f := rfl
@[simp] theorem rimAt_onNet (w : Wafer) (g : Net → Net) (k : Nat) : rimAt (onNet w g) k = rimAt w k := rfl

theorem onVc_eq (w : Wafer) (t : Nat) (f : Vc → Vc) :
    onVc w t f = setTile w t { tileAt w t with vc := f (tileAt w t).vc } := rfl

theorem tileBump_eq (w : Wafer) (t off n : Nat) (h : n ≠ 0) :
    tileBump w t off n = setTile w t { tileAt w t with ctrs := bumpAt (tileAt w t).ctrs off n } := by simp [tileBump, h]

theorem fieldBump_eq (w : Wafer) (f off n : Nat) (h : n ≠ 0) :
    fieldBump w f off n = setField w f { fieldAt w f with ctrs := bumpAt (fieldAt w f).ctrs off n } := by
  simp [fieldBump, h]

theorem rimBump_eq (w : Wafer) (k off n : Nat) (h : n ≠ 0) :
    rimBump w k off n = setRim w k { rimAt w k with ctrs := bumpAt (rimAt w k).ctrs off n } := by simp [rimBump, h]

/-! ### Events that post nothing -/

theorem settle_calm {s : State} (h : calm s = true) : settle s = s := by simp [settle, h]

/-- Only the posted detections of the wafer and the commands in progress decide whether the firmware has work. -/
theorem calm_wafer {s : State} (h : calm s = true) (w : Wafer) (hw : w.posted = s.wafer.posted) :
    calm { s with wafer := w } = true := by simpa [calm, hw] using h

/-- An event that posts no detection changes the wafer as it says, and nothing else. -/
theorem onWafer_calm {s : State} (h : calm s = true) (f : Wafer → Wafer) (hw : (f s.wafer).posted = s.wafer.posted) :
    onWafer s f = .next { s with wafer := f s.wafer } := by
  simp [onWafer, settle_calm (calm_wafer h _ hw)]

/-! ### Injections that are not armed -/

theorem fiFire_off {r : FiReg} (h : r.armed = false) (lo hi : Nat) : fiFire r lo hi = none := by simp [fiFire, h]

theorem tileInject_off {w : Wafer} {t : Nat} (h : (tileAt w t).fi.armed = false) (lo hi : Nat) :
    tileInject w t lo hi = (none, w) := by simp [tileInject, fiFire_off h]

theorem fieldInject_off {w : Wafer} {f : Nat} (h : (fieldAt w f).fi.armed = false) (lo hi : Nat) :
    fieldInject w f lo hi = (none, w) := by simp [fieldInject, fiFire_off h]

theorem rimInject_off {w : Wafer} {k : Nat} (h : (rimAt w k).fi.armed = false) (lo hi : Nat) :
    rimInject w k lo hi = (none, w) := by simp [rimInject, fiFire_off h]

theorem modInject_off {w : Wafer} (h : w.fiMod.armed = false) (lo hi : Nat) : modInject w lo hi = (none, w) := by
  simp [modInject, fiFire_off h]

end Sys2Proof.Machine
end

