-- ==== Sys2Proof/Laws/Module.lean ====
section
/-!
SUPPORT. What the firmware's reports do: interrupts, completions, events, fault records and notices change the host's view
of the module and nothing else of it; a completion removes its command and writes its entry; the job stop and the handling
of detections leave the meter, the power, the checkpoints and the debug side alone.
-/

namespace Sys2Proof.Machine

open Sys2Proof Sys2Proof.Safety

/-! ### Reports -/

theorem reports_refl (s : State) : reports s s := by simp [reports, hostKept]

theorem reports_trans {a b c : State} (h : reports a b) (h' : reports b c) : reports a c := by
  obtain ⟨h1, h2, h3, h4, h5, h6, h7, h8, h9, h10, h11⟩ := h
  obtain ⟨k1, k2, k3, k4, k5, k6, k7, k8, k9, k10, k11⟩ := h'
  refine ⟨k1.trans h1, ?_, k3.trans h3, k4.trans h4, k5.trans h5, k6.trans h6, k7.trans h7, k8.trans h8, k9.trans h9,
    k10.trans h10, k11.trans h11⟩
  unfold hostKept at *
  rw [k2, h2]

/-- A report keeps the meter. -/
theorem reports_meter {a b : State} (h : reports a b) : b.meter = a.meter := h.2.2.2.2.2.2.2.2.2.1

/-- A report keeps the wafer. -/
theorem reports_wafer {a b : State} (h : reports a b) : b.wafer = a.wafer := h.1

/-- A report keeps the job. -/
theorem reports_train {a b : State} (h : reports a b) : b.train = a.train := h.2.2.1

theorem reports_foldl {α : Type} (f : State → α → State) (h : ∀ s a, reports s (f s a)) :
    ∀ (l : List α) (s : State), reports s (l.foldl f s)
  | [], s => reports_refl s
  | a :: l, s => reports_trans (h s a) (reports_foldl f h l _)

/-- A state that differs in what leaves the module, in the free values drawn and in the error history alone. -/
theorem reports_side (s : State) (r : Rel) (o : List OutMsg) (n : Nat) :
    reports s { s with rel := r, out := o, free := n } := by simp [reports, hostKept]

theorem reports_out (s : State) (o : List OutMsg) : reports s { s with out := o } := by simp [reports, hostKept]

theorem reports_rel (s : State) (r : Rel) : reports s { s with rel := r } := by simp [reports, hostKept]

theorem reports_setSticky (s : State) (i : Nat) : reports s (setSticky s i) := reports_rel s _

theorem reports_drawFree (s : State) : reports s (drawFree s).2 := by simp [drawFree, reports, hostKept]

/-- A host side changed in what a report may change. -/
theorem reports_onHost (s : State) (f : HostSide → HostSide) (h : hostKept s.host (f s.host)) : reports s (onHost s f) := by
  simpa [reports, onHost] using h

theorem reports_setRing (s : State) (i : Nat) (r : Ring) : reports s (setRing s i r) :=
  reports_onHost s _ (by simp [hostKept])

theorem reports_raiseMsix (s : State) (v : Nat) : reports s (raiseMsix s v) := by
  unfold raiseMsix; split
  · exact reports_onHost s _ (by simp [hostKept])
  · exact reports_out s _

theorem reports_setMb (s : State) (b : BitVec 6) : reports s (setMb s b) := by
  unfold setMb; simp only []
  have h := reports_onHost s (fun h => { h with mb := { h.mb with event := s.host.mb.event ||| b } }) (by simp [hostKept])
  split
  · exact reports_trans h (reports_raiseMsix _ _)
  · exact h

theorem reports_notice (old new : State) : reports new (notice old new) := by
  unfold notice; simp only []; split
  · exact reports_rel _ _
  · exact reports_trans (reports_rel _ _) (reports_setMb _ _)

theorem reports_hostWrite (s : State) (a : Nat) (bs : List Byte) : reports s (hostWrite s a bs) := by
  unfold hostWrite; split
  · exact reports_out s _
  · exact reports_onHost s _ (by simp [hostKept])

theorem reports_signalRing (s : State) (i : Nat) : reports s (signalRing s i) :=
  reports_trans (reports_setRing s i _) (reports_raiseMsix _ i)

theorem reports_writeEntry (s : State) (i : Nat) (id : BitVec 16) (r : Nat) (p : Bool) (st : Nat) (d0 d1 d2 : W64) :
    reports s (writeEntry s i id r p st d0 d1 d2) := by
  unfold writeEntry; simp only []
  have h := fun b => reports_trans (reports_hostWrite s ((ringAt s i).cqBase.toNat + 32 * (ringAt s i).cqTail) b)
    (reports_setRing _ i { ringAt s i with
      cqTail := if decide ((ringAt s i).cqTail = 4095) then 0 else (ringAt s i).cqTail + 1,
      phase := if decide ((ringAt s i).cqTail = 4095) then !(ringAt s i).phase else (ringAt s i).phase,
      unsignalled := (ringAt s i).unsignalled + 1 })
  split
  · exact reports_trans (h _) (reports_signalRing _ i)
  · exact h _

theorem reports_complete (s : State) (p : Prog) (r : Nat) (d0 d1 d2 : W64) : reports s (complete s p r d0 d1 d2) := by
  unfold complete; split
  · exact reports_trans (reports_onHost s _ (by simp [hostKept]))
      (reports_trans (reports_setRing _ p.ring _) (reports_writeEntry _ _ _ _ _ _ _ _ _))
  · exact reports_refl s

theorem reports_completeAll (s : State) (f : Prog → Bool) (r : Nat) (d0 d1 d2 : W64) :
    reports s (completeAll s f r d0 d1 d2) :=
  reports_foldl _ (fun s p => reports_complete s p r d0 d1 d2) _ s

theorem reports_queueEvent (s : State) (e : Event) : reports s (queueEvent s e) := by
  unfold queueEvent; split
  · exact reports_complete s _ _ _ _ _
  · split
    · exact reports_trans (reports_onHost s _ (by simp [hostKept])) (reports_setSticky _ _)
    · exact reports_trans (reports_onHost s _ (by simp [hostKept])) (reports_setMb _ _)

theorem reports_postEvent (s : State) (c : Nat) (d : Option W32) : reports s (postEvent s c d) :=
  reports_trans (reports_drawFree s) (reports_trans (reports_drawFree _) (reports_queueEvent _ _))

theorem reports_postRecord (s : State) (n : FaultNote) : reports s (postRecord s n) :=
  reports_trans (reports_queueEvent s _) (reports_rel _ _)

theorem reports_noteHistory (s : State) (n : FaultNote) : reports s (noteHistory s n) := by
  unfold noteHistory; simp only []; split
  · exact reports_refl s
  · split
    · exact reports_rel s _
    · split
      · exact reports_rel s _
      · exact reports_refl s

theorem reports_noteRow (s : State) (n : FaultNote) : reports s (noteRow s n) := by
  unfold noteRow; split
  · exact reports_rel s _
  · exact reports_refl s

/-! ### What a completion writes -/

/-- What a module has sent stays sent, in its order. -/
theorem hostWrite_out (s : State) (a : Nat) (bs : List Byte) :
    (hostWrite s a bs).out = s.out ++ (if s.host.busMast then [OutMsg.hostWrite a bs] else []) ∧
      (hostWrite s a bs).host.heldOut = s.host.heldOut ++ (if s.host.busMast then [] else [(a, bs)]) := by
  unfold hostWrite; split <;> simp_all

/-- Bytes for the host leave at once, or wait for bus mastering (R455). -/
theorem hostWrite_mem (s : State) (a : Nat) (bs : List Byte) :
    if s.host.busMast then OutMsg.hostWrite a bs ∈ (hostWrite s a bs).out else (a, bs) ∈ (hostWrite s a bs).host.heldOut := by
  have h := hostWrite_out s a bs
  split <;> simp_all

theorem raiseMsix_out (s : State) (v : Nat) : s.out <+: (raiseMsix s v).out ∧ (raiseMsix s v).host.heldOut = s.host.heldOut ∧
    (raiseMsix s v).host.progs = s.host.progs ∧ (raiseMsix s v).host.events = s.host.events ∧
    (raiseMsix s v).host.busMast = s.host.busMast := by
  unfold raiseMsix; split <;> simp

theorem setMb_out (s : State) (b : BitVec 6) : s.out <+: (setMb s b).out ∧ (setMb s b).host.heldOut = s.host.heldOut ∧
    (setMb s b).host.progs = s.host.progs ∧ (setMb s b).host.events = s.host.events ∧
    (setMb s b).host.busMast = s.host.busMast := by
  unfold setMb; simp only []
  split
  · exact raiseMsix_out (onHost s (fun h => { h with mb := { h.mb with event := s.host.mb.event ||| b } })) 8
  · simp

theorem notice_out (a s : State) : s.out <+: (notice a s).out ∧ (notice a s).host.heldOut = s.host.heldOut ∧
    (notice a s).host.progs = s.host.progs ∧ (notice a s).host.events = s.host.events ∧
    (notice a s).host.busMast = s.host.busMast := by
  unfold notice; simp only []
  split
  · simp
  · exact setMb_out { s with rel := { s.rel with sticky := s.rel.sticky ||| standingBits s } } _

/-- What an entry written to a completion ring leaves: the entry is sent or held, nothing sent before is lost, and the commands
in progress and the events stay (R455, R468). -/
theorem writeEntry_writes (s : State) (i : Nat) (id : BitVec 16) (r : Nat) (p : Bool) (st : Nat) (d0 d1 d2 : W64) :
    let u := writeEntry s i id r p st d0 d1 d2
    let a := (ringAt s i).cqBase.toNat + 32 * (ringAt s i).cqTail
    let bs := completionBytes (ringAt s i) id r p st d0 d1 d2
    s.out <+: u.out ∧ s.host.heldOut <+: u.host.heldOut ∧ u.host.progs = s.host.progs ∧ u.host.events = s.host.events ∧
      (if s.host.busMast then OutMsg.hostWrite a bs ∈ u.out else (a, bs) ∈ u.host.heldOut) := by
  intro u a bs
  have hw := hostWrite_out s a bs
  have hm := hostWrite_mem s a bs
  have hp : (hostWrite s a bs).host.progs = s.host.progs ∧ (hostWrite s a bs).host.events = s.host.events := by
    unfold hostWrite; split <;> simp
  let m := setRing (hostWrite s a bs) i { ringAt s i with
    cqTail := if decide ((ringAt s i).cqTail = 4095) then 0 else (ringAt s i).cqTail + 1,
    phase := if decide ((ringAt s i).cqTail = 4095) then !(ringAt s i).phase else (ringAt s i).phase,
    unsignalled := (ringAt s i).unsignalled + 1 }
  have hu : u = m ∨ u = signalRing m i := by
    simp only [u, writeEntry]; split
    · exact .inr rfl
    · exact .inl rfl
  have hx : m.out <+: u.out ∧ u.host.heldOut = m.host.heldOut ∧ u.host.progs = m.host.progs ∧
      u.host.events = m.host.events := by
    rcases hu with hu | hu <;> rw [hu]
    · simp
    · have h := raiseMsix_out (onRing m i (fun r => { r with unsignalled := 0 })) i
      exact ⟨h.1, h.2.1, h.2.2.1, h.2.2.2.1⟩
  have mo : m.out = (hostWrite s a bs).out := rfl
  have mh : m.host.heldOut = (hostWrite s a bs).host.heldOut := rfl
  have mp : m.host.progs = (hostWrite s a bs).host.progs := rfl
  have me : m.host.events = (hostWrite s a bs).host.events := rfl
  obtain ⟨x1, x2, x3, x4⟩ := hx
  refine ⟨?_, ?_, by rw [x3, mp, hp.1], by rw [x4, me, hp.2], ?_⟩
  · exact List.IsPrefix.trans (by rw [mo, hw.1]; exact List.prefix_append _ _) x1
  · rw [x2, mh, hw.2]; exact List.prefix_append _ _
  · split
    · rename_i hb; simp only [hb, if_true] at hm; exact x1.subset (by rw [mo]; exact hm)
    · rename_i hb; simp only [hb] at hm; rw [x2, mh]; simpa using hm

/-- A command in progress completed: its record is gone and its entry is written with the result and its data (R455, R464,
R468). -/
theorem complete_completed (s : State) (p : Prog) (r : Result) (d0 d1 d2 : W64) (h : p ∈ s.host.progs) :
    completed s (complete s p r.code d0 d1 d2) p r d0 d1 d2 := by
  have hc : s.host.progs.contains p = true := by simpa using h
  let s1 := onHost s (fun h => { h with progs := h.progs.erase p })
  let s2 := onRing s1 p.ring (fun r => { r with reserved := r.reserved - 1 })
  have e : complete s p r.code d0 d1 d2 = writeEntry s2 p.ring p.cmdId r.code false 0 d0 d1 d2 := by rw [complete, if_pos hc]
  have w := writeEntry_writes s2 p.ring p.cmdId r.code false 0 d0 d1 d2
  have ha : (ringAt s2 p.ring).cqBase = (ringAt s p.ring).cqBase ∧ (ringAt s2 p.ring).cqTail = (ringAt s p.ring).cqTail ∧
      completionBytes (ringAt s2 p.ring) p.cmdId r.code false 0 d0 d1 d2 =
        completionBytes (ringAt s p.ring) p.cmdId r.code false 0 d0 d1 d2 := by
    simp [s2, s1, ringAt, onRing, setRing, onHost, completionBytes]
  have hr := reports_complete s p r.code d0 d1 d2
  rw [e] at hr ⊢
  obtain ⟨w1, w2, w3, w4, w5⟩ := w
  rw [ha.1, ha.2.1, ha.2.2] at w5
  exact ⟨hr, w1, w2, w3, w4, w5⟩

/-- A notice after a completion keeps what the completion wrote. -/
theorem completed_notice {t u : State} (a : State) {p : Prog} {r : Result} {d0 d1 d2 : W64} (h : completed t u p r d0 d1 d2) :
    completed t (notice a u) p r d0 d1 d2 := by
  obtain ⟨h1, h2, h3, h4, h5, h6⟩ := h
  have n := notice_out a u
  refine ⟨reports_trans h1 (reports_notice a u), h2.trans n.1, ?_, n.2.2.1.trans h4, n.2.2.2.1.trans h5, ?_⟩
  · rw [n.2.1]; exact h3
  · split
    · rename_i hb; simp only [hb, if_true] at h6; exact n.1.subset h6
    · rename_i hb; rw [n.2.1]; simpa [hb] using h6

/-- A notice over a command that waits on. -/
theorem keptWaiting_notice (a t : State) : keptWaiting t (notice a t) :=
  ⟨reports_notice a t, (notice_out a t).2.2.1, (notice_out a t).2.2.2.1⟩

end Sys2Proof.Machine
end

