-- ==== Sys2Proof/Laws/Command.lean ====
section
/-!
SUPPORT. A host command from its checks to its completion: what an accepted command answers when its work is done or goes
on, what a refused one answers, and what bytes written to a host buffer leave.
-/

namespace Sys2Proof.Machine

open Sys2Proof Sys2Proof.Safety

/-! ### Calm states -/

/-- With the same wafer and no new command in progress, a calm state stays calm. -/
theorem calm_of_progs {a b : State} (h : calm a = true) (hw : b.wafer = a.wafer) (hp : ∀ p ∈ b.host.progs, p ∈ a.host.progs) :
    calm b = true := by
  simp only [calm, Bool.and_eq_true, Bool.not_eq_true', List.any_eq_false] at h ⊢
  exact ⟨by rw [hw]; exact h.1, fun p m => h.2 p (hp p m)⟩

/-- A completion leaves a calm state calm. -/
theorem calm_completed {t u : State} {p : Prog} {r : Result} {d0 d1 d2 : W64} (h : calm t = true)
    (hc : completed t u p r d0 d1 d2) : calm u = true :=
  calm_of_progs h hc.1.1 (fun q m => by rw [hc.2.2.2.1] at m; exact List.mem_of_mem_erase m)

/-! ### The record of a command -/

theorem progOf_spec {s : State} {h : CmdHdr} {op : Nat} {p : Prog} (hp : progOf s h op = some p) :
    p ∈ s.host.progs ∧ p.ring = h.ring.val ∧ p.cmdId = h.cmdId ∧ p.opcode = op ∧ p.state = .taken := by
  unfold progOf at hp
  have h1 := List.mem_of_find?_eq_some hp
  have h2 := List.find?_some hp
  simp at h2
  exact ⟨h1, h2⟩

theorem accepted_mem {s : State} {h : CmdHdr} {op : Nat} {p : Prog} (a : accepted s h op p) : p ∈ s.host.progs :=
  (progOf_spec a.1).1

/-- An accepted command's reserved bytes are zero. -/
theorem accepted_rsvd {s : State} {h : CmdHdr} {op : Nat} {p : Prog} (a : accepted s h op p) : h.rsvd = false := by
  have := a.2
  unfold refusedFor at this
  split at this
  · cases this
  · split at this
    · cases this
    · split at this
      · cases this
      · split at this
        · cases this
        · simp_all

/-! ### What a command answers -/

/-- A command that nobody has taken changes nothing. -/
theorem hostCmd_none {s : State} {h : CmdHdr} {op : Nat} (hp : progOf s h op = none) (ok : Bool) (f : State → Prog → Work) :
    hostCmd s h op ok f = s := by simp [hostCmd, hp]

/-- A command that a check refuses completes with that check's result and does no work. -/
theorem hostCmd_refused {s : State} {h : CmdHdr} {op : Nat} {p : Prog} {ok : Bool} {r : Result} (hp : progOf s h op = some p)
    (hr : refusedFor s h op ok = some r) (f : State → Prog → Work) : hostCmd s h op ok f = complete s p r.code := by
  simp [hostCmd, hp, hr]

/-- An accepted command whose work is done completes with its result. -/
theorem hostCmd_done {s t : State} {h : CmdHdr} {op : Nat} {p : Prog} {ok : Bool} {f : State → Prog → Work} {r : Result}
    {d0 d1 d2 : W64} (a : accepted s h op p) (ho : ok = true) (hf : f s p = .done t r d0 d1 d2) :
    hostCmd s h op ok f = complete t p r.code d0 d1 d2 := by
  subst ho; simp [hostCmd, a.1, a.2, hf]

/-- An accepted command whose work goes on stays in progress. -/
theorem hostCmd_wait {s t : State} {h : CmdHdr} {op : Nat} {p : Prog} {ok : Bool} {f : State → Prog → Work}
    (a : accepted s h op p) (ho : ok = true) (hf : f s p = .wait t) : hostCmd s h op ok f = t := by
  subst ho; simp [hostCmd, a.1, a.2, hf]

/-- The row of a command whose work is done in a calm state: the next state is the work's, with the command completed. -/
theorem serve_done {s t : State} {h : CmdHdr} {op : Nat} {p : Prog} {ok : Bool} {f : State → Prog → Work} {r : Result}
    {d0 d1 d2 : W64} (a : accepted s h op p) (ho : ok = true) (hf : f s p = .done t r d0 d1 d2) (hc : calm t = true)
    (hm : p ∈ t.host.progs) :
    ∃ u, serve s (fun s => hostCmd s h op ok f) = .next u ∧ completed t u p r d0 d1 d2 := by
  have c := complete_completed t p r d0 d1 d2 hm
  refine ⟨_, rfl, completed_notice s ?_⟩
  show completed t (settle (hostCmd s h op ok f)) p r d0 d1 d2
  rw [hostCmd_done a ho hf, settle_calm (calm_completed hc c)]
  exact c

/-- The row of a command whose work goes on in a calm state. -/
theorem serve_wait {s t : State} {h : CmdHdr} {op : Nat} {p : Prog} {ok : Bool} {f : State → Prog → Work}
    (a : accepted s h op p) (ho : ok = true) (hf : f s p = .wait t) (hc : calm t = true) :
    ∃ u, serve s (fun s => hostCmd s h op ok f) = .next u ∧ keptWaiting t u := by
  refine ⟨_, rfl, ?_⟩
  show keptWaiting t (notice s (settle (hostCmd s h op ok f)))
  rw [hostCmd_wait a ho hf, settle_calm hc]
  exact keptWaiting_notice s t

/-- The row of a command that a check refuses. -/
theorem serve_refused {s : State} {h : CmdHdr} {op : Nat} {p : Prog} {ok : Bool} {r : Result} (hp : progOf s h op = some p)
    (hr : refusedFor s h op ok = some r) (hc : calm s = true) (f : State → Prog → Work) :
    ∃ u, serve s (fun s => hostCmd s h op ok f) = .next u ∧ completed s u p r 0 0 0 := by
  have c := complete_completed s p r 0 0 0 (progOf_spec hp).1
  refine ⟨_, rfl, completed_notice s ?_⟩
  show completed s (settle (hostCmd s h op ok f)) p r 0 0 0
  rw [hostCmd_refused hp hr, settle_calm (calm_completed hc c)]
  exact c

/-! ### Host buffers -/

theorem hostWrite_kept (s : State) (a : Nat) (bs : List Byte) :
    (hostWrite s a bs).host.progs = s.host.progs ∧ (hostWrite s a bs).host.events = s.host.events := by
  unfold hostWrite; split <;> simp

/-- Bytes written to a buffer leave the module or wait, and change nothing else of it. -/
theorem reports_writeSegs : ∀ (l : List HostSeg) (s : State) (bs : List Byte), reports s (writeSegs s l bs) := by
  intro l
  induction l with
  | nil => intro s bs; cases bs <;> exact reports_refl s
  | cons g l ih =>
    intro s bs
    cases bs with
    | nil => exact reports_refl s
    | cons b bs =>
      simp only [writeSegs]; split
      · exact ih s _
      · exact reports_trans (reports_hostWrite s _ _) (ih _ _)

theorem writeSegs_kept : ∀ (l : List HostSeg) (s : State) (bs : List Byte),
    (writeSegs s l bs).host.progs = s.host.progs ∧ (writeSegs s l bs).host.events = s.host.events := by
  intro l
  induction l with
  | nil => intro s bs; cases bs <;> exact ⟨rfl, rfl⟩
  | cons g l ih =>
    intro s bs
    cases bs with
    | nil => exact ⟨rfl, rfl⟩
    | cons b bs =>
      simp only [writeSegs]; split
      · exact ih s _
      · have h := ih (hostWrite s g.addr ((b :: bs).take g.len)) ((b :: bs).drop g.len)
        have k := hostWrite_kept s g.addr ((b :: bs).take g.len)
        exact ⟨h.1.trans k.1, h.2.trans k.2⟩

/-- Bytes written to a buffer leave a calm state calm. -/
theorem calm_writeSegs {s : State} (h : calm s = true) (l : List HostSeg) (bs : List Byte) : calm (writeSegs s l bs) = true :=
  calm_of_progs h (reports_wafer (reports_writeSegs l s bs)) (fun p m => by rw [(writeSegs_kept l s bs).1] at m; exact m)

/-- A command that answers into a buffer the module can reach. -/
theorem answer_good {s : State} {b : HostBuf} (h : bufBad b = none) (bs : List Byte) (d0 d1 d2 : W64) :
    answer s b bs d0 d1 d2 = .done (writeSegs s b.segs bs) .ok d0 d1 d2 := by simp [answer, h]

end Sys2Proof.Machine
end

