-- ==== Sys2Proof/Laws/Core.lean ====
section
/-!
SUPPORT. What one instruction of a core does to its tile: the issue of a word, retirement, and the destinations.
-/

namespace Sys2Proof.Machine

open Sys2Proof Sys2Proof.Safety

/-- A core that issues a word runs it. -/
theorem coreStep_issues {w : Wafer} {k cls v : Nat} (h : coreIssues w k cls v) (f : Nat → Wafer → Wafer) :
    coreStep w k cls f = f v w := by
  obtain ⟨hb, hu, hp, hw, hpc, hs, hf, hi, hc⟩ := h
  have hpc' : ¬ 4095 < (tileAt w k).vc.pc := by omega
  simp [coreStep, hb, hu, hp, hw, hpc', tileInject_off hs.1, hf, hs.2.2.2.2.2.2, hi, hc]

theorem retire_eq (w : Wafer) (k : Nat) : retire w k = setTile w k (retired (tileAt w k)) := by
  simp [retire, tileBump_eq, onVc_eq, retired]

theorem raiseFlags_eq (w : Wafer) (k : Nat) (f : FpFlags) : raiseFlags w k f = setTile w k (flagged (tileAt w k) f) := by
  simp [raiseFlags, onVc_eq, flagged]

theorem noteNonfinite_eq (w : Wafer) (k : Nat) (m : W64) (l : List W32) :
    noteNonfinite (setTile w k (tileAt w k)) k m l = setTile w k (nonfiniteNoted (tileAt w k) m l) := by
  simp only [noteNonfinite, nonfiniteNoted, noted]; split <;> simp [tileBump_eq]

theorem noteNonfinite_set (w : Wafer) (k : Nat) (x : Tile) (m : W64) (l : List W32) :
    noteNonfinite (setTile w k x) k m l = setTile w k (nonfiniteNoted x m l) := by
  simp only [noteNonfinite, nonfiniteNoted, noted]; split <;> simp [tileBump_eq]

theorem noteIf_set (w : Wafer) (k : Nat) (x : Tile) (b : Bool) : noteIf (setTile w k x) k b = setTile w k (noted x b) := by
  cases b <;> simp [noteIf, noted, tileBump_eq]

theorem notePairs_set (w : Wafer) (k : Nat) (x : Tile) (m : W64) (l : List W64) :
    notePairs (setTile w k x) k m l = setTile w k (pairsNoted x m l) := by simp only [notePairs, pairsNoted, noteIf_set]

/-- The waits of an instruction's accesses change three counters of its tile. -/
theorem tileAt_coreWaits {w : Wafer} {k cls v : Nat} (h : coreIssues w k cls v) (c : CoreWaits) :
    tileAt (coreWaits w k cls c) k = waited (tileAt w k) c := by
  obtain ⟨hb, hu, hp, hw, hpc, hs, hf, hi, hc⟩ := h
  have hr : coreReady w k cls = true := by simp [coreReady, hb, hu, hp, hw, hpc, hf, hc]
  have e : ∀ (w : Wafer) (off n : Nat), tileAt (tileBump w k off n) k = counted (tileAt w k) off n := by
    intro w off n; simp only [tileBump, counted]; split <;> simp
  simp only [coreWaits, hr, if_true, e, waited]

@[simp] theorem waited_vc (x : Tile) (c : CoreWaits) : (waited x c).vc = x.vc := by
  simp only [waited, counted]; split <;> split <;> split <;> rfl

theorem tileSound_waited {x : Tile} (h : tileSound x) (c : CoreWaits) : tileSound (waited x c) := by
  simp only [waited, counted]; split <;> split <;> split <;> exact h

/-- They leave the core ready to issue the same word. -/
theorem coreIssues_coreWaits {w : Wafer} {k cls v : Nat} (h : coreIssues w k cls v) (c : CoreWaits) :
    coreIssues (coreWaits w k cls c) k cls v := by
  have ht := tileAt_coreWaits h c
  have hb : ∀ w : Wafer, blocked (coreWaits w k cls c) = blocked w ∧ usable (coreWaits w k cls c) k = usable w k := by
    intro w; unfold coreWaits; split
    · simp only [tileBump]; split <;> split <;> split <;> exact ⟨rfl, rfl⟩
    · exact ⟨rfl, rfl⟩
  obtain ⟨h1, h2, h3, h4, h5, h6, h7, h8, h9⟩ := h
  have hf : fetch (coreWaits w k cls c) k = fetch w k := by simp only [fetch, ht, waited_vc]
  refine ⟨(hb w).1.trans h1, (hb w).2.trans h2, ?_, ?_, ?_, ?_, hf.trans h7, h8, h9⟩ <;> rw [ht]
  · simpa using h3
  · simpa using h4
  · simpa using h5
  · exact tileSound_waited h6 c

/-- A tile written after those waits is written over them. -/
theorem setTile_coreWaits (w : Wafer) (k cls : Nat) (c : CoreWaits) (x : Tile) :
    setTile (coreWaits w k cls c) k x = setTile w k x := by
  have e : ∀ (w : Wafer) (off n : Nat), setTile (tileBump w k off n) k x = setTile w k x := by
    intro w off n; simp only [tileBump]; split <;> simp
  unfold coreWaits; split
  · simp only [e]
  · rfl

theorem writeScalar_eq {w : Wafer} {k : Nat} {d : Dest} (v : W64) (h : (∃ n, d = .s n) ∨ d = .lm) :
    writeScalar w k d v = setTile w k (scalarInto (tileAt w k) d v) := by
  rcases h with ⟨n, rfl⟩ | rfl <;> simp [writeScalar, onVc_eq, scalarInto]

@[simp] theorem partialTag_fi (x : Tile) (g : Nat) : (partialTag x g).fi = x.fi := rfl
@[simp] theorem partialTag_vc (x : Tile) (g : Nat) : (partialTag x g).vc = x.vc := rfl
@[simp] theorem partialTag_sp (x : Tile) (g : Nat) : (partialTag x g).sp = x.sp := rfl
@[simp] theorem partialTag_spCor (x : Tile) (g : Nat) : (partialTag x g).spCor = x.spCor := rfl
@[simp] theorem partialTag_ctrs (x : Tile) (g : Nat) : (partialTag x g).ctrs = x.ctrs := rfl

/-- Partial writes of tags change nothing but the tags. -/
theorem foldl_partialTag (l : List Nat) (x : Tile) : ∃ tags, l.foldl partialTag x = { x with tags := tags } := by
  induction l generalizing x with
  | nil => exact ⟨x.tags, rfl⟩
  | cons g l ih => obtain ⟨t, ht⟩ := ih (partialTag x g); exact ⟨t, by simp only [List.foldl_cons, ht]; rfl⟩

/-- A partial write changes the scratchpad's bytes and the tags, nothing else of the tile. -/
theorem spWrite_eq (x : Tile) (off : Nat) (bs : List Byte) :
    ∃ tags, spWrite x off bs = { x with sp := x.sp.writeN off bs, tags := tags } := by
  obtain ⟨t, ht⟩ := foldl_partialTag (granules off bs.length) { x with sp := x.sp.writeN off bs }
  exact ⟨t, ht⟩

@[simp] theorem spWrite_sp (x : Tile) (off : Nat) (bs : List Byte) : (spWrite x off bs).sp = x.sp.writeN off bs := by
  obtain ⟨t, ht⟩ := spWrite_eq x off bs; simp [ht]
@[simp] theorem spWrite_fi (x : Tile) (off : Nat) (bs : List Byte) : (spWrite x off bs).fi = x.fi := by
  obtain ⟨t, ht⟩ := spWrite_eq x off bs; simp [ht]
@[simp] theorem spWrite_spCor (x : Tile) (off : Nat) (bs : List Byte) : (spWrite x off bs).spCor = x.spCor := by
  obtain ⟨t, ht⟩ := spWrite_eq x off bs; simp [ht]
@[simp] theorem spWrite_vc (x : Tile) (off : Nat) (bs : List Byte) : (spWrite x off bs).vc = x.vc := by
  obtain ⟨t, ht⟩ := spWrite_eq x off bs; simp [ht]
@[simp] theorem spWrite_ctrs (x : Tile) (off : Nat) (bs : List Byte) : (spWrite x off bs).ctrs = x.ctrs := by
  obtain ⟨t, ht⟩ := spWrite_eq x off bs; simp [ht]

/-- A store to a sound tile is a partial write. -/
theorem spStore_sound {w : Wafer} {k : Nat} (h : tileSound (tileAt w k)) (off : Nat) (bs : List Byte) :
    spStore w k off bs = setTile w k (spWrite (tileAt w k) off bs) := by
  obtain ⟨hf, hu, hc, _⟩ := h
  have e : ({ spWrite (tileAt w k) off bs with spCor := cleared (tileAt w k).spCor 8 off bs.length } : Tile)
      = spWrite (tileAt w k) off bs := by
    obtain ⟨t, ht⟩ := spWrite_eq (tileAt w k) off bs
    simp [ht, hc, cleared]
  have hf' : (tileAt (setTile w k (spWrite (tileAt w k) off bs)) k).fi.armed = false := by simp [hf]
  simp only [spStore, hu, if_true, e, injectSp, tileInject_off hf']

/-- 64 lanes written to a sound tile. -/
theorem writeLanes_sound {w : Wafer} {k : Nat} (h : tileSound (tileAt w k)) {d : Dest}
    (hd : (∃ r, d = .v r) ∨ ∃ l, d = .line l) (m : W64) (l : List W32) :
    writeLanes w k d m l = setTile w k (lanesInto (tileAt w k) d m l) := by
  rcases hd with ⟨r, rfl⟩ | ⟨l, rfl⟩
  · simp [writeLanes, onVc_eq, lanesInto]
  · simp only [writeLanes, spStore_sound h, lanesInto, destBytes]

/-- A lane destination is a vector register or a window line. -/
theorem laneDest_cases {w w' : Wafer} {k v : Nat} {d : Dest} (h : laneDest w k v = (some d, w')) :
    w' = w ∧ ((∃ r, d = .v r) ∨ ∃ l, d = .line l) := by
  unfold laneDest at h
  split at h
  · cases h; exact ⟨rfl, .inl ⟨_, rfl⟩⟩
  · split at h <;> cases h; exact ⟨rfl, .inr ⟨_, rfl⟩⟩
  · cases h

/-- A scalar destination is s*n* or lm. -/
theorem scalarDest_cases {w w' : Wafer} {k v : Nat} {d : Dest} (h : scalarDest w k v = (some d, w')) :
    w' = w ∧ ((∃ n, d = .s n) ∨ d = .lm) := by
  unfold scalarDest at h
  split at h <;> cases h
  · exact ⟨rfl, .inl ⟨_, rfl⟩⟩
  · exact ⟨rfl, .inr rfl⟩

/-- An FP32 lane instruction's results on a sound tile. -/
theorem finishFp_sound {w : Wafer} {k : Nat} (h : tileSound (tileAt w k)) {d : Dest}
    (hd : (∃ r, d = .v r) ∨ ∃ l, d = .line l) (m : W64) (rs : List (W32 × FpFlags)) :
    opFp32.finishFp w k d m rs = setTile w k (fpDone (tileAt w k) d m rs) := by
  simp only [opFp32.finishFp, writeLanes_sound h hd, raiseFlags_eq, tileAt_setTile_same, setTile_setTile,
    noteNonfinite_set, retire_eq, fpDone]

/-- A read of the scratchpad of a sound tile. -/
theorem spLoad_sound {w : Wafer} {k : Nat} (h : tileSound (tileAt w k)) (off n : Nat) :
    spLoad w k off n = (some ((tileAt w k).sp.readN off n), w) := by
  have h0 : ∀ l : List Nat, l.filter (fun _ => false) = [] := by intro l; simp
  have h1 : ∀ l : List Nat, l.find? (fun _ => false) = none := by intro l; simp
  simp [spLoad, h.2.1, h.2.2.1, h0, h1]

/-- No flag raised leaves the tile alone. -/
@[simp] theorem flagged_none (x : Tile) : flagged x FpFlags.none = x := by
  have : FpFlags.none.word = 0 := rfl
  simp [flagged, this]

/-- Comparison results reach lm. -/
theorem writeLm_eq (w : Wafer) (k : Nat) (m : W64) (rs : List Bool) :
    writeLm w k m rs = setTile w k (lmInto (tileAt w k) m rs) := by simp [writeLm, onVc_eq, lmInto]

/-- A lane operation over the paired lanes, numbered or not. -/
theorem map_zipIdx_zip {β : Type} (f : W32 → W32 → β) : ∀ (a b : List W32) (n : Nat),
    ((List.zip a b).zipIdx n).map (fun p => f p.1.1 p.1.2) = List.zipWith f a b
  | [], _, _ => by simp
  | _ :: _, [], _ => by simp
  | x :: a, y :: b, n => by simp [map_zipIdx_zip f a b (n + 1)]

theorem destBytes_eq (w : Wafer) (k : Nat) (d : Dest) : destBytes w k d = lanesBytes (tileAt w k) d := by cases d <;> rfl

/-- 256 bytes written to a sound tile. -/
theorem putBytes_sound {w : Wafer} {k : Nat} (h : tileSound (tileAt w k)) {d : Dest}
    (hd : (∃ r, d = .v r) ∨ ∃ l, d = .line l) (bs : List Byte) :
    putBytes w k d bs = setTile w k (bytesInto (tileAt w k) d bs) := by
  rcases hd with ⟨r, rfl⟩ | ⟨l, rfl⟩
  · simp [putBytes, onVc_eq, bytesInto]
  · simp only [putBytes, spStore_sound h, bytesInto]

/-- A conversion's packed result on a sound tile. -/
theorem putPacked_sound {w : Wafer} {k v : Nat} (h : tileSound (tileAt w k)) {d : Dest}
    (hd : laneDest w k v = (some d, w)) (hf : 32 * cvPart v + 64 * elemBits (cvFmt v) / 8 ≤ 256)
    (rs : List (Nat × FpFlags)) (after : Wafer → Wafer) :
    putPacked w k v rs after = retire (after (setTile w k (packedInto (tileAt w k) v d rs))) k := by
  obtain ⟨-, hd'⟩ := laneDest_cases hd
  have : ¬ (32 * cvPart v + 64 * elemBits (cvFmt v) / 8 > 256) := by omega
  simp only [putPacked, if_neg this, withO, hd, putBytes_sound h hd', raiseFlags_eq, tileAt_setTile_same, setTile_setTile,
    noteIf_set, packedInto, destBytes_eq]

end Sys2Proof.Machine
end

