-- ==== Sys2Proof/Laws/Sync.lean ====
section
/-!
SUPPORT. What a fired watch, a sent packet and the counters on its way leave alone: every tile but its counters and its due
WAKE.
-/

namespace Sys2Proof.Machine

open Sys2Proof Sys2Proof.Safety

@[simp] theorem stripped_ctrs (x : Tile) (c : SMap Ctr) : stripped { x with ctrs := c } = stripped x := rfl

/-- Tiles agree but for counters and due WAKEs. -/
def SameTiles (w w' : Wafer) : Prop := ∀ t, stripped (tileAt w' t) = stripped (tileAt w t)

theorem SameTiles.refl (w : Wafer) : SameTiles w w := fun _ => rfl
theorem SameTiles.trans {a b c : Wafer} (h : SameTiles a b) (h' : SameTiles b c) : SameTiles a c :=
  fun t => (h' t).trans (h t)

theorem sameTiles_setTile (w : Wafer) (t : Nat) (x : Tile) (h : stripped x = stripped (tileAt w t)) :
    SameTiles w (setTile w t x) := by
  intro u
  by_cases hu : t = u
  · subst hu; simpa using h
  · simp [hu]

theorem sameTiles_bump (w : Wafer) (t off n : Nat) : SameTiles w (tileBump w t off n) := by
  by_cases h : n = 0
  · simp [tileBump, h]; exact SameTiles.refl w
  · rw [tileBump_eq _ _ _ _ h]; exact sameTiles_setTile _ _ _ rfl

theorem sameTiles_fieldBump (w : Wafer) (f off n : Nat) : SameTiles w (fieldBump w f off n) := by
  unfold fieldBump; split <;> exact fun _ => rfl

theorem sameTiles_foldl {α : Type} (l : List α) (f : Wafer → α → Wafer) (h : ∀ w a, SameTiles w (f w a)) (w : Wafer) :
    SameTiles w (l.foldl f w) := by
  induction l generalizing w with
  | nil => exact SameTiles.refl w
  | cons a l ih => exact (h w a).trans (ih _)

theorem sameTiles_countSource (w : Wafer) (p : Packet) : SameTiles w (countSource w p) := by
  unfold countSource; repeat' split
  all_goals first | exact sameTiles_bump _ _ _ _ | exact SameTiles.refl w

theorem sameTiles_countSend (w : Wafer) (p : Packet) : SameTiles w (countSend w p) := by
  unfold countSend; split
  · exact sameTiles_countSource w p
  · exact (sameTiles_countSource w p).trans (sameTiles_foldl _ _ (fun w a => sameTiles_fieldBump w a _ _) _)

/-- A packet sent changes no tile but its counters. -/
theorem sameTiles_send (w : Wafer) (p : Packet) : SameTiles w (send w p) := sameTiles_countSend w p

theorem bump_net (w : Wafer) (t off n : Nat) : (tileBump w t off n).net = w.net := by unfold tileBump; split <;> rfl
theorem fieldBump_net (w : Wafer) (t off n : Nat) : (fieldBump w t off n).net = w.net := by unfold fieldBump; split <;> rfl
theorem bump_posted (w : Wafer) (t off n : Nat) : (tileBump w t off n).posted = w.posted := by unfold tileBump; split <;> rfl
theorem fieldBump_posted (w : Wafer) (t off n : Nat) : (fieldBump w t off n).posted = w.posted := by
  unfold fieldBump; split <;> rfl

theorem foldl_keeps {α β γ : Type} (p : β → γ) (l : List α) (f : β → α → β) (h : ∀ b a, p (f b a) = p b) (b : β) :
    p (l.foldl f b) = p b := by
  induction l generalizing b with
  | nil => rfl
  | cons a l ih => simp only [List.foldl_cons, ih, h]

theorem countSource_net (w : Wafer) (p : Packet) : (countSource w p).net = w.net := by
  unfold countSource; repeat' split
  all_goals first | rfl | exact bump_net _ _ _ _

theorem countSource_posted (w : Wafer) (p : Packet) : (countSource w p).posted = w.posted := by
  unfold countSource; repeat' split
  all_goals first | rfl | exact bump_posted _ _ _ _

theorem countSend_net (w : Wafer) (p : Packet) : (countSend w p).net = w.net := by
  unfold countSend; split
  · exact countSource_net w p
  · exact (foldl_keeps Wafer.net _ _ (fun w a => fieldBump_net w a _ _) _).trans (countSource_net w p)

theorem countSend_posted (w : Wafer) (p : Packet) : (countSend w p).posted = w.posted := by
  unfold countSend; split
  · exact countSource_posted w p
  · exact (foldl_keeps Wafer.posted _ _ (fun w a => fieldBump_posted w a _ _) _).trans (countSource_posted w p)

/-- A packet sent is the last in flight, and no other packet moves. -/
theorem sendPkt_inflight (w : Wafer) (a b : Endpoint) (vc : Nat) (k : PktKind) (o : Owner) (d tag : Nat) :
    (sendPkt w a b vc k o d tag).net.inflight = w.net.inflight ++ [⟨a, b, vc, k, tag, o, d, 0, none⟩] := by
  simp [sendPkt, send, onNet, countSend_net]

theorem sendPkt_posted (w : Wafer) (a b : Endpoint) (vc : Nat) (k : PktKind) (o : Owner) (d tag : Nat) :
    (sendPkt w a b vc k o d tag).posted = w.posted := by simp [sendPkt, send, countSend_posted]

theorem sameTiles_deliver (w : Wafer) (f i : Nat) (d : WatchDest) : SameTiles w (deliver w f i d) := by
  unfold deliver
  split
  · split
    · exact sameTiles_setTile _ _ _ rfl
    · exact sameTiles_send _ _
  · exact sameTiles_send _ _
  · exact sameTiles_send _ _
  · exact fun _ => rfl

theorem sameTiles_evalSlot (w : Wafer) (f i : Nat) : SameTiles w (evalSlot w f i) := by
  unfold evalSlot
  split
  · exact SameTiles.refl w
  · split
    · exact sameTiles_deliver _ _ _ _
    · exact SameTiles.refl w

/-- The watches that a change fires leave every tile alone but for counters and due WAKEs. -/
theorem sameTiles_evalWatches (w : Wafer) (f : Nat) (o : WatchObj) : SameTiles w (evalWatches w f o) :=
  sameTiles_foldl _ _ (fun w i => sameTiles_evalSlot w f i) _

theorem deliver_posted (w : Wafer) (f i : Nat) (d : WatchDest) : (deliver w f i d).posted = w.posted := by
  unfold deliver; repeat' split
  all_goals first | rfl | exact sendPkt_posted _ _ _ _ _ _ _ _

theorem evalSlot_posted (w : Wafer) (f i : Nat) : (evalSlot w f i).posted = w.posted := by
  unfold evalSlot; repeat' split
  all_goals first | rfl | (rw [deliver_posted]; rfl)

theorem evalWatches_posted (w : Wafer) (f : Nat) (o : WatchObj) : (evalWatches w f o).posted = w.posted :=
  foldl_keeps Wafer.posted _ _ (fun w i => evalSlot_posted w f i) w

end Sys2Proof.Machine
end

