-- ==== Sys2Proof/Laws/Meter.lean ====
section
/-!
SUPPORT. The operations of the module that leave the meter alone (R635, R642): every one but those of the meter's own rows.
-/

namespace Sys2Proof.Machine

open Sys2Proof Sys2Proof.Safety

theorem foldl_meter {α : Type} (l : List α) (f : State → α → State) (h : ∀ s a, (f s a).meter = s.meter) (s : State) :
    (l.foldl f s).meter = s.meter := by
  induction l generalizing s with
  | nil => rfl
  | cons a l ih => exact (ih _).trans (h s a)

/-- The meter of the state that a command's work leaves. -/
def Work.meter : Work → Meter
  | .done s _ _ _ _ => s.meter
  | .wait s => s.meter

@[simp] theorem Work.meter_done (s : State) (r : Result) (a b c : W64) : (Work.done s r a b c).meter = s.meter := rfl
@[simp] theorem Work.meter_wait (s : State) : (Work.wait s).meter = s.meter := rfl
@[simp] theorem Work.meter_say (s : State) (r : Result) : (Work.say s r).meter = s.meter := rfl
@[simp] theorem Work.meter_good (s : State) : (Work.good s).meter = s.meter := rfl

@[simp] theorem writeSegs_meter (s : State) (l : List HostSeg) (bs : List Byte) : (writeSegs s l bs).meter = s.meter :=
  reports_meter (reports_writeSegs l s bs)

theorem keeps_iteWork {c : Prop} [Decidable c] {a b : Work} {m : Meter} (ha : a.meter = m) (hb : b.meter = m) :
    (if c then a else b).meter = m := by split <;> assumption

theorem ite_workMeter (c : Prop) [Decidable c] (a b : Work) : (if c then a else b).meter = if c then a.meter else b.meter := by
  split <;> rfl

theorem keeps_ite {c : Prop} [Decidable c] {a b : State} {m : Meter} (ha : a.meter = m) (hb : b.meter = m) :
    (if c then a else b).meter = m := by split <;> assumption

theorem ite_meter (c : Prop) [Decidable c] (a b : State) : (if c then a else b).meter = if c then a.meter else b.meter := by
  split <;> rfl

/-! ### Module -/

@[simp] theorem portBump_meter (s : State) (f : Nat) (off : Nat) (n : Nat) : (portBump s f off n).meter = s.meter := by
  simp [portBump, ite_meter]
@[simp] theorem raiseMsix_meter (s : State) (v : Nat) : (raiseMsix s v).meter = s.meter := by simp [raiseMsix, ite_meter]
@[simp] theorem setMb_meter (s : State) (b : BitVec 6) : (setMb s b).meter = s.meter := by simp [setMb, ite_meter]
@[simp] theorem notice_meter (old : State) (new : State) : (notice old new).meter = new.meter := by simp [notice, ite_meter]
@[simp] theorem hostWrite_meter (s : State) (a : Nat) (bs : List Byte) : (hostWrite s a bs).meter = s.meter := by
  simp [hostWrite, ite_meter]
@[simp] theorem signalRing_meter (s : State) (i : Nat) : (signalRing s i).meter = s.meter := by simp [signalRing]
@[simp] theorem writeEntry_meter (s : State) (i : Nat) (cmdId : BitVec 16) (result : Nat) (prog : Bool) (stage : Nat) (d0 : W64) (d1 : W64) (d2 : W64) : (writeEntry s i cmdId result prog stage d0 d1 d2).meter = s.meter := by
  simp [writeEntry, ite_meter]
@[simp] theorem complete_meter (s : State) (p : Prog) (result : Nat) (d0 : W64) (d1 : W64) (d2 : W64) : (complete s p result d0 d1 d2).meter = s.meter := by
  simp [complete, ite_meter]
@[simp] theorem completeAll_meter (s : State) (f : Prog → Bool) (result : Nat) (d0 : W64) (d1 : W64) (d2 : W64) : (completeAll s f result d0 d1 d2).meter = s.meter := by
  simp [completeAll, foldl_meter]
@[simp] theorem queueEvent_meter (s : State) (e : Event) : (queueEvent s e).meter = s.meter := by
  unfold queueEvent; (repeat' split) <;> simp
@[simp] theorem postEvent_meter (s : State) (code : Nat) (detail : Option W32) : (postEvent s code detail).meter = s.meter := by
  simp [postEvent]
@[simp] theorem postRecord_meter (s : State) (n : FaultNote) : (postRecord s n).meter = s.meter := by simp [postRecord]
@[simp] theorem sendOnPort_meter (s : State) (f : Nat) (m : LinkMsg) : (sendOnPort s f m).meter = s.meter := rfl
@[simp] theorem linkSend_meter (s : State) (b : Nat) (m : LinkMsg) : (linkSend s b m).meter = s.meter := by
  unfold linkSend; dsimp only
  refine keeps_ite rfl ?_
  split
  · exact keeps_ite (foldl_meter _ _ (fun s f => by simp) s) rfl
  · split
    · exact keeps_ite (by simp) rfl
    · rfl
@[simp] theorem flushLinks_meter (s : State) : (flushLinks s).meter = s.meter := by simp [flushLinks, foldl_meter]
@[simp] theorem toNeighbours_meter (s : State) (m : LinkMsg) : (toNeighbours s m).meter = s.meter := by
  simp [toNeighbours, foldl_meter]
@[simp] theorem toUpNeighbours_meter (s : State) (m : LinkMsg) : (toUpNeighbours s m).meter = s.meter := by
  simp [toUpNeighbours, foldl_meter]
@[simp] theorem endRun_meter (s : State) (result : Nat) (cause : Nat) (mask : W64) : (endRun s result cause mask).meter = s.meter := by
  simp [endRun]
@[simp] theorem stopNow_meter (s : State) : (stopNow s).meter = s.meter := by simp [stopNow, ite_meter]
@[simp] theorem stopJob_meter (s : State) : (stopJob s).meter = s.meter := by simp [stopJob, ite_meter]
@[simp] theorem noteHistory_meter (s : State) (n : FaultNote) : (noteHistory s n).meter = s.meter := by
  simp [noteHistory, ite_meter]
@[simp] theorem noteRow_meter (s : State) (n : FaultNote) : (noteRow s n).meter = s.meter := by simp [noteRow, ite_meter]
@[simp] theorem detect_meter (s : State) (n : FaultNote) : (detect s n).meter = s.meter := by simp [detect, ite_meter]
@[simp] theorem detectAt_meter (s : State) (det : Nat) (sev : Nat) (loc : Nat) (addr : Nat) (inj : Bool) : (detectAt s det sev loc addr inj).meter = s.meter := by
  simp [detectAt]
@[simp] theorem fireWatches_meter (s : State) : (fireWatches s).meter = s.meter := by
  unfold fireWatches
  refine foldl_meter _ _ (fun s p => ?_) s
  split
  · split <;> simp
  · rfl
@[simp] theorem settle_meter (s : State) : (settle s).meter = s.meter := by simp [settle, foldl_meter, ite_meter]
/-! ### Demitasse -/

@[simp] theorem answerPort_meter (s : State) (cmd : Nat) (status : Nat) (payload : List Byte) : (answerPort s cmd status payload).meter = s.meter :=
    rfl
@[simp] theorem answerEvents_meter (s : State) (nonce : List Byte) (first : Nat) (count : Nat) : (answerEvents s nonce first count).meter = s.meter := by
  simp [answerEvents, ite_meter]
@[simp] theorem queueMark_meter (s : State) (kind : Nat) (job : BitVec 16) : (queueMark s kind job).meter = s.meter := by
  simp [queueMark, ite_meter]
@[simp] theorem sendMark_meter (s : State) : (sendMark s).meter = s.meter := by
  unfold sendMark; (repeat' split) <;> simp [ite_meter]
@[simp] theorem extendMr_meter (s : State) (i : Nat) (v : List Byte) : (extendMr s i v).meter = s.meter := rfl
@[simp] theorem meterGone_meter (s : State) (inj : Bool) : (meterGone s inj).meter = s.meter := by simp [meterGone]
@[simp] theorem changePresence_meter (s : State) (loop : Bool) (idOk : Bool) (identity : List Byte) : (changePresence s loop idOk identity).meter = s.meter := by
  simp [changePresence, ite_meter]
/-! ### Rim -/

/-! ### Update -/

@[simp] theorem onStep_meter (s : State) (f : StepState → StepState) : (onStep s f).meter = s.meter := rfl
@[simp] theorem onTstep_meter (s : State) (t : Nat) (f : TensorStep → TensorStep) : (onTstep s t f).meter = s.meter := rfl
@[simp] theorem sourceError_meter (s : State) (k : Nat) : (sourceError s k).meter = s.meter := rfl
@[simp] theorem orthP_meter (s : State) (t : Nat) : (orthP s t).meter = s.meter := by
  unfold orthP; dsimp only; (repeat' split) <;> simp
@[simp] theorem localQ_meter (s : State) (d : Reduction) : (localQ s d).meter = s.meter := by
  unfold localQ; dsimp only; (repeat' split) <;> simp
@[simp] theorem areaDone_meter (s : State) (k : Nat) (a : Nat) : (areaDone s k a).meter = s.meter := by
  unfold areaDone; (repeat' split) <;> simp
@[simp] theorem globalQ_meter (s : State) (t : Nat) : (globalQ s t).meter = s.meter := by
  unfold globalQ; dsimp only; (repeat' split) <;> simp
@[simp] theorem sendNorm_meter (s : State) (t : Nat) : (sendNorm s t).meter = s.meter := by
  unfold sendNorm; (repeat' split) <;> simp
@[simp] theorem setVerdict_meter (s : State) (v : Verdict) (cause : Nat) (norm : W32) (named : List Nat) : (setVerdict s v cause norm named).meter = s.meter :=
    rfl
@[simp] theorem startPrefetch_meter (s : State) : (startPrefetch s).meter = s.meter := by
  unfold startPrefetch; exact onW_meter _ _
@[simp] theorem normVerdict_meter (s : State) : (normVerdict s).meter = s.meter := by
  unfold normVerdict; (repeat' split) <;> simp [foldl_meter, ite_meter]
@[simp] theorem undoFlips_meter (s : State) : (undoFlips s).meter = s.meter := by
  unfold undoFlips; (repeat' split) <;> simp
@[simp] theorem shardError_meter (s : State) (k : Nat) (t : Nat) (sh : Nat) : (shardError s k t sh).meter = s.meter := by
  simp [shardError, ite_meter]
@[simp] theorem nonfiniteResult_meter (s : State) (k : Nat) (inj : Bool) : (nonfiniteResult s k inj).meter = s.meter := by
  simp [nonfiniteResult]
@[simp] theorem flipShard_meter (s : State) (j : Job) (d : Reduction) (p : Placement) (sh n : Nat) : (flipShard s j d p sh n).meter = s.meter := by
  simp only [flipShard, onStep, onTrain]
@[simp] theorem commitShard_meter (s : State) (t : Nat) (sh : Nat) : (commitShard s t sh).meter = s.meter := by
  unfold commitShard; split
  · dsimp only
    refine keeps_ite rfl (keeps_ite (onW_meter _ _) ?_)
    split
    · exact keeps_ite (shardError_meter _ _ _ _) (keeps_ite ((nonfiniteResult_meter _ _ _).trans (onW_meter _ _))
        ((flipShard_meter _ _ _ _ _ _).trans (onW_meter _ _)))
    · exact sourceError_meter _ _
  · rfl
@[simp] theorem onSlow_meter (s : State) (t : Nat) (f : SlowTensor → SlowTensor) : (onSlow s t f).meter = s.meter := rfl
@[simp] theorem slowTransfer_meter (s : State) (t : Nat) : (slowTransfer s t).meter = s.meter := by
  unfold slowTransfer; (repeat' split) <;> simp
@[simp] theorem fillOne_meter (s : State) (d : Reduction) (p : Placement) (x : GalDue) : (fillOne s d p x).2.meter = s.meter := by
  unfold fillOne; dsimp only; split <;> rfl
@[simp] theorem fillDues_meter (s : State) : (fillDues s).meter = s.meter := by
  unfold fillDues
  refine (foldl_keeps (fun (p : List GalDue × State) => p.2.meter) _ _ (fun p x => ?_) _)
  split
  · split <;> simp
  · rfl
@[simp] theorem slowCommit_meter (s : State) (t : Nat) : (slowCommit s t).meter = s.meter := by
  unfold slowCommit; dsimp only; (repeat' split) <;> simp
@[simp] theorem slowPublish_meter (s : State) (t : Nat) : (slowPublish s t).meter = s.meter := by
  unfold slowPublish; dsimp only; (repeat' split) <;> simp
@[simp] theorem driftAudit_meter (s : State) (t : Nat) : (driftAudit s t).meter = s.meter := by
  unfold driftAudit; (repeat' split) <;> simp [ite_meter]
/-! ### Tile -/

/-! ### Network -/

/-! ### Regs -/

@[simp] theorem noteLevel_meter (s : State) : (noteLevel s).meter = s.meter := by simp [noteLevel, ite_meter]
@[simp] theorem fieldWrite_meter (src : CfgSrc) (s : State) (f : Nat) (off : Nat) (v : W64) : (fieldWrite src s f off v).2.meter = s.meter := by
  unfold fieldWrite; (repeat' split) <;> simp
@[simp] theorem rimWrite_meter (src : CfgSrc) (s : State) (k : Nat) (off : Nat) (v : W64) : (rimWrite src s k off v).2.meter = s.meter := by
  unfold rimWrite; dsimp only; (repeat' split) <;> simp
@[simp] theorem writeTarget_meter (src : CfgSrc) (s : State) (n : Nat) (off : Nat) (v : W64) : (writeTarget src s n off v).2.meter = s.meter := by
  unfold writeTarget; dsimp only; (repeat' split) <;> simp
@[simp] theorem readTarget_meter (s : State) (n : Nat) (off : Nat) : (readTarget s n off).2.2.meter = s.meter := by
  unfold readTarget; dsimp only; (repeat' split) <;> simp
@[simp] theorem writeTargets_meter (src : CfgSrc) (s : State) (ns : List Nat) (off : Nat) (v : W64) (e : CfgErr) : (writeTargets src s ns off v e).2.meter = s.meter := by
  unfold writeTargets
  exact foldl_keeps (fun (p : CfgErr × State) => p.2.meter) _ _ (fun p n => by simp) _
@[simp] theorem setCfgErr_meter (s : State) (src : CfgSrc) (e : CfgErr) : (setCfgErr s src e).meter = s.meter := rfl
@[simp] theorem queueAccess_meter (s : State) (a : CfgAccess) : (queueAccess s a).meter = s.meter := rfl
@[simp] theorem bridgeWrite_meter (s : State) (src : CfgSrc) (tgt : CfgTarget) (off : Nat) (v : W64) : (bridgeWrite s src tgt off v).2.meter = s.meter := by
  simp [bridgeWrite]
@[simp] theorem configWriteAll_meter (s : State) (src : CfgSrc) (tgt : CfgTarget) (off : Nat) (v : W64) : (configWriteAll s src tgt off v).meter = s.meter := by
  unfold configWriteAll; dsimp only; (repeat' split) <;> simp
/-! ### Rings -/

@[simp] theorem ringError_meter (s : State) (i : Nat) (code : Nat) : (ringError s i code).meter = s.meter := by
  simp [ringError, ite_meter]
@[simp] theorem writeCtl_meter (s : State) (i : Nat) (v : W64) : (writeCtl s i v).meter = s.meter := by
  simp [writeCtl, ite_meter]
@[simp] theorem ringTail_meter (s : State) (i : Nat) (v : W32) : (ringTail s i v).meter = s.meter := by
  simp [ringTail, ite_meter]
@[simp] theorem ringHead_meter (s : State) (i : Nat) (v : W32) : (ringHead s i v).meter = s.meter := by
  simp [ringHead, ite_meter]
@[simp] theorem ringStop_meter (s : State) (i : Nat) : (ringStop s i).meter = s.meter := by simp [ringStop, ite_meter]
@[simp] theorem takeEntry_meter (s : State) (i : Nat) (e : List Byte) : (takeEntry s i e).meter = s.meter := by
  simp [takeEntry, ite_meter]
@[simp] theorem takeCommand_meter (s : State) (entry : Option (List Byte)) : (takeCommand s entry).meter = s.meter := by
  unfold takeCommand; (repeat' split) <;> simp
@[simp] theorem startExclusive_meter (s : State) : (startExclusive s).meter = s.meter := by
  unfold startExclusive; (repeat' split) <;> simp
@[simp] theorem progressNote_meter (s : State) (i : Nat) (id : BitVec 16) (stage : Nat) (done : Nat) (total : Nat) : (progressNote s i id stage done total).meter = s.meter := by
  unfold progressNote; (repeat' split) <;> simp
@[simp] theorem coalExpire_meter (s : State) (i : Nat) : (coalExpire s i).meter = s.meter := by simp [coalExpire, ite_meter]
@[simp] theorem reportDrops_meter (s : State) : (reportDrops s).meter = s.meter := by simp [reportDrops, ite_meter]
@[simp] theorem movePort_meter (s : State) : (movePort s).meter = s.meter := by simp [movePort, ite_meter]
@[simp] theorem enableBus_meter (s : State) : (enableBus s).meter = s.meter := by simp [enableBus, foldl_meter, ite_meter]
@[simp] theorem clearMb_meter (s : State) (v : W64) : (clearMb s v).meter = s.meter := rfl
@[simp] theorem maskMb_meter (s : State) (v : W64) : (maskMb s v).meter = s.meter := by
  unfold maskMb; dsimp only; (repeat' split) <;> simp
@[simp] theorem writeMsix_meter (s : State) (off : Nat) (width : Nat) (v : W64) : (writeMsix s off width v).meter = s.meter := by
  simp [writeMsix, ite_meter]
@[simp] theorem onCfg_meter (s : State) (f : CfgWin → CfgWin) : (onCfg s f).meter = s.meter := rfl
@[simp] theorem beginAccess_meter (s : State) (a : CfgAccess) : (beginAccess s a).meter = s.meter := by
  unfold beginAccess; (repeat' split) <;> simp
@[simp] theorem startAccess_meter (s : State) (write : Bool) (ctl : W64) : (startAccess s write ctl).meter = s.meter := by
  simp [startAccess, ite_meter]
@[simp] theorem releaseAccess_meter (s : State) : (releaseAccess s).meter = s.meter := by
  unfold releaseAccess; (repeat' split) <;> simp
@[simp] theorem applyAccess_meter (s : State) (a : CfgAccess) (n : Nat) : (applyAccess s a n).meter = s.meter := by
  simp [applyAccess, ite_meter]
@[simp] theorem cfgArrives_meter (s : State) (t : CfgTarget) : (cfgArrives s t).meter = s.meter := by
  unfold cfgArrives; (repeat' split) <;> simp [foldl_meter]
@[simp] theorem cfgAnswered_meter (s : State) (t : CfgTarget) : (cfgAnswered s t).meter = s.meter := by
  unfold cfgAnswered; (repeat' split) <;> simp
@[simp] theorem finishAccess_meter (s : State) : (finishAccess s).meter = s.meter := by
  unfold finishAccess; (repeat' split) <;> simp
@[simp] theorem hurryAccess_meter (s : State) : (hurryAccess s).meter = s.meter := by
  unfold hurryAccess; split
  · simp [foldl_meter]
  · rfl
@[simp] theorem barWrite_meter (s : State) (off : Nat) (width : Nat) (v : W64) : (barWrite s off width v).meter = s.meter := by
  unfold barWrite; dsimp only
  refine keeps_ite rfl (keeps_ite (keeps_ite (clearMb_meter _ _) rfl) (keeps_ite (keeps_ite (maskMb_meter _ _) rfl)
    (keeps_ite rfl (keeps_ite ?_ (keeps_ite (keeps_ite rfl (keeps_ite (ringTail_meter _ _ _) (ringHead_meter _ _ _)))
      (keeps_ite (writeMsix_meter _ _ _ _) (keeps_ite (keeps_ite rfl (keeps_ite rfl rfl))
        (keeps_ite (keeps_ite (startAccess_meter _ _ _) rfl) rfl))))))))
  split
  · exact keeps_ite rfl rfl
  · exact keeps_ite rfl rfl
  · exact keeps_ite (writeCtl_meter _ _ _) rfl
  · rfl
/-! ### Switch -/

@[simp] theorem destroyKeys_meter (s : State) : (destroyKeys s).meter = s.meter := rfl
@[simp] theorem clearJob_meter (s : State) : (clearJob s).meter = s.meter := rfl
@[simp] theorem acceptSwitch_meter (s : State) : (acceptSwitch s).meter = s.meter := by simp [acceptSwitch]
@[simp] theorem runSwitch_meter (s : State) : (runSwitch s).meter = s.meter := rfl
@[simp] theorem finishSwitch_meter (s : State) : (finishSwitch s).meter = s.meter := by simp [finishSwitch, ite_meter]
@[simp] theorem closeNow_meter (s : State) : (closeNow s).meter = s.meter := by simp [closeNow, ite_meter]
@[simp] theorem debugWipe_meter (s : State) : (debugWipe s).meter = s.meter := by simp [debugWipe, ite_meter]
@[simp] theorem levelRecord_meter (s : State) (slot : Nat) : (levelRecord s slot).meter = s.meter := rfl
@[simp] theorem setLevel_meter (s : State) (l : Level) (slot : Nat) : (setLevel s l slot).meter = s.meter := by
  simp [setLevel, ite_meter]
@[simp] theorem dropLevel_meter (s : State) : (dropLevel s).meter = s.meter := by simp [dropLevel, ite_meter]
/-! ### Repair -/

@[simp] theorem remap_meter (s : State) (listed : Bool) : (remap s listed).meter = s.meter := by
  unfold remap; dsimp only
  repeat' split
  all_goals simp
@[simp] theorem darken_meter (s : State) (f : Nat) (st : FieldPower) : (darken s f st).meter = s.meter := rfl
@[simp] theorem recordField_meter (s : State) (f : Nat) (cause : Nat) : (recordField s f cause).meter = s.meter := by
  simp [recordField, ite_meter]
@[simp] theorem retree_meter (s : State) : (retree s).meter = s.meter := by
  unfold retree; split
  · rfl
  · dsimp only
    rw [foldl_meter _ _ (fun s f => by split <;> simp), foldl_meter _ _ (fun s f => by simp)]
    rfl
@[simp] theorem refit_meter (s : State) : (refit s).meter = s.meter := by
  unfold refit
  split
  · rfl
  · simp
@[simp] theorem settleMap_meter (s : State) (listed : Bool) : (settleMap s listed).meter = s.meter := by
  unfold settleMap; simp
@[simp] theorem retireTile_meter (s : State) (t : Nat) : (retireTile s t).meter = s.meter := by simp [retireTile, ite_meter]
@[simp] theorem failDue_meter (s : State) : (failDue s).meter = s.meter := by simp [failDue, foldl_meter, ite_meter]
@[simp] theorem retireDue_meter (s : State) : (retireDue s).1.meter = s.meter := by
  unfold retireDue; simp [foldl_meter]
@[simp] theorem restoreField_meter (s : State) (f : Nat) : (restoreField s f).meter = s.meter := rfl
@[simp] theorem setStage_meter (s : State) (c : Nat) : (setStage s c).meter = s.meter := rfl
@[simp] theorem fieldsOff_meter (s : State) : (fieldsOff s).meter = s.meter := by
  unfold fieldsOff; exact foldl_meter _ _ (fun s f => onFp_meter _ _ _) s
@[simp] theorem portsOff_meter (s : State) : (portsOff s).meter = s.meter := rfl
@[simp] theorem dropWafer_meter (s : State) : (dropWafer s).meter = s.meter := rfl
@[simp] theorem enterRetention_meter (s : State) : (enterRetention s).meter = s.meter := by simp [enterRetention, ite_meter]
@[simp] theorem stopToRetention_meter (s : State) : (stopToRetention s).meter = s.meter := by
  simp [stopToRetention, ite_meter]
@[simp] theorem settleLoss_meter (s : State) (listed : Bool) : (settleLoss s listed).meter = s.meter := by
  simp [settleLoss, ite_meter]
@[simp] theorem settleDue_meter (s : State) : (settleDue s).meter = s.meter := by unfold settleDue; split <;> simp
/-! ### Train -/

@[simp] theorem writeScales_meter (s : State) : (writeScales s).meter = s.meter := by
  unfold writeScales; (repeat' split) <;> simp
@[simp] theorem writeRsel_meter (s : State) : (writeRsel s).meter = s.meter := by
  unfold writeRsel; exact onW_meter _ _
@[simp] theorem writeRims_meter (s : State) (n : Nat) : (writeRims s n).meter = s.meter := by
  unfold writeRims; exact onW_meter _ _
@[simp] theorem openStep_meter (s : State) : (openStep s).meter = s.meter := by simp [openStep, ite_meter]
@[simp] theorem beginStep_meter (s : State) : (beginStep s).meter = s.meter := by simp [beginStep, ite_meter]
@[simp] theorem batchWait_meter (s : State) : (batchWait s).meter = s.meter := by simp [batchWait, ite_meter]
@[simp] theorem drawAmax_meter : ∀ (n g : Nat) (s : State), (drawAmax n g s).2.meter = s.meter
  | 0, _, _ => rfl
  | n + 1, g, s => (drawAmax_meter n (g + 1) (drawFree s).2).trans rfl
@[simp] theorem sendAmax_meter (s : State) (b : Nat) (l : List W32) (final : Bool) : (sendAmax s b l final).meter = s.meter := by
  simp [sendAmax, foldl_meter]
@[simp] theorem passAmax_meter (s : State) : (passAmax s).meter = s.meter := by
  unfold passAmax; dsimp only; (repeat' split) <;> simp [foldl_meter]
@[simp] theorem backwardBarrier_meter (s : State) : (backwardBarrier s).meter = s.meter := by
  unfold backwardBarrier; split
  · simp
  · rfl
@[simp] theorem mendCopies_meter (s : State) : (mendCopies s).meter = s.meter := by
  unfold mendCopies; (repeat' split) <;> simp
@[simp] theorem rewriteReadiness_meter (s : State) : (rewriteReadiness s).meter = s.meter := by
  unfold rewriteReadiness
  exact foldl_meter _ _ (fun s p => by split <;> simp) s
@[simp] theorem dropBadBatch_meter (s : State) : (dropBadBatch s).meter = s.meter := by
  unfold dropBadBatch; dsimp only; (repeat' split) <;> simp
@[simp] theorem dropGradients_meter (s : State) (n : Nat) : (dropGradients s n).meter = s.meter := rfl
@[simp] theorem freshTree_meter (s : State) : (freshTree s).meter = s.meter := rfl
@[simp] theorem abortStep_meter (s : State) (causes : BitVec 8) : (abortStep s causes).meter = s.meter := by
  unfold abortStep; dsimp only
  simp [ite_meter]
@[simp] theorem abortHere_meter (s : State) (causes : BitVec 8) : (abortHere s causes).meter = s.meter := by
  simp [abortHere, ite_meter]
@[simp] theorem stepAbort_meter (s : State) (cause : Nat) : (stepAbort s cause).meter = s.meter := by
  simp [stepAbort, ite_meter]
@[simp] theorem atCommit_meter (s : State) (j : Job) (v : Verdict) : (atCommit s j v).meter = s.meter := by
  simp [atCommit, ite_meter]
@[simp] theorem takeSnapshot_meter (s : State) (n : Nat) : (takeSnapshot s n).2.meter = s.meter := by
  unfold takeSnapshot; split <;> rfl
@[simp] theorem startCapture_meter (s : State) (n : Nat) : (startCapture s n).meter = s.meter := by
  simp [startCapture, ite_meter]
@[simp] theorem dueCapture_meter (s : State) (j : Job) (n : Nat) : (dueCapture s j n).meter = s.meter := by
  simp [dueCapture, ite_meter]
@[simp] theorem dueEmissions_meter (s : State) (j : Job) (n : Nat) : (dueEmissions s j n).meter = s.meter := by
  simp [dueEmissions, ite_meter]
@[simp] theorem writeTrace_meter (s : State) (l : List HostSeg) : (writeTrace s l).meter = s.meter := by
  unfold writeTrace; split
  · rfl
  · exact (foldl_keeps (fun (p : State × Nat) => p.1.meter) _ _ (fun p g => by simp) _).trans rfl
@[simp] theorem afterCommit_meter (s : State) (r : Run) (mask : Nat) : (afterCommit s r mask).meter = s.meter := by
  simp [afterCommit, ite_meter]
@[simp] theorem closeStep_meter (s : State) (n : Nat) : (closeStep s n).meter = s.meter := rfl
@[simp] theorem raiseReadiness_meter (s : State) (applied : Bool) : (raiseReadiness s applied).meter = s.meter := by
  unfold raiseReadiness; split
  · rfl
  · exact foldl_meter _ _ (fun s d => by (repeat' split) <;> simp) s
@[simp] theorem takeCommit_meter (s : State) : (takeCommit s).meter = s.meter := by
  unfold takeCommit; dsimp only; (repeat' split) <;> simp
@[simp] theorem endReplay_meter (s : State) (r : Replay) : (endReplay s r).meter = s.meter := by
  unfold endReplay; (repeat' split) <;> simp [ite_meter]
@[simp] theorem imagesGood_meter (s : State) : (imagesGood s).2.meter = s.meter := by
  unfold imagesGood; (repeat' split) <;> simp
@[simp] theorem prepare_meter (s : State) : (prepare s).meter = s.meter := by
  unfold prepare; dsimp only; (repeat' split) <;> simp [foldl_meter]
@[simp] theorem commitPoint_meter (s : State) : (commitPoint s).meter = s.meter := by
  unfold commitPoint; dsimp only; (repeat' split) <;> simp
/-! ### Export -/

@[simp] theorem capture_meter (s : State) : (capture s).meter = s.meter := by
  unfold capture; dsimp only; (repeat' split) <;> simp
@[simp] theorem restoreFast_meter (s : State) (j : Job) (c : Snapshot) : (restoreFast s j c).meter = s.meter := by
  unfold restoreFast; dsimp only
  rw [foldl_meter _ _ (fun s d => by split <;> simp), foldl_meter _ _ (fun s d => by split <;> simp)]
@[simp] theorem restoreSlow_meter (s : State) (c : Snapshot) : (restoreSlow s c).meter = s.meter := by
  unfold restoreSlow; dsimp only
  rw [foldl_meter _ _ (fun s d => by split <;> simp), foldl_meter _ _ (fun s d => by split <;> simp)]
@[simp] theorem restoreSnap_meter (s : State) (j : Job) (c : Snapshot) : (restoreSnap s j c).meter = s.meter := by
  unfold restoreSnap; dsimp only
  simp only [freshTree_meter, onW_meter]
  rw [foldl_meter _ _ (fun s d => by split <;> simp)]
  simp
@[simp] theorem emitRecord_meter (s : State) (seq : Nat) (bytes : List Byte) : (emitRecord s seq bytes).meter = s.meter := by
  unfold emitRecord; (repeat' split) <;> simp
theorem sendRecord_meter {s t : State} {a b c d e f : Nat} {g : List Byte} (h : sendRecord s a b c d e f g = some t) :
    t.meter = s.meter := by
  unfold sendRecord at h; dsimp only at h
  repeat' split at h
  all_goals first | (cases h; done) | (cases h; simp)
@[simp] theorem sendDue_meter : ∀ (n : Nat) (s : State) (x : GalDue) (l : List W32), (sendDue n s x l).2.meter = s.meter
  | 0, _, _, _ => rfl
  | n + 1, s, x, l => by
    unfold sendDue; split
    · rfl
    · dsimp only; split
      · rfl
      · rename_i h; rw [sendDue_meter n]; exact (sendRecord_meter h :)
@[simp] theorem emit_meter (s : State) (t : Nat) : (emit s t).meter = s.meter := by
  unfold emit; split
  · rfl
  · split
    · split <;> simp
    · rfl
@[simp] theorem sealStep_meter (s : State) : (sealStep s).meter = s.meter := by
  unfold sealStep; split
  · split
    · rfl
    · dsimp only; split
      · rename_i h; exact (sendRecord_meter h :)
      · rfl
  · rfl
@[simp] theorem takeDatagram_meter (s : State) (fromConfigured : Bool) : (takeDatagram s fromConfigured).2.meter = s.meter := by
  unfold takeDatagram; (repeat' split) <;> simp
@[simp] theorem takeAck_meter (s : State) (seq : Nat) (fromConfigured : Bool) : (takeAck s seq fromConfigured).meter = s.meter := by
  simp [takeAck, ite_meter]
@[simp] theorem takeResend_meter (s : State) (first : Nat) (count : Nat) (fromConfigured : Bool) : (takeResend s first count fromConfigured).meter = s.meter := by
  unfold takeResend; dsimp only; split
  · have hf : ∀ (l : List GalRecord), (l.foldl (fun s r => emitRecord s r.seq r.bytes) (takeDatagram s fromConfigured).2).meter =
        s.meter := fun l => (foldl_meter _ _ (fun s r => by simp) _).trans (by simp)
    refine keeps_ite (hf _) ?_
    split
    · rename_i h; rw [postEvent_meter, sendRecord_meter h]; exact hf _
    · exact hf _
  · simp
/-! ### Command -/

@[simp] theorem Work.say_meter (s : State) (r : Result) : (Work.say s r).meter = s.meter := rfl
@[simp] theorem Work.good_meter (s : State) : (Work.good s).meter = s.meter := rfl
/-- A host command keeps the meter where its work does. -/
theorem hostCmd_meter (s : State) (h : CmdHdr) (op : Nat) (ok : Bool) (f : State → Prog → Work)
    (hf : ∀ p, (f s p).meter = s.meter) :
    (hostCmd s h op ok f).meter = s.meter := by
  unfold hostCmd; split
  · rfl
  · rename_i p _
    split
    · simp
    · have := hf p
      split <;> simp_all
@[simp] theorem holdProg_meter (s : State) (p : Prog) (st : ProgState) (d : W64) : (holdProg s p st d).meter = s.meter := rfl
@[simp] theorem answer_meter (s : State) (b : HostBuf) (bs : List Byte) (d0 : W64) (d1 : W64) (d2 : W64) : (answer s b bs d0 d1 d2).meter = s.meter := by
  unfold answer; split <;> simp
/-! ### JobOpen -/

@[simp] theorem drawBit_meter (s : State) : (drawBit s).2.meter = s.meter := rfl
@[simp] theorem returnFields_meter (s : State) : (returnFields s).meter = s.meter := by
  have h : ∀ (l : List Nat) (a : State × Bool), (l.foldl (fun (a : State × Bool) f =>
      let (ok, s) := if (fpAt a.1 f).injected then (true, a.1) else drawBit a.1
      if ok then (restoreField s f, true) else (s, a.2)) a).1.meter = a.1.meter := fun l a =>
    foldl_keeps (fun (p : State × Bool) => p.1.meter) _ _ (fun p f => by dsimp only; split <;> (split <;> simp_all)) a
  unfold returnFields; dsimp only; split <;> simp [h]
@[simp] theorem retestTiles_meter (s : State) : (retestTiles s).meter = s.meter := by
  have h : ∀ (l : List Nat) (a : State × Bool), (l.foldl (fun (a : State × Bool) t =>
      let (ok, s) := drawBit a.1
      if ok then (s, a.2) else (retireTile s t, true)) a).1.meter = a.1.meter := fun l a =>
    foldl_keeps (fun (p : State × Bool) => p.1.meter) _ _ (fun p f => by dsimp only; split <;> simp) a
  unfold retestTiles; dsimp only; split <;> simp [h]
@[simp] theorem repairRows_meter (s : State) : (repairRows s).meter = s.meter := by
  unfold repairRows
  exact (foldl_meter _ _ (fun s x => (onW_meter _ _).trans (drawBit_meter s)) _).trans rfl
@[simp] theorem loadConfig_meter (s : State) (l : List (Nat × List W64)) : (loadConfig s l).2.meter = s.meter := by
  unfold loadConfig
  refine foldl_keeps (fun (p : Bool × State) => p.2.meter) _ _ (fun p r => ?_) _
  refine foldl_keeps (fun (p : Bool × State) => p.2.meter) _ _ (fun p r => ?_) _
  dsimp only; split <;> simp
@[simp] theorem loadRims_meter (s : State) (m : JobImage) : (loadRims s m).meter = s.meter := by
  unfold loadRims; exact onW_meter _ _
@[simp] theorem loadJob_meter (s : State) (m : JobImage) (j : Job) : (loadJob s m j).meter = s.meter := by simp [loadJob]
@[simp] theorem openJob_meter (s : State) (id : BitVec 16) (buf : HostBuf) (sm3 : BitVec 256) : (openJob s id buf sm3).meter = s.meter := by
  unfold openJob; dsimp only; (repeat' split) <;> simp
@[simp] theorem startLocal_meter (s : State) (j : Job) : (startLocal s j).meter = s.meter := by
  unfold startLocal; dsimp only
  rw [onTrain_meter]
  exact (foldl_meter _ _ (fun s d => by split <;> simp) _).trans (onW_meter _ _)
@[simp] theorem finishStart_meter (s : State) (r : Result) : (finishStart s r).meter = s.meter := by
  simp [finishStart, ite_meter]
@[simp] theorem passJoin_meter (s : State) : (passJoin s).meter = s.meter := by
  unfold passJoin; dsimp only; (repeat' split) <;> simp [foldl_meter]
@[simp] theorem startJob_meter (s : State) (p : Prog) : (startJob s p).meter = s.meter := by
  unfold startJob; dsimp only; (repeat' split) <;> simp
@[simp] theorem closeJob_meter (s : State) (p : Prog) (mode : Nat) : (closeJob s p mode).meter = s.meter := by
  unfold closeJob; dsimp only; (repeat' split) <;> simp
/-! ### Links -/

@[simp] theorem startTraining_meter (s : State) (f : Nat) : (startTraining s f).meter = s.meter := rfl
@[simp] theorem portDown_meter (s : State) (f : Nat) : (portDown s f).meter = s.meter := rfl
@[simp] theorem sendId_meter (s : State) (f : Nat) : (sendId s f).meter = s.meter := rfl
@[simp] theorem trainPort_meter (s : State) (f : Nat) (r : TrainResult) : (trainPort s f r).meter = s.meter := by
  simp [trainPort, ite_meter]
@[simp] theorem retrainPorts_meter (s : State) : (retrainPorts s).meter = s.meter := by
  unfold retrainPorts
  exact foldl_meter _ _ (fun s f => by split <;> simp) s
@[simp] theorem loseLight_meter (s : State) (f : Nat) (pos : Nat) (inj : Bool) : (loseLight s f pos inj).meter = s.meter := by
  simp [loseLight, ite_meter]
@[simp] theorem spareUp_meter (s : State) (f : Nat) (d : LinkDir) (pos : Nat) : (spareUp s f d pos).meter = s.meter := by
  unfold spareUp; (repeat' split) <;> simp [ite_meter]
@[simp] theorem holdMismatch_meter (s : State) (f : Nat) (code : Nat) : (holdMismatch s f code).meter = s.meter := by
  simp [holdMismatch]
@[simp] theorem portRises_meter (s : State) (f : Nat) : (portRises s f).meter = s.meter := by simp [portRises, ite_meter]
@[simp] theorem takeId_meter (s : State) (f : Nat) (p : IdPacket) : (takeId s f p).meter = s.meter := by
  simp [takeId, ite_meter]
@[simp] theorem idMissing_meter (s : State) (f : Nat) : (idMissing s f).meter = s.meter := by simp [idMissing, ite_meter]
@[simp] theorem resendId_meter (s : State) (f : Nat) : (resendId s f).meter = s.meter := by simp [resendId, ite_meter]
@[simp] theorem fecRetrainPort_meter (s : State) (f : Nat) : (fecRetrainPort s f).meter = s.meter := by
  simp [fecRetrainPort, ite_meter]
@[simp] theorem refuseBlock_meter (s : State) (f : Nat) (tr : Trailer) : (refuseBlock s f tr).meter = s.meter := by
  simp [refuseBlock]
@[simp] theorem takeTrailer_meter (s : State) (f : Nat) (tr : Trailer) : (takeTrailer s f tr).meter = s.meter := by
  simp [takeTrailer, ite_meter]
/-- A message received keeps the meter where its effect does. -/
theorem receive_meter (s : State) (f n : Nat) (b : Bool) (g : State → State) (hg : ∀ s, (g s).meter = s.meter) :
    (receive s f n b g).meter = s.meter := by
  unfold receive; split
  · rw [hg]; simp
  · rfl
@[simp] theorem takeJoin_meter (s : State) (f : Nat) (id : BitVec 16) (sm3 : BitVec 256) (down : Bool) (ok : Bool) : (takeJoin s f id sm3 down ok).meter = s.meter := by
  unfold takeJoin; (repeat' split) <;> simp [foldl_meter]
@[simp] theorem releaseLine_meter (s : State) (l : Nat) : (releaseLine s l).meter = s.meter := by
  simp [releaseLine, foldl_meter, ite_meter]
@[simp] theorem passLine_meter (s : State) (l : Nat) : (passLine s l).meter = s.meter := by
  unfold passLine; (repeat' split) <;> simp [foldl_meter, ite_meter]
@[simp] theorem takeArrive_meter (s : State) (f : Nat) (id : BitVec 16) (l : Nat) (gen : W32) : (takeArrive s f id l gen).meter = s.meter := by
  simp [takeArrive, ite_meter]
@[simp] theorem recordStale_meter (s : State) (f : Nat) : (recordStale s f).meter = s.meter := by simp [recordStale]
@[simp] theorem takeRelease_meter (s : State) (f : Nat) (id : BitVec 16) (l : Nat) (gen : W32) : (takeRelease s f id l gen).meter = s.meter := by
  simp [takeRelease, foldl_meter, ite_meter]
@[simp] theorem declare_meter (s : State) (b : Nat) (k : Nat) (tw : Nat) : (declare s b k tw).meter = s.meter := by
  simp [declare, ite_meter]
@[simp] theorem markGlobal_meter (s : State) (k : Nat) (tw : Nat) (l : Nat) : (markGlobal s k tw l).meter = s.meter := rfl
@[simp] theorem ringComplete_meter (s : State) (k : Nat) (tw : Nat) : (ringComplete s k tw).meter = s.meter := by
  simp [ringComplete, ite_meter]
@[simp] theorem ringPass_meter (s : State) (m : Nat) (p : Nat) (k : Nat) (tw : Nat) (l : Nat) : (ringPass s m p k tw l).meter = s.meter := by
  unfold ringPass; (repeat' split) <;> simp
@[simp] theorem treePass_meter (s : State) (k : Nat) (tw : Nat) : (treePass s k tw).meter = s.meter := by
  unfold treePass; dsimp only
  refine keeps_ite rfl (keeps_ite (by simp) ?_)
  split <;> simp [foldl_meter]
@[simp] theorem feedTwin_meter (s : State) (k : Nat) (a : Nat) : (feedTwin s k a).meter = s.meter := by
  unfold feedTwin; dsimp only; (repeat' split) <;> simp [foldl_meter]
@[simp] theorem afterArea_meter (s : State) (k : Nat) (a : Nat) : (afterArea s k a).meter = s.meter := by simp [afterArea]
@[simp] theorem takeAcc_meter (s : State) (n : Nat) (x : NetWaits) : (takeAcc s n x).meter = s.meter := by
  unfold takeAcc; dsimp only
  refine keeps_ite rfl ?_
  split <;> simp
@[simp] theorem zeroingDone_meter (s : State) (k : Nat) (a : Nat) : (zeroingDone s k a).meter = s.meter := by
  simp [zeroingDone, ite_meter]
@[simp] theorem takePart_meter (s : State) (f : Nat) (x : LinkLine) : (takePart s f x).meter = s.meter := by
  unfold takePart; dsimp only; (repeat' split) <;> simp
@[simp] theorem adopt_meter (s : State) : (adopt s).meter = s.meter := by
  unfold adopt; (repeat' split) <;> simp
@[simp] theorem takeGlobal_meter (s : State) (x : LinkLine) : (takeGlobal s x).meter = s.meter := by
  unfold takeGlobal; dsimp only; (repeat' split) <;> simp [foldl_meter]
@[simp] theorem takeAmax_meter (s : State) (f : Nat) (first : Nat) (vals : List W32) (final : Bool) : (takeAmax s f first vals final).meter = s.meter := by
  simp [takeAmax, foldl_meter, ite_meter]
@[simp] theorem takeVerdict_meter (s : State) (v : Nat) (cause : Nat) (norm : W32) : (takeVerdict s v cause norm).meter = s.meter := by
  simp [takeVerdict, foldl_meter]
@[simp] theorem takePrepared_meter (s : State) (f : Nat) (step : Nat) : (takePrepared s f step).meter = s.meter := by
  simp [takePrepared, ite_meter]
@[simp] theorem takeCommitMsg_meter (s : State) (f : Nat) (step : Nat) : (takeCommitMsg s f step).meter = s.meter := by
  simp [takeCommitMsg, foldl_meter, ite_meter]
@[simp] theorem countAbort_meter (s : State) (causes : BitVec 8) : (countAbort s causes).meter = s.meter := by
  simp [countAbort, ite_meter]
@[simp] theorem takeAbort_meter (s : State) (f : Nat) (step : Nat) (attempt : Nat) (causes : BitVec 8) : (takeAbort s f step attempt causes).meter = s.meter := by
  unfold takeAbort; dsimp only; (repeat' split) <;> simp [foldl_meter]
@[simp] theorem takeFault_meter (s : State) (f : Nat) : (takeFault s f).meter = s.meter := by simp [takeFault, ite_meter]
@[simp] theorem bundleTimeout_meter (s : State) (b : Nat) : (bundleTimeout s b).meter = s.meter := by
  simp [bundleTimeout, ite_meter]
@[simp] theorem simmerSample_meter (s : State) : (simmerSample s).meter = s.meter := by simp [simmerSample, ite_meter]
@[simp] theorem simmerDown_meter (s : State) : (simmerDown s).meter = s.meter := by simp [simmerDown, ite_meter]
@[simp] theorem simmerUp_meter (s : State) : (simmerUp s).meter = s.meter := by
  unfold simmerUp; dsimp only; (repeat' split) <;> simp
/-! ### Power -/

@[simp] theorem coldState_meter (s : State) (stage : Nat) : (coldState s stage).meter = s.meter := rfl
@[simp] theorem resetAll_meter (s : State) : (resetAll s).meter = s.meter := rfl
@[simp] theorem freeze_meter (s : State) : (freeze s).meter = s.meter := by simp [freeze, ite_meter]
@[simp] theorem onFeed_meter (s : State) (d : Feed) (f : FeedState → FeedState) : (onFeed s d f).meter = s.meter := rfl
@[simp] theorem feedLow_meter (s : State) (d : Feed) (inj : Bool) : (feedLow s d inj).meter = s.meter := by
  simp [feedLow, ite_meter]
@[simp] theorem railLow_meter (s : State) (r : Rail) (inj : Bool) : (railLow s r inj).meter = s.meter := by
  unfold railLow; (repeat' split) <;> simp
@[simp] theorem recoverFreeze_meter (s : State) : (recoverFreeze s).meter = s.meter := by simp [recoverFreeze, ite_meter]
@[simp] theorem timeoutFreeze_meter (s : State) : (timeoutFreeze s).meter = s.meter := by simp [timeoutFreeze, ite_meter]
@[simp] theorem loseFeed_meter (s : State) (d : Feed) (inj : Bool) : (loseFeed s d inj).meter = s.meter := by
  simp [loseFeed, ite_meter]
@[simp] theorem rejoinFeed_meter (s : State) (d : Feed) : (rejoinFeed s d).meter = s.meter := by simp [rejoinFeed, ite_meter]
@[simp] theorem overvoltFeed_meter (s : State) (d : Feed) (inj : Bool) : (overvoltFeed s d inj).meter = s.meter := by
  simp [overvoltFeed, ite_meter]
@[simp] theorem reverseFeed_meter (s : State) (d : Feed) (inj : Bool) : (reverseFeed s d inj).meter = s.meter := by
  simp [reverseFeed, ite_meter]
@[simp] theorem afterLoss_meter (s : State) (cause : BitVec 8) : (afterLoss s cause).meter = s.meter := by
  simp [afterLoss, ite_meter]
@[simp] theorem tripField_meter (s : State) (f : Nat) (inj : Bool) : (tripField s f inj).meter = s.meter := by
  simp [tripField, ite_meter]
@[simp] theorem darkenHot_meter (s : State) (f : Nat) (det : Nat) (inj : Bool) : (darkenHot s f det inj).meter = s.meter := by
  unfold darkenHot; dsimp only; (repeat' split) <;> simp
@[simp] theorem testSense_meter (s : State) (f : Nat) (openA : Bool) (openB : Bool) : (testSense s f openA openB).meter = s.meter := by
  simp [testSense, ite_meter]
@[simp] theorem stopOpen_meter (s : State) : (stopOpen s).meter = s.meter := by simp [stopOpen, ite_meter]
@[simp] theorem shortDomain_meter (s : State) (d : ShortDomain) : (shortDomain s d).meter = s.meter := by
  unfold shortDomain; (repeat' split) <;> simp [foldl_meter, ite_meter]
@[simp] theorem failThermistor_meter (s : State) (i : Nat) (shorted : Bool) : (failThermistor s i shorted).meter = s.meter := by
  simp [failThermistor, ite_meter]
@[simp] theorem failConverter_meter (s : State) (i : Nat) : (failConverter s i).meter = s.meter := by
  simp [failConverter, ite_meter]
@[simp] theorem onGov_meter (s : State) (f : Gov → Gov) : (onGov s f).meter = s.meter := rfl
@[simp] theorem sampleGovernor_meter (s : State) (r : GovReading) : (sampleGovernor s r).meter = s.meter := by
  unfold sampleGovernor; dsimp only; (repeat' split) <;> simp [ite_meter]
@[simp] theorem stepDown_meter (s : State) : (stepDown s).meter = s.meter := by simp [stepDown, ite_meter]
@[simp] theorem stepUp_meter (s : State) : (stepUp s).meter = s.meter := by simp [stepUp, ite_meter]
@[simp] theorem endSlew_meter (s : State) : (endSlew s).meter = s.meter := by
  unfold endSlew; (repeat' split) <;> simp
@[simp] theorem endVdd_meter (s : State) : (endVdd s).meter = s.meter := by
  unfold endVdd; (repeat' split) <;> simp [ite_meter]
@[simp] theorem floorStop_meter (s : State) : (floorStop s).meter = s.meter := by simp [floorStop, ite_meter]
@[simp] theorem sampleHeat_meter (s : State) (f : Nat) (junction : Int) (memory : Int) : (sampleHeat s f junction memory).meter = s.meter := by
  have d : ∀ {b c : Bool} {x y z v : Nat} {t : State} {m : Meter}, t.meter = m →
      (if b = true then detectAt t x y z v c else t).meter = m := fun e => keeps_ite (by simp [e]) e
  have p : ∀ {c : Prop} [Decidable c] {p : Pwr → Pwr} {t : State} {m : Meter}, t.meter = m →
      (if c then t else onPwr t p).meter = m := fun e => keeps_ite e e
  unfold sampleHeat; dsimp only
  refine keeps_ite rfl ?_
  refine keeps_ite ((darkenHot_meter _ _ _ _).trans ?_) (keeps_ite ((darkenHot_meter _ _ _ _).trans ?_)
    (keeps_ite ((tripField_meter _ _ _).trans ?_) ?_)) <;>
  · refine d ?_
    refine d ?_
    refine d ?_
    refine p ?_
    exact (onW_meter _ _).trans (onFp_meter _ _ _)
@[simp] theorem dutyDown_meter (s : State) (f : Nat) : (dutyDown s f).meter = s.meter := by simp [dutyDown, ite_meter]
@[simp] theorem dutyUp_meter (s : State) (f : Nat) : (dutyUp s f).meter = s.meter := by simp [dutyUp, ite_meter]
@[simp] theorem floorHot_meter (s : State) (f : Nat) : (floorHot s f).meter = s.meter := by simp [floorHot, ite_meter]
@[simp] theorem heatStack_meter (s : State) (k : Nat) (temp : Int) : (heatStack s k temp).meter = s.meter := by
  simp [heatStack, ite_meter]
@[simp] theorem heatCompanion_meter (s : State) (temp : Int) : (heatCompanion s temp).meter = s.meter := by
  simp [heatCompanion, ite_meter]
@[simp] theorem inletTimeout_meter (s : State) : (inletTimeout s).meter = s.meter := by simp [inletTimeout, ite_meter]
@[simp] theorem flowTimeout_meter (s : State) : (flowTimeout s).meter = s.meter := by simp [flowTimeout, ite_meter]
@[simp] theorem flowPowerOff_meter (s : State) : (flowPowerOff s).meter = s.meter := by simp [flowPowerOff, ite_meter]
@[simp] theorem coolantLost_meter (s : State) : (coolantLost s).meter = s.meter := by simp [coolantLost, ite_meter]
@[simp] theorem losePll_meter (s : State) (k : Nat) (inj : Bool) : (losePll s k inj).meter = s.meter := by
  simp [losePll, ite_meter]
@[simp] theorem loseClock_meter (s : State) (f : Nat) (inj : Bool) : (loseClock s f inj).meter = s.meter := by
  simp [loseClock, ite_meter]
@[simp] theorem changeLaser_meter (s : State) (b : Nat) (latched : Bool) (inj : Bool) : (changeLaser s b latched inj).meter = s.meter := by
  simp [changeLaser, foldl_meter, ite_meter]
/-! ### Boot -/

@[simp] theorem startMeasure_meter (s : State) : (startMeasure s).meter = s.meter := by
  unfold startMeasure; dsimp only; (repeat' split) <;> simp
@[simp] theorem bootImage_meter (s : State) : (bootImage s).meter = s.meter := rfl
@[simp] theorem raiseCounter_meter (s : State) : (raiseCounter s).meter = s.meter := by
  unfold raiseCounter; (repeat' split) <;> simp
@[simp] theorem stageOne_meter (s : State) (a : Nat) (b : Nat) (inlet : Int) (flow : Nat) (identity : List Byte) : (stageOne s a b inlet flow identity).meter = s.meter := by
  simp [stageOne, ite_meter]
@[simp] theorem stageTwo_meter (s : State) (port0 : Bool) (port1 : Bool) : (stageTwo s port0 port1).meter = s.meter := by
  simp [stageTwo, ite_meter]
@[simp] theorem stageThree_meter (s : State) (failed : List Nat) : (stageThree s failed).meter = s.meter := by
  simp [stageThree, ite_meter]
@[simp] theorem stageFour_meter (s : State) (failed : List Nat) : (stageFour s failed).meter = s.meter := by
  simp [stageFour, foldl_meter, ite_meter]
@[simp] theorem stageFive_meter (s : State) (pll0 : Bool) (bad backup : List Nat) : (stageFive s pll0 bad backup).meter = s.meter := by
  simp [stageFive, foldl_meter, ite_meter]
@[simp] theorem firstMap_meter (s : State) : (firstMap s).meter = s.meter := by simp [firstMap, ite_meter]
@[simp] theorem stageSix_meter (s : State) (failed : List Nat) : (stageSix s failed).meter = s.meter := by
  simp [stageSix, foldl_meter, ite_meter]
@[simp] theorem trainUcie_meter (s : State) (k : Nat) (n : Nat) : (trainUcie s k n).meter = s.meter := by
  simp [trainUcie, ite_meter]
@[simp] theorem stageSeven_meter (s : State) (failed : List Nat) (ucie0 : Nat) (ucie8 : Nat) (eth0 : Bool) (eth1 : Bool) : (stageSeven s failed ucie0 ucie8 eth0 eth1).meter = s.meter := by
  simp [stageSeven, foldl_meter, ite_meter]
@[simp] theorem postReady_meter (s : State) : (postReady s).meter = s.meter := by simp [postReady, ite_meter]
@[simp] theorem warmStart_meter (s : State) : (warmStart s).meter = s.meter := by simp [warmStart, ite_meter]
@[simp] theorem resetFunction_meter (s : State) : (resetFunction s).meter = s.meter := by simp [resetFunction, ite_meter]
@[simp] theorem pcieReset_meter (s : State) (port : Nat) (asserted : Bool) : (pcieReset s port asserted).meter = s.meter := by
  simp [pcieReset, ite_meter]
@[simp] theorem watchdog_meter (s : State) (inj : Bool) : (watchdog s inj).meter = s.meter := by simp [watchdog, ite_meter]
/-! ### Device -/

@[simp] theorem identifyDevice_meter (s : State) (buf : HostBuf) : (identifyDevice s buf).meter = s.meter := by
  unfold identifyDevice; dsimp only; (repeat' split) <;> simp
@[simp] theorem waitEvent_meter (s : State) (p : Prog) : (waitEvent s p).meter = s.meter := by
  unfold waitEvent; (repeat' split) <;> simp
@[simp] theorem configTree_meter (s : State) (id : BitVec 32) (role : Nat) (parent : Nat) (children : Nat) (ports : List Nat) (treeId : W64) : (configTree s id role parent children ports treeId).meter = s.meter := by
  unfold configTree; dsimp only; (repeat' split) <;> simp [foldl_meter, ite_meter]
@[simp] theorem resetDevice_meter (s : State) (p : Prog) : (resetDevice s p).meter = s.meter := by simp [resetDevice]
@[simp] theorem loadFirmware_meter (s : State) (off : Nat) (buf : HostBuf) : (loadFirmware s off buf).meter = s.meter := by
  unfold loadFirmware; (repeat' split) <;> simp
@[simp] theorem commitFirmware_meter (s : State) (length : Nat) : (commitFirmware s length).meter = s.meter := by
  unfold commitFirmware; dsimp only; (repeat' split) <;> simp
@[simp] theorem activateFirmware_meter (s : State) (p : Prog) (raise : Bool) : (activateFirmware s p raise).meter = s.meter := by
  simp [activateFirmware]
@[simp] theorem rampUp_meter (s : State) (p : Prog) : (rampUp s p).meter = s.meter := by
  unfold rampUp; (repeat' split) <;> simp
@[simp] theorem changePower_meter (s : State) (p : Prog) (target : Nat) : (changePower s p target).meter = s.meter := by
  unfold changePower; (repeat' split) <;> simp
@[simp] theorem markJob_meter (s : State) : (markJob s).meter = s.meter := by
  unfold markJob; dsimp only; (repeat' split) <;> simp
/-! ### Jobs -/

@[simp] theorem runSteps_meter (s : State) (p : Prog) (count : Nat) (verify : Bool) (trace : Bool) (ref : Nat) (slot : Nat) (buf : HostBuf) : (runSteps s p count verify trace ref slot buf).meter = s.meter := by
  unfold runSteps; dsimp only; (repeat' split) <;> simp
@[simp] theorem stopSteps_meter (s : State) : (stopSteps s).meter = s.meter := by
  unfold stopSteps; (repeat' split) <;> simp
@[simp] theorem replayStep_meter (s : State) (p : Prog) (n : Nat) (traceSet : W64) (buf : HostBuf) : (replayStep s p n traceSet buf).meter = s.meter := by
  unfold replayStep; (repeat' split) <;> simp
@[simp] theorem setConsts_meter (s : State) (prog : Nat) (first : Nat) (k : List W32) : (setConsts s prog first k).meter = s.meter := by
  unfold setConsts; (repeat' split) <;> simp
@[simp] theorem arriveComp_meter (s : State) (p : Prog) (l : Nat) (wait : Bool) : (arriveComp s p l wait).meter = s.meter := by
  unfold arriveComp; (repeat' split) <;> simp
@[simp] theorem watchComp_meter (s : State) (p : Prog) (d0 : W64) (d1 : W64) : (watchComp s p d0 d1).meter = s.meter := by
  unfold watchComp; (repeat' split) <;> simp
@[simp] theorem signalSync_meter (s : State) (a : BitVec 40) (v : W64) : (signalSync s a v).meter = s.meter := by
  unfold signalSync; (repeat' split) <;> simp
@[simp] theorem writeData_meter (s : State) (a : W64) (buf : HostBuf) : (writeData s a buf).meter = s.meter := by
  unfold writeData; dsimp only; (repeat' split) <;> simp
@[simp] theorem readData_meter (s : State) (a : W64) (buf : HostBuf) : (readData s a buf).meter = s.meter := by
  unfold readData; dsimp only
  split
  · rfl
  · refine keeps_iteWork rfl ?_
    split
    · rfl
    · refine keeps_iteWork rfl ?_
      split <;> simp
@[simp] theorem stageBatch_meter (s : State) (n : Nat) (off : Nat) (bytes : Nat) (desc : List Byte) : (stageBatch s n off bytes desc).meter = s.meter := by
  unfold stageBatch; (repeat' split) <;> simp
@[simp] theorem retainBlocks_meter (s : State) (stack : Nat) (first : Nat) (count : Nat) (dst : Nat) : (retainBlocks s stack first count dst).meter = s.meter := by
  unfold retainBlocks; (repeat' split) <;> simp
@[simp] theorem readRecords_meter (s : State) (first : Nat) (count : Nat) (buf : HostBuf) : (readRecords s first count buf).meter = s.meter := by
  simp [readRecords]
@[simp] theorem readReplay_meter (s : State) (buf : HostBuf) : (readReplay s buf).meter = s.meter := by
  unfold readReplay; (repeat' split) <;> simp
@[simp] theorem readJob_meter (s : State) (buf : HostBuf) : (readJob s buf).meter = s.meter := by
  unfold readJob; (repeat' split) <;> simp
@[simp] theorem askCapture_meter (s : State) (p : Prog) : (askCapture s p).meter = s.meter := by
  unfold askCapture; dsimp only; (repeat' split) <;> simp
@[simp] theorem listSlots_meter (s : State) (buf : HostBuf) : (listSlots s buf).meter = s.meter := by simp [listSlots]
@[simp] theorem setReading_meter (s : State) (i : Nat) (b : Bool) : (setReading s i b).meter = s.meter := by
  unfold setReading; (repeat' split) <;> simp
@[simp] theorem spoilSlot_meter (s : State) (i : Nat) (c : CkptSlot) : (spoilSlot s i c).meter = s.meter := by
  simp [spoilSlot]
@[simp] theorem readSlot_meter (s : State) (i : Nat) (off : Nat) (buf : HostBuf) : (readSlot s i off buf).meter = s.meter := by
  unfold readSlot; (repeat' split) <;> simp
@[simp] theorem restore_meter (s : State) (source : Nat) (slot : Nat) (buf : HostBuf) : (restore s source slot buf).meter = s.meter := by
  unfold restore; dsimp only; (repeat' split) <;> simp
@[simp] theorem installKey_meter (s : State) (buf : HostBuf) (use : Nat) : (installKey s buf use).meter = s.meter := by
  unfold installKey; (repeat' split) <;> simp
@[simp] theorem setNet_meter (s : State) (a : GalNetArgs) : (setNet s a).meter = s.meter := rfl
/-! ### Debug -/

@[simp] theorem clearKept_meter (s : State) : (clearKept s).meter = s.meter := rfl
@[simp] theorem changeLife_meter (s : State) (x : Lifecycle) (owner : Option (List Byte)) : (changeLife s x owner).meter = s.meter := by
  simp [changeLife, ite_meter]
@[simp] theorem challenge_meter (s : State) (level : Nat) (buf : HostBuf) : (challenge s level buf).meter = s.meter := by
  unfold challenge; dsimp only; (repeat' split) <;> simp
@[simp] theorem refuseUnlock_meter (s : State) : (refuseUnlock s).meter = s.meter := rfl
@[simp] theorem raiseLevel_meter (s : State) (level : Nat) (slot : Nat) : (raiseLevel s level slot).meter = s.meter := by
  simp [raiseLevel, ite_meter]
@[simp] theorem unlock_meter (s : State) (level : Nat) (buf : HostBuf) (age : Nat) : (unlock s level buf age).meter = s.meter := by
  unfold unlock; dsimp only; (repeat' split) <;> simp
@[simp] theorem haltAll_meter (s : State) : (haltAll s).meter = s.meter := by
  unfold haltAll; (repeat' split) <;> simp
@[simp] theorem resumeAll_meter (s : State) : (resumeAll s).meter = s.meter := by
  unfold resumeAll; (repeat' split) <;> simp
@[simp] theorem freeBytes_meter (s : State) (n : Nat) : (freeBytes s n).2.meter = s.meter := rfl
@[simp] theorem debugRead_meter (s : State) (x : Place) (n : Nat) : (debugRead s x n).2.meter = s.meter := by
  unfold debugRead; dsimp only; (repeat' split) <;> simp
@[simp] theorem looseEpochs_meter (s : State) (k : Nat) : (looseEpochs s k).meter = s.meter := by
  unfold looseEpochs
  exact foldl_meter _ _ (fun s f => by simp) s
@[simp] theorem debugWrite_meter (s : State) (x : Place) (bs : List Byte) : (debugWrite s x bs).meter = s.meter := by
  unfold debugWrite; (repeat' split) <;> simp
@[simp] theorem debugMem_meter (s : State) (dir : Nat) (a : W64) (buf : HostBuf) : (debugMem s dir a buf).meter = s.meter := by
  unfold debugMem; dsimp only
  refine keeps_iteWork rfl (keeps_iteWork rfl ?_)
  split
  · rfl
  · rename_i x _
    split
    · rfl
    · refine keeps_iteWork rfl (keeps_iteWork (onW_meter _ _) (keeps_iteWork (debugWrite_meter _ _ _) ?_))
      have h := debugRead_meter s x (bufSize buf)
      split <;> rename_i e <;> rw [e] at h <;> simpa using h
@[simp] theorem traceOut_meter (s : State) (buf : HostBuf) : (traceOut s buf).meter = s.meter := by
  unfold traceOut; (repeat' split) <;> simp
@[simp] theorem readWords_meter : ∀ (c : Nat) (s : State) (n off : Nat), (readWords s n off c).2.meter = s.meter
  | 0, _, _, _ => rfl
  | c + 1, s, n, off => by simp [readWords, readWords_meter c]
@[simp] theorem readCounters_meter (s : State) (a : BitVec 40) (words : Nat) (buf : HostBuf) : (readCounters s a words buf).meter = s.meter := by
  unfold readCounters; dsimp only
  refine keeps_iteWork rfl ?_
  split
  · rfl
  · refine keeps_iteWork rfl (keeps_iteWork rfl (keeps_iteWork rfl ?_))
    split <;> simp
/-! ### Inject -/

@[simp] theorem fireField_meter (s : State) (f : Fin 84) : (fireField s f).meter = s.meter := by
  unfold fireField; dsimp only; (repeat' split) <;> simp
@[simp] theorem fireRim_meter (s : State) (k : Nat) : (fireRim s k).meter = s.meter := by simp [fireRim, ite_meter]
@[simp] theorem failSource_meter (s : State) (b : Nat) : (failSource s b).meter = s.meter := by
  simp [failSource, foldl_meter, ite_meter]
@[simp] theorem fireModule_meter (s : State) : (fireModule s).meter = s.meter := by simp [fireModule, ite_meter]
@[simp] theorem armUnits_meter (s : State) (u : FiUnits) (r : FiReg) : (armUnits s u r).meter = s.meter := by
  unfold armUnits; (repeat' split) <;> simp [foldl_meter]
@[simp] theorem armPoint_meter (s : State) (p : Prog) (point : Nat) (mode : Nat) (count : Nat) (target : W64) : (armPoint s p point mode count target).meter = s.meter := by
  unfold armPoint; (repeat' split) <;> simp
@[simp] theorem scrubRecord_meter (s : State) (det : Nat) (loc : Nat) (tile : Nat) (addr : Nat) : (scrubRecord s det loc tile addr).meter = s.meter := by
  simp [scrubRecord]
@[simp] theorem scrubSp_meter (s : State) (t : Nat) (i : Nat) (r : EccResult) : (scrubSp s t i r).meter = s.meter := by
  unfold scrubSp; (repeat' split) <;> simp
@[simp] theorem scrubBds_meter (s : State) (t : Nat) (g : Nat) (r : EccResult) : (scrubBds s t g r).meter = s.meter := by
  unfold scrubBds; (repeat' split) <;> simp
@[simp] theorem scrubHbm_meter (s : State) (k : Nat) (g : Nat) (r : EccResult) : (scrubHbm s k g r).meter = s.meter := by
  unfold scrubHbm; (repeat' split) <;> simp [ite_meter]
@[simp] theorem scrubComp_meter (s : State) (g : Nat) (r : EccResult) : (scrubComp s g r).meter = s.meter := by
  unfold scrubComp; (repeat' split) <;> simp [ite_meter]
@[simp] theorem patrol_meter (s : State) (p : ScrubPlace) (r : EccResult) : (patrol s p r).meter = s.meter := by
  unfold patrol; (repeat' split) <;> simp
@[simp] theorem failLink_meter (s : State) (f : Nat) : (failLink s f).meter = s.meter := by simp [failLink, ite_meter]
@[simp] theorem spendSpare_meter (s : State) (x : LinkPlace) (f spares : Nat) : (spendSpare s x f spares).meter = s.meter := by
  simp [spendSpare, ite_meter]
@[simp] theorem retireChannel_meter (s : State) (x : LinkPlace) : (retireChannel s x).meter = s.meter := by
  unfold retireChannel; (repeat' split) <;> simp
@[simp] theorem shiftOut_meter (s : State) (bs : List Byte) : (shiftOut s bs).meter = s.meter := rfl
@[simp] theorem scanFree_meter (s : State) : (scanFree s).meter = s.meter := rfl
@[simp] theorem clearList_meter (s : State) (f : Repair → Repair) : (clearList s f).meter = s.meter := by
  simp [clearList, ite_meter]
@[simp] theorem jtag_meter (s : State) (op : JtagOp) : (jtag s op).meter = s.meter := by
  unfold jtag; split
  · rfl
  · split
    · simp
    · rfl
    · split
      · split <;> simp
      · rfl
    · split <;> simp
    · split <;> simp
    · simp
    · split
      · rename_i x _
        have h := debugRead_meter s x
        split
        · rename_i e; rw [shiftOut_meter, ← h, e]
        · rename_i e; rw [← h, e]
      · rfl
    · split
      · split <;> simp
      · rfl
    · simp
    · rfl
    · simp
    · simp
@[simp] theorem fireUnit_meter (s : State) (u : FiUnit) : (fireUnit s u).meter = s.meter := by
  unfold fireUnit; (repeat' split) <;> simp
@[simp] theorem fireAt_meter (off : Nat) (s : State) (n : Nat) : (fireAt off s n).meter = s.meter := by
  unfold fireAt; (repeat' split) <;> simp

end Sys2Proof.Machine
end

