-- ==== Sys2Proof/WellFormed.lean ====
section
/-!
DEFINITION. The checks of a command's operands that the constructors' types leave open: every operand fits the field
that carries it (12 R467, R470, 13 R497, 17 R646, R659).
-/

namespace Sys2Proof

/-- A host buffer that a 16-byte descriptor can name: pieces of 64-bit addresses, bytes up to their length (R470). -/
def bufOk (b : HostBuf) : Bool :=
  decide (b.kind < 256) && b.segs.all (fun p => decide (p.addr < 2 ^ 64 ∧ p.len < 2 ^ 64)) &&
    decide (b.data.length ≤ (b.segs.map (fun p => p.len)).sum)

/-- A line of a PART or a GLOBAL carries 32 values (R497). -/
def lineOk (l : LinkLine) : Bool := decide (l.vals.length = 32) && decide (l.line < 524288)

/-- A well-formed command. -/
def Instr.wf (i : Instr) : Bool :=
  match i with
  | .devIdentify _ buf => bufOk buf
  | .devStatus _ => true
  | .devEventWait _ => true
  | .devTreeConfig _ _ role parent children ports _ => decide (role < 256) && decide (parent < 256) && decide (children < 256) && decide (ports.length ≤ 8) && ports.all (fun p => decide (p < 256))
  | .devReset _ kind => decide (kind < 256)
  | .devFwLoad _ offset buf => decide (offset < 2 ^ 64) && bufOk buf
  | .devFwCommit _ length => decide (length < 2 ^ 32)
  | .devFwActivate _ _ => true
  | .jobOpen _ _ buf _ => bufOk buf
  | .jobStart _ => true
  | .jobClose _ mode => decide (mode < 256)
  | .stepRun _ count _ _ ref slot buf => decide (count < 2 ^ 64) && decide (ref < 256) && decide (slot < 256) && bufOk buf
  | .stepStop _ => true
  | .stepResume _ => true
  | .stepReplay _ st _ buf => decide (st < 2 ^ 64) && bufOk buf
  | .stepConst _ prog first k => decide (prog < 256) && decide (first < 2 ^ 64) && decide (k.length ≤ 8)
  | .syncArrive _ _ _ => true
  | .syncWatch _ _ _ => true
  | .syncSignal _ _ _ => true
  | .dataWrite _ _ buf => bufOk buf
  | .dataRead _ _ buf => bufOk buf
  | .dataStage _ st off bytes desc => decide (st < 2 ^ 64) && decide (off < 2 ^ 64) && decide (bytes < 2 ^ 64) && decide (desc.length ≤ 64)
  | .dataRetain _ stack first count dst => decide (stack < 256) && decide (first < 2 ^ 32) && decide (count < 2 ^ 32) && decide (dst < 256)
  | .stateLrRead _ first count buf => decide (first < 2 ^ 64) && decide (count < 2 ^ 32) && bufOk buf
  | .stateReplayRead _ buf => bufOk buf
  | .stateJob _ buf => bufOk buf
  | .ckptCapture _ => true
  | .ckptList _ buf => bufOk buf
  | .ckptRead _ slot off buf => decide (slot < 256) && decide (off < 2 ^ 64) && bufOk buf
  | .ckptRelease _ slot => decide (slot < 256)
  | .ckptRestore _ source slot buf => decide (source < 256) && decide (slot < 256) && bufOk buf
  | .ckptKey _ buf => bufOk buf
  | .galNet _ a => decide (a.port < 256) && decide (a.ipVersion < 256) && decide (a.srcIp.length ≤ 16) && decide (a.dstIp.length ≤ 16) && decide (a.dstMac.length = 6)
  | .galKey _ buf => bufOk buf
  | .galStatus _ => true
  | .pwrPolicy _ boost cap => decide (boost < 256) && decide (cap < 2 ^ 32)
  | .pwrRampUp _ => true
  | .pwrState _ target => decide (target < 256)
  | .mtrMark _ => true
  | .mtrStatus _ => true
  | .dbgChallenge _ level buf => decide (level < 256) && bufOk buf
  | .dbgUnlock _ level buf _ => decide (level < 256) && bufOk buf
  | .dbgLock _ => true
  | .dbgHalt _ => true
  | .dbgResume _ => true
  | .dbgMem _ dir _ buf => decide (dir < 256) && bufOk buf
  | .dbgTrace _ _ buf => bufOk buf
  | .dbgCounters _ _ words buf => decide (words < 2 ^ 32) && bufOk buf
  | .attQuote _ nonce buf => decide (nonce.length = 32) && bufOk buf
  | .attCert _ buf => bufOk buf
  | .fiArm _ point mode count _ => decide (point < 2 ^ 16) && decide (mode < 256) && decide (count < 2 ^ 32)
  | .fiDisarm _ point => decide (point < 2 ^ 16)
  | .fiStatus _ buf => bufOk buf
  | .dbSqTail _ _ => true
  | .dbCqHead _ _ => true
  | .ringEnable _ _ => true
  | .ringDisable _ _ => true
  | .ringStopped _ => true
  | .commandTake e => match e with | some bs => decide (bs.length = 128) | none => true
  | .exclusiveStart => true
  | .progressEntry _ _ st d t => decide (st < 256) && decide (d ≤ t)
  | .coalTimeExpiry _ => true
  | .eventDropReport => true
  | .functionPortMove => true
  | .flr => true
  | .perst _ _ => true
  | .sysReset _ => true
  | .configRead _ => true
  | .configWrite _ => true
  | .configAccessComplete => true
  | .mbEventClear _ => true
  | .mbEventMask _ => true
  | .registerWrite x => match x with | .bar0 o n _ => decide (o < 65536) && decide (n = 4 ∨ n = 8) | .cfg _ _ o _ => decide (o < 2 ^ 25)
  | .cadRun _ _ _ => true
  | .cadArm _ _ _ => true
  | .vcRun _ _ _ => true
  | .vcWin _ _ _ => true
  | .dmaPost _ _ _ _ => true
  | .dmaClear _ _ _ _ => true
  | .bdsPdRequest _ _ _ => true
  | .bdsPdClear _ _ _ => true
  | .simmerLevel _ _ _ => true
  | .syncFlagWrite _ _ _ _ => true
  | .syncSetf _ _ _ => true
  | .syncAddc _ _ _ => true
  | .syncCtrWrite _ _ _ _ => true
  | .banMaskWrite _ _ _ _ => true
  | .banLineWrite _ _ _ => true
  | .rimStep _ _ _ => true
  | .fiCtlWrite _ _ _ => true
  | .grpMaskWrite _ _ _ _ => true
  | .halt _ => true
  | .br _ _ _ => true
  | .loop _ _ _ => true
  | .wait _ => true
  | .winset _ _ _ => true
  | .fence _ => true
  | .scalarOp _ _ => true
  | .scalarLoadStore c _ => decide (64 * c.waits.starved ≤ c.waits.narrow)
  | .vectorFp32 c _ => decide (64 * c.waits.starved ≤ c.waits.narrow)
  | .vectorInteger c _ => decide (64 * c.waits.starved ≤ c.waits.narrow)
  | .vectorFixed64 c _ => decide (64 * c.waits.starved ≤ c.waits.narrow)
  | .cvtNarrow c => decide (64 * c.waits.starved ≤ c.waits.narrow)
  | .cvtWiden c => decide (64 * c.waits.starved ≤ c.waits.narrow)
  | .cvtMx c => decide (64 * c.waits.starved ≤ c.waits.narrow)
  | .cvt64f c => decide (64 * c.waits.starved ≤ c.waits.narrow)
  | .cvt64n c => decide (64 * c.waits.starved ≤ c.waits.narrow)
  | .cvtf64 c => decide (64 * c.waits.starved ≤ c.waits.narrow)
  | .specialFunction c _ => decide (64 * c.waits.starved ≤ c.waits.narrow)
  | .tileReduction c _ _ => decide (64 * c.waits.starved ≤ c.waits.narrow)
  | .vld c => decide (64 * c.waits.starved ≤ c.waits.narrow)
  | .vst c => decide (64 * c.waits.starved ≤ c.waits.narrow)
  | .bst c => decide (64 * c.waits.starved ≤ c.waits.narrow)
  | .jset _ => true
  | .jacc _ => true
  | .jclose _ => true
  | .jwr _ => true
  | .jrd _ _ => true
  | .phx c => decide (64 * c.waits.starved ≤ c.waits.narrow)
  | .setf _ => true
  | .addc _ => true
  | .rdf _ => true
  | .rdc _ => true
  | .watch _ => true
  | .wcancel _ => true
  | .arrive _ => true
  | .rdgen _ => true
  | .fruPost _ => true
  | .dmaPostInstruction _ => true
  | .setEnter _ _ => true
  | .shadowReloadComplete _ _ => true
  | .gateOpen _ _ => true
  | .idleSlotEnd _ => true
  | .tileCapture _ _ => true
  | .drainWriteComplete _ => true
  | .tableComplete _ => true
  | .descriptorAccept _ _ => true
  | .descriptorStart _ _ => true
  | .descriptorComplete _ _ => true
  | .dmaRunningFault _ _ => true
  | .fruReady _ => true
  | .fruComplete _ => true
  | .wake _ => true
  | .syncPacket _ => true
  | .lineRelease _ => true
  | .simmerSample => true
  | .simmerStepDown => true
  | .simmerStepUp => true
  | .rdReq _ => true
  | .rdResp _ => true
  | .wr _ => true
  | .wrAck _ => true
  | .nrd _ => true
  | .nrdResp _ => true
  | .nwr _ => true
  | .stream _ => true
  | .cfg _ => true
  | .cfgResp _ => true
  | .flitCrcReplay _ => true
  | .vc7Age _ => true
  | .bdsRefresh _ _ => true
  | .bdsRefreshEnd _ _ _ => true
  | .bdsFenceDone _ _ => true
  | .bdsEntryDone _ _ => true
  | .lateAccess _ => true
  | .bdsWakeDone _ _ => true
  | .streamEntryRead _ _ => true
  | .streamEntrySend _ _ => true
  | .acc _ => true
  | .areaOpen _ _ b c t e => decide (b < 2 ^ 36) && decide (c ≤ 16777216) && decide (-32768 ≤ t ∧ t < 32768) && decide (e ≤ 2 ^ 32)
  | .areaZeroingDone _ _ => true
  | .backgroundZeroer _ b => decide (b < 32768)
  | .stepBegin => true
  | .batchWaitTimeout => true
  | .backwardBarrier => true
  | .tieSumComplete _ _ _ _ => true
  | .orthP _ => true
  | .globalQImage _ => true
  | .normSquareSend _ => true
  | .normVerdict => true
  | .fastShardCommit _ _ => true
  | .slowTierTransfer _ => true
  | .slowTierCommit _ => true
  | .slowTierPublish _ => true
  | .driftAudit _ => true
  | .commitPoint => true
  | .stepAbort _ => true
  | .checkpointCapture => true
  | .galleryEmission _ => true
  | .seal => true
  | .ack _ _ => true
  | .resend _ _ _ => true
  | .linkTraining _ _ => true
  | .portRetrainTimer => true
  | .lossOfLight _ _ => true
  | .spareLaneUp _ _ _ => true
  | .blockTrailer _ tr => decide (tr.credits < 2 ^ 16)
  | .fecRetrain _ => true
  | .id _ p => decide (p.role < 3)
  | .idTimeout _ => true
  | .mismatchResend _ => true
  | .part _ l => lineOk l
  | .globalLine _ l => lineOk l
  | .tdecl _ _ _ t => decide (-32768 ≤ t ∧ t < 32768)
  | .linkArrive _ _ _ _ => true
  | .linkRelease _ _ _ _ => true
  | .join _ _ _ _ _ => true
  | .amax _ _ vals _ => decide (vals.length ≤ 32)
  | .verdict _ v c _ => decide (v < 4) && decide (c < 256)
  | .prepared _ _ => true
  | .commit _ _ => true
  | .abort _ _ _ _ => true
  | .fault _ => true
  | .bundleDownTimeout _ => true
  | .feedBelow44v _ => true
  | .railBelowWarning _ => true
  | .freezeRecovery => true
  | .freezeTimeout => true
  | .feedLost _ => true
  | .feedRejoin _ => true
  | .feedOvervoltage _ => true
  | .feedReversed _ => true
  | .fullReset => true
  | .regulatorTrip _ => true
  | .domainShort _ => true
  | .senseTest _ _ _ => true
  | .thermistorFailure _ _ => true
  | .busConverterFail _ => true
  | .governorSample _ => true
  | .clockStepDown => true
  | .clockStepUp => true
  | .clockSlewDone => true
  | .vddFChangeDone => true
  | .governorFloorStop => true
  | .thermalSample _ _ _ => true
  | .throttleDutyDown _ => true
  | .throttleDutyUp _ => true
  | .throttleFloorTimeout _ => true
  | .hbmOvertemp _ _ => true
  | .companionOvertemp _ => true
  | .coolantInletTimeout => true
  | .coolantFlowTimeout => true
  | .coolantFlowPowerOff => true
  | .pllLockLoss _ => true
  | .clockInputLoss _ => true
  | .patrolScrub p _ => match p with | .scratchpad _ x => decide (x < 98304) | .bds _ g => decide (g < 4194304) | .hbm _ g => decide (g < 2 ^ 30) | .companion g => decide (g < 2 ^ 35)
  | .channelRetire _ => true
  | .linkFieldFail _ => true
  | .watchdogExpiry => true
  | .switchComplete => true
  | .jobMarkSend => true
  | .presenceChange _ _ ident => decide (ident.length ≤ 1024)
  | .adcSample _ _ _ _ => true
  | .markFrame bs => decide (0 < bs.length)
  | .intervalClose => true
  | .meterSave => true
  | .supplyFailing => true
  | .meterPowerUp _ _ => true
  | .caseOpened => true
  | .displayAdvance => true
  | .identify => true
  | .totals nonce => decide (nonce.length < 65536)
  | .intervals nonce _ _ => decide (nonce.length < 65536)
  | .events nonce _ _ => decide (nonce.length < 65536)
  | .status => true
  | .stageAlwaysOn _ _ _ _ ident => decide (ident.length ≤ 1024)
  | .stageCompanion _ _ => true
  | .stageMemoryWafer _ => true
  | .stageFields _ => true
  | .stageClock _ _ => true
  | .stageTiles _ => true
  | .stageLinks _ _ _ _ _ => true
  | .readyPost => true
  | .warmRestart => true
  | .mbHeartBeat => true
  | .laserSourceModuleChange _ _ => true
  | .ethernetLinkChange _ _ => true
  | .busMasterEnable => true
  | .jtagAccess op => match op with | .memRead _ n => decide (n < 2 ^ 32) | .memWrite _ d => decide (d.length < 2 ^ 32) | _ => true
  | .hbmPerBankRefresh _ bank _ => decide (bank < 16)
  | .coolantConditionsLost => true
  | .displayReturnTimeout => true

end Sys2Proof
end

