-- ==== Sys2Proof/Tests/Slice0.lean ====
section
/-!
SUPPORT. Tests of the model: the block's queue, the checks of well-formedness, examples with the spec's own figures, and
one witness for every clause of the statements that has hypotheses. The expected values of the examples stand in the
section file that each one names.
-/

namespace Sys2Proof.Tests

set_option Elab.async false

open Sys2Proof Sys2Proof.Machine Sys2Proof.Safety

/-! ### The queue -/

/-- No row of the table gives bits, so no word spells a command. -/
theorem test_no_word_spells_a_command (n w : Nat) : decodeTableWord n w = none := rfl

theorem test_fetch_word_changes_nothing (s : State) (n w : Nat) : s.withFetchWord n w = s := rfl

theorem test_empty_queue_idles : step State.reset = .next State.reset := by rfl

theorem test_front_command_is_taken (s : State) :
    step { s with pending := [.sysReset 5, .caseOpened] } = exec (.sysReset 5) { s with pending := [.caseOpened] } := rfl

/-! ### Well-formedness: each check refuses an ill-formed command -/

namespace WellFormedness

def hdr : CmdHdr := ⟨0, 0, 0, false, false, false, false⟩

def okBuf : HostBuf := ⟨0, [⟨0x1000, 64⟩], true, [1, 2, 3]⟩

/-- More bytes than its pieces hold. -/
def badBuf : HostBuf := ⟨0, [⟨0x1000, 2⟩], true, [1, 2, 3]⟩

def okLine : LinkLine := ⟨0, 0, 0, false, List.replicate 32 0⟩

/-- One value too few. -/
def badLine : LinkLine := ⟨0, 0, 0, false, List.replicate 31 0⟩

def okNet : GalNetArgs := ⟨0, 4, 64, 0, List.replicate 16 0, List.replicate 16 0, 0, 0, List.replicate 6 0, 0⟩

theorem test_buffers_checked : bufOk okBuf = true ∧ bufOk badBuf = false ∧ bufOk { okBuf with kind := 256 } = false ∧
    bufOk { okBuf with segs := [⟨2 ^ 64, 64⟩] } = false ∧ bufOk { okBuf with segs := [⟨0, 2 ^ 64⟩] } = false := by decide +kernel

theorem test_lines_checked : lineOk okLine = true ∧ lineOk badLine = false ∧ lineOk { okLine with line := 524288 } = false := by
  decide +kernel

theorem test_wf_refuses_1 :
  ((
    [.devIdentify hdr badBuf, .devTreeConfig hdr 0 256 0 0 [] 0, .devTreeConfig hdr 0 0 256 0 [] 0,
      .devTreeConfig hdr 0 0 0 256 [] 0, .devTreeConfig hdr 0 0 0 0 (List.replicate 9 0) 0,
      .devTreeConfig hdr 0 0 0 0 [256] 0, .devReset hdr 256, .devFwLoad hdr 18446744073709551616 okBuf,
      .devFwLoad hdr 0 badBuf, .devFwCommit hdr 4294967296, .jobOpen hdr 0 badBuf 0, .jobClose hdr 256,
      .stepRun hdr 18446744073709551616 true true 0 0 okBuf, .stepRun hdr 0 true true 256 0 okBuf,
      .stepRun hdr 0 true true 0 256 okBuf, .stepRun hdr 0 true true 0 0 badBuf,
      .stepReplay hdr 18446744073709551616 0 okBuf, .stepReplay hdr 0 0 badBuf, .stepConst hdr 256 0 [],
      .stepConst hdr 0 18446744073709551616 [], .stepConst hdr 0 0 (List.replicate 9 0), .dataWrite hdr 0 badBuf,
      .dataRead hdr 0 badBuf, .dataStage hdr 18446744073709551616 0 0 [], .dataStage hdr 0 18446744073709551616 0 [],
      .dataStage hdr 0 0 18446744073709551616 []] : List Instr).all (fun i => !i.wf)) = true := by decide +kernel

theorem test_wf_refuses_2 :
  ((
    [.dataStage hdr 0 0 0 (List.replicate 65 0), .dataRetain hdr 256 0 0 0, .dataRetain hdr 0 4294967296 0 0,
      .dataRetain hdr 0 0 4294967296 0, .dataRetain hdr 0 0 0 256, .stateLrRead hdr 18446744073709551616 0 okBuf,
      .stateLrRead hdr 0 4294967296 okBuf, .stateLrRead hdr 0 0 badBuf, .stateReplayRead hdr badBuf, .stateJob hdr badBuf,
      .ckptList hdr badBuf, .ckptRead hdr 256 0 okBuf, .ckptRead hdr 0 18446744073709551616 okBuf,
      .ckptRead hdr 0 0 badBuf, .ckptRelease hdr 256, .ckptRestore hdr 256 0 okBuf, .ckptRestore hdr 0 256 okBuf,
      .ckptRestore hdr 0 0 badBuf, .ckptKey hdr badBuf, .galNet hdr ({ okNet with port := 256 }),
      .galNet hdr ({ okNet with ipVersion := 256 }), .galNet hdr ({ okNet with srcIp := List.replicate 17 0 }),
      .galNet hdr ({ okNet with dstIp := List.replicate 17 0 }), .galNet hdr ({ okNet with dstMac := List.replicate 7 0 }),
      .galKey hdr badBuf, .pwrPolicy hdr 256 0] : List Instr).all (fun i => !i.wf)) = true := by decide +kernel

theorem test_wf_refuses_3 :
  ((
    [.pwrPolicy hdr 0 4294967296, .pwrState hdr 256, .dbgChallenge hdr 256 okBuf, .dbgChallenge hdr 0 badBuf,
      .dbgUnlock hdr 256 okBuf 0, .dbgUnlock hdr 0 badBuf 0, .dbgMem hdr 256 0 okBuf, .dbgMem hdr 0 0 badBuf,
      .dbgTrace hdr 0 badBuf, .dbgCounters hdr 0 4294967296 okBuf, .dbgCounters hdr 0 0 badBuf,
      .attQuote hdr (List.replicate 31 0) okBuf, .attQuote hdr (List.replicate 32 0) badBuf, .attCert hdr badBuf,
      .fiArm hdr 65536 0 0 0, .fiArm hdr 0 256 0 0, .fiArm hdr 0 0 4294967296 0, .fiDisarm hdr 65536, .fiStatus hdr badBuf,
      .progressEntry 0 0 256 0 0, .areaOpen 0 0 68719476736 0 0 0, .areaOpen 0 0 0 16777217 0 0, .areaOpen 0 0 0 0 32768 0,
      .areaOpen 0 0 0 0 (-32769) 0, .areaOpen 0 0 0 0 0 4294967297, .backgroundZeroer 0 32768] : List Instr).all (fun i => !i.wf)) = true := by decide +kernel

theorem test_wf_refuses_4 :
  ((
    [.part 0 badLine, .globalLine 0 badLine, .tdecl 0 0 0 32768, .tdecl 0 0 0 (-32769),
      .amax 0 0 (List.replicate 33 0) true, .verdict 0 4 0 0, .verdict 0 0 256 0,
      .presenceChange true true (List.replicate 1025 0), .markFrame [], .stageAlwaysOn 0 0 0 0 (List.replicate 1025 0),
      .hbmPerBankRefresh 0 16 0, .commandTake (some (List.replicate 127 0)), .commandTake (some (List.replicate 129 0)),
      .progressEntry 0 0 0 2 1, .registerWrite (.bar0 65536 8 0), .registerWrite (.bar0 0 3 0),
      .registerWrite (.cfg .host (.tile 0 0) 33554432 0), .blockTrailer 0 ⟨0, 0, false, 0, 65536, 0, 0, false⟩,
      .id 0 ⟨0, 0, false, 0, 0, 3⟩, .patrolScrub (.scratchpad ⟨0, 0⟩ 98304) .clean,
      .patrolScrub (.bds ⟨0, 0⟩ 4194304) .clean, .patrolScrub (.hbm 0 1073741824) .clean,
      .patrolScrub (.companion 34359738368) .clean] : List Instr).all (fun i => !i.wf)) = true := by decide +kernel

theorem test_wf_accepts_1 :
  ((
    [.devIdentify hdr okBuf, .devTreeConfig hdr 0 0 0 0 [] 0, .devReset hdr 0, .devFwLoad hdr 0 okBuf, .devFwCommit hdr 0,
      .jobOpen hdr 0 okBuf 0, .jobClose hdr 0, .stepRun hdr 0 true true 0 0 okBuf, .stepReplay hdr 0 0 okBuf,
      .stepConst hdr 0 0 [], .dataWrite hdr 0 okBuf, .dataRead hdr 0 okBuf, .dataStage hdr 0 0 0 [],
      .dataRetain hdr 0 0 0 0, .stateLrRead hdr 0 0 okBuf, .stateReplayRead hdr okBuf, .stateJob hdr okBuf,
      .ckptList hdr okBuf, .ckptRead hdr 0 0 okBuf, .ckptRelease hdr 0, .ckptRestore hdr 0 0 okBuf, .ckptKey hdr okBuf,
      .galNet hdr okNet, .galKey hdr okBuf, .pwrPolicy hdr 0 0, .pwrState hdr 0, .dbgChallenge hdr 0 okBuf,
      .dbgUnlock hdr 0 okBuf 0, .dbgMem hdr 0 0 okBuf, .dbgTrace hdr 0 okBuf, .dbgCounters hdr 0 0 okBuf,
      .attQuote hdr (List.replicate 32 0) okBuf] : List Instr).all Instr.wf) = true := by decide +kernel

theorem test_wf_accepts_2 :
  ((
    [.attCert hdr okBuf, .fiArm hdr 0 0 0 0, .fiDisarm hdr 0, .fiStatus hdr okBuf, .progressEntry 0 0 0 0 0,
      .areaOpen 0 0 0 0 0 0, .backgroundZeroer 0 0, .blockTrailer 0 (⟨0, 0, false, 0, 0, 0, 0, false⟩), .part 0 okLine,
      .globalLine 0 okLine, .tdecl 0 0 0 0, .amax 0 0 [] true, .verdict 0 0 0 0, .presenceChange true true [],
      .markFrame [0], .totals [], .intervals [] 0 0, .events [] 0 0, .stageAlwaysOn 0 0 0 0 [], .hbmPerBankRefresh 0 0 0,
      .commandTake (some (List.replicate 128 0)), .commandTake none, .registerWrite (.bar0 0x100 4 0),
      .registerWrite (.cfg .host (.tile 0 0) 0 0), .id 0 ⟨0, 0, false, 0, 0, 2⟩,
      .patrolScrub (.scratchpad ⟨0, 0⟩ 98303) .clean, .patrolScrub (.bds ⟨0, 0⟩ 4194303) .clean, .jtagAccess (.memRead 0 4)] : List Instr).all Instr.wf) = true := by decide +kernel

theorem test_wf_refuses_long_nonces (bs : List Byte) (h : 65536 ≤ bs.length) :
    Instr.wf (.totals bs) = false ∧ Instr.wf (.intervals bs 0 0) = false ∧ Instr.wf (.events bs 0 0) = false := by
  simp only [Instr.wf, decide_eq_false_iff_not]; omega

theorem test_wf_refuses_long_jtag (bs : List Byte) (n : Nat) (a : W64) (h : 2 ^ 32 ≤ bs.length) (hn : 2 ^ 32 ≤ n) :
    Instr.wf (.jtagAccess (.memRead a n)) = false ∧ Instr.wf (.jtagAccess (.memWrite a bs)) = false := by
  simp only [Instr.wf, decide_eq_false_iff_not]; omega

end WellFormedness

/-! ### Sample states -/

/-- An instruction word. -/
def word (cls func dst s1 s2 : Nat) (rnd pred : Bool := false) (imm : Nat := 0) : W64 :=
  BitVec.ofNat 64 (cls * 2^59 + func * 2^53 + dst * 2^44 + s1 * 2^34 + s2 * 2^24 + (if rnd then 2^23 else 0) + (if pred then 2^22 else 0) + imm)

/-- A repair map over 20 logical positions. -/
def idMap : SMap (Option Nat) := (List.range 20).map (fun i => (i, some i))

/-- A wafer with every field powered. -/
def upWafer : Wafer := { Wafer.reset with off := 0, repair := { Repair.reset with map := idMap } }

/-- An active module with no job. -/
def upState : State := { State.reset with wafer := upWafer, pwr := { Pwr.reset with phase := .active } }

/-- Lanes of the vector registers that the samples read. -/
def stdLanes : SMap W32 :=
  ((List.range 64).map (fun i => (i, BitVec.ofNat 32 (0x3F800000 + i * 0x12345)))) ++
  ((List.range 64).map (fun i => (64 + i, BitVec.ofNat 32 (0xC0000000 + i * 0x23456)))) ++
  ((List.range 64).map (fun i => (128 + i, BitVec.ofNat 32 (i % 40 + 1)))) ++
  ((List.range 64).map (fun i => (192 + i, BitVec.ofNat 32 (0x7F000000 + i * 0x040000)))) ++
  ((List.range 256).map (fun i => (256 + i, BitVec.ofNat 32 (i * 7 + 3))))

def stdScalars : SMap W64 := [(0, 0x100), (1, 5), (2, 0x80), (3, 0x63), (4, 0x12345678), (5, 0x8000000000000003), (6, 0x3F800000), (7, 0x103), (9, 0x10FF000012345678), (10, 0x00001F0000FF), (11, 3)]

def stdCore (w : W64) : Vc := { Vc.reset with v := stdLanes, s := stdScalars, lm := 0xF0F0F0F00F0F1234, istore := [(7, w)], phase := .running, run := true, pc := 7, winEn := true, consts := [(3, 0x40000000)] }

/-- A running tile whose store holds the word `w` at its program counter. -/
def stdTile (w : W64) : Tile := { Tile.reset with vc := stdCore w, sp := (List.range 600).map (fun i => (i, BitVec.ofNat 8 (i % 255 + 1))), ctrs := [(0x19100, ⟨7, false⟩)] }

/-- Tiles 5 and 70 running the word `w`. -/
def withWord (w : W64) (g : Tile → Tile := id) (h : State → State := id) : State :=
  h { upState with wafer := { upWafer with tiles := [(5, g (stdTile w)), (70, stdTile w)] } }

def codeV (r : Nat) : Nat := r

def codeS (n : Nat) : Nat := 32 + n

def codeTile (j : Nat) : Nat := 64 + j

def sp (k : Nat) : Nat := 96 + k

def codeLm : Nat := 128

def codeLine (l : Nat) : Nat := 256 + l

def codeBc (n : Nat) : Nat := 512 + n

def codeImm : Nat := 768

def stackAddr (n : Nat) : W64 := BitVec.ofNat 64 (3 * 2^56 + n)

def compAddr (n : Nat) : W64 := BitVec.ofNat 64 (4 * 2^56 + n)

/-- A job descriptor. -/
def desc0 : JobDesc := { seed := 5, qmult := 0x40000000, staleness := 1, qhold := false, unmeteredOk := false, ckptSm4 := false, galSm4 := false, lsInit := 15, lsMin := 0, lsMax := 24, amaxTgt := 12, groups := 2, cleanN := 3, ckptEvery := 0, ckptSlots := 2, galStart := 0, galPolicy := 0, galWindow := 1, galEvery := 1, ckptBytes := 0, lrDepth := 4, tensors := 2, scaleTable := stackAddr 0x1000000 }

def red1 : Reduction := { id := 1, toff := 0, rank := 1, low := true, slow := false, wcRnd := false, back := false, nstate := 1, prog := 0, rim := 0, wcFmt := 0, pArea := 0, qArea := 1, group := 0, fbase := 0x800000, n := 2, k := 2, sgroup := 0, consts := [0x3f800000] }

def red2 : Reduction := { red1 with id := 2, slow := true, rim := 1, pArea := 4, qArea := 5, group := 1, sgroup := 1, nstate := 0 }

def pl1 : Placement := { id := 1, master0 := stackAddr 0, master1 := stackAddr 0x10000, state0 := stackAddr 0x20000, state1 := stackAddr 0x30000, wc := stackAddr 0x40000, bwc := 0, first := 3, count := 2 }

def pl2 : Placement := { pl1 with id := 2, master0 := compAddr 0, master1 := compAddr 0x10000, state0 := compAddr 0x20000, state1 := compAddr 0x30000, wc := stackAddr 0x1040000, first := 8, count := 1 }

def prog0 : SMap W32 := [(0, BitVec.ofNat 32 (3 * 2^26 + 0x11 * 2^20 + 0x11 * 2^14 + 0x10 * 2^8)), (1, BitVec.ofNat 32 (1 * 2^26 + 0x12 * 2^20 + 0x10 * 2^14))]

/-- A job of two low-rank tensors, one in each tier. -/
def job0 : Job := { id := 7, sm3 := 9, bytes := 0, desc := desc0, reds := [red1, red2], programs := prog0, flagged := [true, false], places := [pl1, pl2], gallery := [], signers := [], consts := [], unmetered := false }

def run0 : Run := { left := some 2, verify := false, trace := false, ref := 0, slot := 0, stop := false, refs := [], traceTo := [], fresh := true }

def batch0 (n : Nat) : Batch := ⟨n, 0, 64, []⟩

def train0 : Train := { Train.reset with state := .running, job := some job0, next := 5, rsel := true, lamG := 15, clean := 2, run := some run0, batches := [batch0 5], hist := [1] }

/-- A module with an open job that runs. -/
def jobState (g : Train → Train := id) (h : State → State := id) : State := h { upState with train := g train0 }

def st0 : StartState := { cads := [], epoch := 0, rsel := true, lamG := 15, clean := 2, skips := 0, fallback := false, groups := [], hist := [1] }

def inStep (g : StepState → StepState := id) (t : Train) : Train := { t with start := some st0, step := g { StepState.reset with begun := true } }

def setRims (l : List (Nat × Rim)) (s : State) : State := { s with wafer := { s.wafer with rims := l } }

def stg (n : BitVec 8) (s : State) : State := {s with host := {s.host with mb := {s.host.mb with stage := n}}}

def ht (f : HostSide → HostSide) (s : State) : State := {s with host := f s.host}

def lev (l : Level) (s : State) : State := {s with sec := {s.sec with level := l}}

def wf (f : Wafer → Wafer) (s : State) : State := {s with wafer := f s.wafer}

def pw (f : Pwr → Pwr) (s : State) : State := {s with pwr := f s.pwr}

def takenProg (op : Nat) : Prog := ⟨1, 3, op, false, false, .taken, 0⟩

def otherProg (op : Nat) (st : ProgState) (c : BitVec 16 := 9) : Prog := ⟨0, c, op, false, false, st, 0⟩

def R (f : Ring → Ring := id) : Ring := f {Ring.reset with sqBase := 0x10000, cqBase := 0x20000, en := true, state := .running, sqTail := 2, reserved := 1}

/-- Three powered fields, two listed tiles. -/
def threeFields (s : State) : State := { s with wafer := { s.wafer with off := ~~~(7#84), tiles := [(0, {Tile.reset with sync := {SyncBlock.reset with flags := 1}}), (70, Tile.reset)], repair := {s.wafer.repair with fields := (List.range 84).filterMap (fun f => if f < 3 then none else some (f, 6))}, fields := [(0, {Field.reset with level := 16}), (1, {Field.reset with level := 16}), (2, {Field.reset with level := 7})]} }

def img : FwImage := ⟨1, 0, 4, 5, 6⟩

/-- A state in which command `op` has been taken. -/
def takenState (op : Nat) (s : State) : State := s |> stg 0x10 |> ht (fun h => {h with rings := [(0, R), (1, R)], progs := [otherProg 0x0103 .event, takenProg op], busMast := true, fw := {h.fw with stored := some img, running := some img}})

def activeState : State := threeFields upState

def runningJob := threeFields (jobState id)

def jobIdle (st : JobState) : State := threeFields (jobState (fun t => {t with state := st, run := none}))

def H : CmdHdr := ⟨1, 3, 7, false, false, false, false⟩

def buf (n : Nat) (d : List Byte := []) : HostBuf := ⟨0, [⟨0x4000, n⟩], true, d⟩

/-! ### Examples with the spec's own figures -/

namespace Examples

/-- The element of the first worked example of 02_numerics.md at scale `S`: three BF16 product pairs. -/
def elem (S : Int) : AccElem :=
  [(0x4040, 0x4020), (0xBEA0, 0x3FA0), (0xBF81, 0x3080)].foldl
    (fun a p => addProduct S a (fpMul (fpDecode bf16 p.1) (fpDecode bf16 p.2))) ⟨0, false, false, false, false⟩

/-- 02, one element at an automatic scale: A = 488,552,529,855 in units of 2^-36, drained as FP32 0x40E3_8000. -/
theorem test_element_at_scale_10 : (elem 10).sum = 488552529855 ∧ elemF32 10 false (elem 10) = 0x40E38000 := by decide +kernel

/-- 02, a lock that is too low: the tile overflows at S = -15, and at -7 the sum is exact. -/
theorem test_element_locked_low : overflows [elem (-15)] = true ∧ overflows [elem (-7)] = false ∧
    (elem (-7)).sum = 0x00E37FFFFF7F0000 := by decide +kernel

/-- 02, exact-128 against FP32: in every order A = 2^70, converted to 1.0; FP32 loses the 1. -/
theorem test_exact128_order :
    acc128Addend 25 0x4B800000 = some (2 ^ 94) ∧ acc128Addend 25 0x3F800000 = some (2 ^ 70) ∧
    acc128Addend 25 0xCB800000 = some (-2 ^ 94) ∧ acc128ToF32 25 0 (BitVec.ofNat 128 (2 ^ 70)) = 0x3F800000 ∧
    (f32Add (f32Add 0x4B800000 0x3F800000).1 0xCB800000).1 = 0 := by decide +kernel

/-- 03, a locked tile that repeats: the slot's words. -/
theorem test_slot_words :
    let c : Cad := { Cad.reset with bank0 := [(20, 0xFC0200BF001F8C01), (21, 0x0020040000200100), (22, 0x1000)] }
    let s := slotAt c ⟨false, 0, 5, 0⟩
    s.kind = 1 ∧ s.fmtA = 0 ∧ s.fmtB = 0 ∧ s.locked = true ∧ s.sLock = -15 ∧ s.fp32 = false ∧ s.k = 192 ∧ s.sets = 3 ∧ s.rows = 64 ∧
      aAddr s ⟨false, 0, 5, 1⟩ = 0x6000 ∧ bAddr s ⟨false, 0, 5, 2⟩ = 0x14000 ∧ dAddr s ⟨false, 0, 5, 0⟩ = 0x40000 := by
  decide +kernel

/-- A fixed-64 tile whose first element is `a`. -/
def tile64 (S : Int) (a : Int) : List Byte := header64 S 0 0 32 S 1 ++ leBytes 8 (uint 64 a) ++ List.replicate (8 * 4095) 0

/-- 05, one element split and converted: part 1 at S = 9, part 2 at S = 5, joined at S = 9 with a split mismatch. -/
def joined : Join :=
  let h (S : Int) : List Byte := header64 S 0 0 32 S 1
  let j : Join := { joinSet (h 9) with elems := [(1030792151040, false)] }
  joinClose { joinAcc j (h 5) with elems := [(j.elems.getD 0 (0, false)).1 + ashr (-858993459232) (9 - 5)].map (fun v => (v, false)) }

theorem test_join_of_two_scales : joined.elems = [(977105059838, false)] ∧ joined.sj = 9 ∧ joined.mismatch = true := by
  decide +kernel

/-- The same through FP32 gives BF16 0x40E4, directly 0x40E3 (05). -/
theorem test_convert_once_or_twice :
    (f32OfVal (fix64Val 9 977105059838)).1 = 0x40E38000 ∧ (fpConvert bf16 .nearest (f32Val 0x40E38000)).1 = 0x40E4 ∧
    (fpConvert bf16 .nearest (fix64Val 9 977105059838)).1 = 0x40E3 := by decide +kernel

/-- 06, turning four dY blocks: the descriptor's words. -/
theorem test_descriptor_words :
    let d := descOf [0x010001FC00020000, 0x010001FC00030000, 0x0003003F00000080, 0x0000008000000080, 0x0000200000002000, 0,
      0x11010100, 0]
    d.x = 128 ∧ d.y = 63 ∧ d.z = 3 ∧ d.srcY = 128 ∧ d.dstY = 128 ∧ d.srcZ = 8192 ∧ d.dstZ = 8192 ∧ d.fmt = 0 ∧
      d.transpose = true ∧ d.block = false ∧ d.doneKind = 1 ∧ d.doneId = 17 ∧ d.rsvd = 0 ∧
      place upWafer 5 d.src = .scratch 5 0x20000 := by decide +kernel

/-- 07, a read from rim4: through field 41, along row 4; with field 39 dark, around it by the row to the north. -/
theorem test_route_to_rim4 :
    rimEntry 37 4 = 41 ∧ routeHubs 37 41 = [37, 38, 39, 40, 41] ∧
    routeAround 39 37 41 = some [37, 38, 28, 29, 30, 40, 41] ∧ routeSetOf (1#84 <<< 39) = 40 := by decide +kernel

/-- 10, one fast-tier element: momentum and weight after the two instructions, and the BF16 copy. -/
theorem test_fast_tier_element :
    let words : SMap W32 := [(0, 0x15249840), (1, 0x15149944)]
    let env := runProgram words 0 256 0 [(0x10, acc128ToF32 23 15 (BitVec.ofNat 128 (2 ^ 84))), (0x11, 0x3F800000),
      (0x12, 0x3E800000), (0x18, 0x3F600000), (0x19, 0xBC000000)]
    acc128ToF32 23 15 (BitVec.ofNat 128 (2 ^ 84)) = 0x3E000000 ∧ mget 0 env 0x12 = 0x3EB00000 ∧ mget 0 env 0x11 = 0x3F7F5000 ∧
      (fpConvert bf16 .nearest (f32Val 0x3F7F5000)).1 = 0x3F7F := by decide +kernel

/-- 11: H = 3 · 2^-7 with AMAX_TGT 12 gives λ = 18; without per-tensor scaling λ_G stands. -/
theorem test_group_scale : lamRule { desc0 with lsMin := 0, lsMax := 24, amaxTgt := 12 } true 3 [0x3CC00000, 0x3C000000] = 18 ∧
    lamRule desc0 false 3 [0x3CC00000] = 3 := by decide +kernel

/-- 11, two roundings under one call: the generator's conformance vector, and the two copies. -/
theorem test_philox :
    (List.range 4).map (fun i => philoxWord 0 0 0 i 0) = [0x6627E8D5, 0xE169C58D, 0xBC57AC4C, 0x9B00DBD8] ∧
    (fpConvert bf16 (.stochastic 0x6627E8D5) (f32Val 0x3F804000)).1 = 0x3F80 ∧
    (fpConvert bf16 (.stochastic 0xE169C58D) (f32Val 0x3F804000)).1 = 0x3F81 := by decide +kernel

/-- 12, a verifying run that stops: the completion's four words. -/
theorem test_completion_words :
    completionBytes { Ring.reset with sqHead := 26, phase := true } 0x42 0x0E false 0 1287 0x501 0x44000 =
      leBytes 8 0x0001000E001A0042 ++ leBytes 8 0x507 ++ leBytes 8 0x501 ++ leBytes 8 0x44000 := by decide +kernel

/-- 00 and 20: config addresses of the spec's examples. -/
theorem test_config_addresses :
    cfgAddr 0x5280000040 = some (.field 37, 0x40) ∧ cfgAddr 0x1298000040 = some (.tile 37 12, 0x40) ∧
    cfgAddr 0x3000041528 = some (.rim 0, 0x41528) ∧ cfgAddr 0x8280008008 = some (.group 5, 0x8008) := by decide +kernel

/-- 19, a warm loop: 37 °C and 27 L/min give a coolant limit of 22.0 kW. -/
theorem test_warm_loop : coolantLimit { State.reset with pwr := { Pwr.reset with
    gov := { Pwr.reset.gov with inlet := 370, flow := 270 } } } = 22000 := by decide +kernel

/-- 17, one short job: the interval record that the close mark ends. -/
theorem test_short_job_interval :
    let m : Meter := { Meter.reset with
      powered := true
      regs := { Meter.reset.regs with eA := 52760527211, eB := 51904233235, eT := 119000 + 114333 }
      interval := ⟨711403, 52760408211, 51904118902, 0, [(⟨4, 7, 9002⟩, false)]⟩ }
    ((closeInterval m).records.getLast?.map (fun r => (r.no, r.deA, r.deB, r.endA, r.endB, r.seq))) =
      some (711403, 119000, 114333, 52760527211, 51904233235, 9002) := by decide +kernel

/-- 20, a group write that two tiles refuse: f37.t3 takes the header, t4 and t9 run bank 0; t4 is reported, of two. -/
def groupWrite : State :=
  let busy : Tile := { Tile.reset with cad := { Cad.reset with run := true } }
  { upState with
    wafer := { upWafer with tiles := [(2371, Tile.reset), (2372, busy), (2377, busy)] }
    sec := { State.reset.sec with level := .invasive }
    host := { State.reset.host with mb := { State.reset.host.mb with stage := 0x10 }
                                    cfg := { State.reset.host.cfg with busy := true
                                                                       cur := some ⟨.host, 0x8280008008, true, 0x0000013700030001F, [2371, 2372, 2377], []⟩ } } }

/-- With every packet at its target and every answer back, the access ends. -/
theorem test_group_write :
    let s := hurryAccess groupWrite
    s.host.cfg.status = ⟨3, 37, 4, 2⟩ ∧ s.host.cfg.busy = false ∧
      (tileAt s.wafer 2371).cad.hdr0 = 0x0000013700030001F &&& 0xFFFFFFFFFFFF00FF ∧ (tileAt s.wafer 2372).cad.hdr0 = 0 := by
  decide +kernel

/-- 7, R259, by hand: from t12 (row 1, column 4) to t30 (row 3, column 6) along the row to column 6, then down. -/
theorem test_mesh_route :
    meshRoute (64 * 37 + 12) (64 * 37 + 30) = [12, 13, 14, 22, 30].map (fun t => 64 * 37 + t) := by decide

/-- 20, R713, R715: MB_IDENT reads step 0xB1 and format 1, MB_EVENT_MASK its reset value 1; 12, R457: what lies outside reads 0. -/
theorem test_mailbox_reads :
    barRead .reset 0x00 = 0x0000_B101_0000_0000 ∧ barRead .reset 0x38 = 1 ∧ barRead .reset 0x2000 = 0 ∧
      barRead .reset 0x60 = 0 := by decide +kernel

end Examples

/-! ### Reset -/

namespace Reset

theorem witness_SysResetByItsLength_1 :
    ∃ (n : Nat), 1000 ≤ n :=
  ⟨1000, by decide +kernel⟩

theorem witness_SysResetByItsLength_2 :
    ∃ (n : Nat), n < 100 :=
  ⟨0, by decide +kernel⟩

theorem witness_SysResetByItsLength_3 :
    ∃ (n : Nat), 100 ≤ n ∧ n < 1000 :=
  ⟨100, by decide +kernel⟩

end Reset

/-! ### Control -/

namespace Control

theorem witness_ControlInstructionsComplete_1 :
    ∃ (s : State) (t : TileId) (v : Nat) (n : Nat) (m : Nat), calm s = true ∧ coreIssues s.wafer (tkey t) 0 v ∧ v ≠ 0 ∧
      n ≠ 0 ∧ m ≠ 0 :=
  ⟨withWord (word 0 3 0 0 0 (imm := 9)), { f := 0, t := 5 }, 27021597764222985, 1, 1,
    by unfold coreIssues tileSound; decide +kernel⟩

theorem witness_ControlInstructionsComplete_2 :
    ∃ (s : State) (t : TileId) (v : Nat) (n : Nat) (m : Nat), calm s = true ∧ coreIssues s.wafer (tkey t) 0 v ∧ v ≠ 0 ∧
      (n = 0 ∨ m = 0) :=
  ⟨withWord (word 0 3 0 0 0 (imm := 9)), { f := 0, t := 5 }, 27021597764222985, 0, 0,
    by unfold coreIssues tileSound; decide +kernel⟩

theorem witness_ControlInstructionsComplete_3 :
    ∃ (s : State) (t : TileId) (v : Nat), calm s = true ∧ coreIssues s.wafer (tkey t) 0 v ∧ v ≠ 0 ∧
      storesDone s.wafer (tkey t) = true :=
  ⟨withWord (word 0 3 0 0 0 (imm := 9)), { f := 0, t := 5 }, 27021597764222985,
    by unfold coreIssues tileSound; decide +kernel⟩

theorem witness_ControlInstructionsComplete_4 :
    ∃ (s : State) (t : TileId) (v : Nat) (p : Fin 8), calm s = true ∧ coreIssues s.wafer (tkey t) 0 v ∧ v ≠ 0 ∧ p.val ≤ 5 :=
  ⟨withWord (word 0 3 0 0 0 (imm := 9)), { f := 0, t := 5 }, 27021597764222985, 0,
    by unfold coreIssues tileSound; decide +kernel⟩

end Control

/-! ### Scalars -/

namespace Scalars

def lns : List State :=
  [3,4,7].flatMap (fun c => [withWord (word c 0 9 (codeV 0) (codeV 1)), withWord (word c 0 (codeLine 1) (codeV 1) (codeV 2) (pred := true)), withWord (word c 0 (codeLine 255) (codeLine 0) (codeBc 1)),
    withWord (word c 0 codeLm (codeV 1) codeImm (imm := 0x0FFFFF)), withWord (word c 0 codeLm (codeV 2) codeImm (imm := 0x300003)), withWord (word c 0 1 (codeV 3) (codeV 3) (pred := true)), withWord (word c 0 0 (codeV 0) codeImm (imm := 0x200000 + 0x1C938))])

theorem witness_ScalarInstructionsComplete_1 :
    ∃ (s : State) (t : TileId) (v : Nat) (a : W64) (b : W64) (d : Dest), calm s = true ∧ coreIssues s.wafer (tkey t) 1 v ∧
      srcScalar s.wafer (tkey t) v (wSrc1 v) = (some a, s.wafer) ∧
      srcScalar s.wafer (tkey t) v (wSrc2 v) = (some b, s.wafer) ∧ scalarDest s.wafer (tkey t) v = (some d, s.wafer) ∧
      b.toNat < 64 :=
  ⟨withWord (word 1 0 (32+9) (codeS 4) (codeS 1)), { f := 0, t := 5 }, 577182650960183296, 0x12345678, 5, .s 9,
    by unfold coreIssues tileSound; decide +kernel⟩

theorem witness_ScalarInstructionsComplete_2 :
    ∃ (s : State) (t : TileId) (v : Nat) (a : W64) (b : W64) (d : Dest), calm s = true ∧ coreIssues s.wafer (tkey t) 1 v ∧
      srcScalar s.wafer (tkey t) v (wSrc1 v) = (some a, s.wafer) ∧
      srcScalar s.wafer (tkey t) v (wSrc2 v) = (some b, s.wafer) ∧ scalarDest s.wafer (tkey t) v = (some d, s.wafer) ∧
      64 ≤ b.toNat :=
  ⟨withWord (word 1 0 codeLm (codeS 5) (codeLm)), { f := 0, t := 5 }, 578713189919752192, 0x8000000000000003,
    0xf0f0f0f00f0f1234, .lm, by unfold coreIssues tileSound; decide +kernel⟩

theorem witness_ScalarInstructionsComplete_3 :
    ∃ (s : State) (t : TileId) (v : Nat) (a : W64) (cw : CoreWaits) (d : Dest), calm s = true ∧
      coreIssues s.wafer (tkey t) 2 v ∧ a.toNat % 8 = 0 ∧ a.toNat + 8 ≤ spBytes ∧
      srcScalar (coreWaits s.wafer (tkey t) 2 cw) (tkey t) v (wSrc1 v) = (some a, coreWaits s.wafer (tkey t) 2 cw) ∧
      scalarDest (coreWaits s.wafer (tkey t) 2 cw) (tkey t) v = (some d, coreWaits s.wafer (tkey t) 2 cw) :=
  ⟨withWord (word 2 0 (32+9) (codeS 0) (codeS 0)), { f := 0, t := 5 }, 1153643334527352832, 0x100,
    { narrow := 0, starved := 0, window := 0 }, .s 9, by unfold coreIssues tileSound; decide +kernel⟩

theorem witness_ScalarInstructionsComplete_4 :
    ∃ (s : State) (t : TileId) (v : Nat) (a : W64) (cw : CoreWaits) (val : W64), calm s = true ∧
      coreIssues s.wafer (tkey t) 2 v ∧ a.toNat % 8 = 0 ∧ a.toNat + 8 ≤ spBytes ∧
      srcScalar (coreWaits s.wafer (tkey t) 2 cw) (tkey t) v (wSrc2 v) = (some a, coreWaits s.wafer (tkey t) 2 cw) ∧
      srcScalar (coreWaits s.wafer (tkey t) 2 cw) (tkey t) v (wSrc1 v) = (some val, coreWaits s.wafer (tkey t) 2 cw) :=
  ⟨withWord (word 2 0 (32+9) (codeS 0) (codeS 0)), { f := 0, t := 5 }, 1153643334527352832, 0x100,
    { narrow := 0, starved := 0, window := 0 }, 0x100, by unfold coreIssues tileSound; decide +kernel⟩

theorem witness_LaneInstructionsComplete_1 :
    ∃ (s : State) (t : TileId) (cls : Nat) (v : Nat) (a : List W32) (b : List W32) (cw : CoreWaits) (d : Dest),
      calm s = true ∧ coreIssues s.wafer (tkey t) cls v ∧
      srcLanes (coreWaits s.wafer (tkey t) cls cw) (tkey t) v (wSrc1 v) = (some a, coreWaits s.wafer (tkey t) cls cw) ∧
      srcLanes (coreWaits s.wafer (tkey t) cls cw) (tkey t) v (wSrc2 v) = (some b, coreWaits s.wafer (tkey t) cls cw) ∧
      cls = 3 ∧ laneDest (coreWaits s.wafer (tkey t) cls cw) (tkey t) v = (some d, coreWaits s.wafer (tkey t) cls cw) := by
  refine ⟨(lns).getD 0 .reset, { f := 0, t := 5 }, 3, 1729540586601447424, _, _, { narrow := 0, starved := 0, window := 0 },
    .v 9, ?_, by unfold coreIssues tileSound; decide +kernel, rfl, rfl, ?_, ?_⟩ <;> decide +kernel

theorem witness_LaneInstructionsComplete_2 :
    ∃ (s : State) (t : TileId) (cls : Nat) (v : Nat) (a : List W32) (b : List W32) (cw : CoreWaits), calm s = true ∧
      coreIssues s.wafer (tkey t) cls v ∧
      srcLanes (coreWaits s.wafer (tkey t) cls cw) (tkey t) v (wSrc1 v) = (some a, coreWaits s.wafer (tkey t) cls cw) ∧
      srcLanes (coreWaits s.wafer (tkey t) cls cw) (tkey t) v (wSrc2 v) = (some b, coreWaits s.wafer (tkey t) cls cw) ∧
      cls = 3 ∧ destOf (wDst v) = some Dest.lm := by
  refine ⟨(lns).getD 3 .reset, { f := 0, t := 5 }, 3, 1731634086789775359, _, _, { narrow := 0, starved := 0, window := 0 },
    ?_, by unfold coreIssues tileSound; decide +kernel, rfl, rfl, ?_, ?_⟩ <;> decide +kernel

theorem witness_LaneInstructionsComplete_3 :
    ∃ (s : State) (t : TileId) (cls : Nat) (v : Nat) (a : List W32) (b : List W32) (cw : CoreWaits) (d : Dest) (fn : IntFn),
      calm s = true ∧ coreIssues s.wafer (tkey t) cls v ∧
      srcLanes (coreWaits s.wafer (tkey t) cls cw) (tkey t) v (wSrc1 v) = (some a, coreWaits s.wafer (tkey t) cls cw) ∧
      srcLanes (coreWaits s.wafer (tkey t) cls cw) (tkey t) v (wSrc2 v) = (some b, coreWaits s.wafer (tkey t) cls cw) ∧
      cls = 4 ∧ laneDest (coreWaits s.wafer (tkey t) cls cw) (tkey t) v = (some d, coreWaits s.wafer (tkey t) cls cw) ∧
      (fn = IntFn.add ∨ fn = IntFn.sub ∨ fn = IntFn.shl ∨ fn = IntFn.shr ∨ fn = IntFn.sar ∨ fn = IntFn.and ∨ fn = IntFn.or ∨ fn = IntFn.xor ∨ fn = IntFn.not) := by
  refine ⟨(lns).getD 7 .reset, { f := 0, t := 5 }, 4, 2306001338904870912, _, _, { narrow := 0, starved := 0, window := 0 },
    .v 9, .add, ?_, by unfold coreIssues tileSound; decide +kernel, rfl, rfl, ?_, ?_, ?_⟩ <;> decide +kernel

theorem witness_LaneInstructionsComplete_4 :
    ∃ (s : State) (t : TileId) (cls : Nat) (v : Nat) (a : List W32) (b : List W32) (cw : CoreWaits), calm s = true ∧
      coreIssues s.wafer (tkey t) cls v ∧
      srcLanes (coreWaits s.wafer (tkey t) cls cw) (tkey t) v (wSrc1 v) = (some a, coreWaits s.wafer (tkey t) cls cw) ∧
      srcLanes (coreWaits s.wafer (tkey t) cls cw) (tkey t) v (wSrc2 v) = (some b, coreWaits s.wafer (tkey t) cls cw) ∧
      cls = 4 ∧ destOf (wDst v) = some Dest.lm := by
  refine ⟨(lns).getD 10 .reset, { f := 0, t := 5 }, 4, 2308094839093198847, _, _, { narrow := 0, starved := 0, window := 0 },
    ?_, by unfold coreIssues tileSound; decide +kernel, rfl, rfl, ?_, ?_⟩ <;> decide +kernel

theorem witness_LaneInstructionsComplete_5 :
    ∃ (s : State) (t : TileId) (cls : Nat) (v : Nat) (a : List W32) (b : List W32) (cw : CoreWaits) (d : Dest),
      calm s = true ∧ coreIssues s.wafer (tkey t) cls v ∧
      srcLanes (coreWaits s.wafer (tkey t) cls cw) (tkey t) v (wSrc1 v) = (some a, coreWaits s.wafer (tkey t) cls cw) ∧
      srcLanes (coreWaits s.wafer (tkey t) cls cw) (tkey t) v (wSrc2 v) = (some b, coreWaits s.wafer (tkey t) cls cw) ∧
      cls = 7 ∧ laneDest (coreWaits s.wafer (tkey t) cls cw) (tkey t) v = (some d, coreWaits s.wafer (tkey t) cls cw) := by
  refine ⟨(lns).getD 14 .reset, { f := 0, t := 5 }, 7, 4035383595815141376, _, _, { narrow := 0, starved := 0, window := 0 },
    .v 9, ?_, by unfold coreIssues tileSound; decide +kernel, rfl, rfl, ?_, ?_⟩ <;> decide +kernel

theorem witness_LaneInstructionsComplete_6 :
    ∃ (b : W32), b.toNat < 32 :=
  ⟨0, by decide +kernel⟩

end Scalars

/-! ### Pairs -/

namespace Pairs

theorem witness_PairAndReductionInstructionsComplete_1 :
    ∃ (s : State) (t : TileId) (cls : Nat) (v : Nat) (cw : CoreWaits) (a : List W64) (b : List W64) (k : Nat) (fn : Fix64Fn),
      calm s = true ∧ coreIssues s.wafer (tkey t) cls v ∧ cls = 5 ∧
      srcPair (coreWaits s.wafer (tkey t) cls cw) (tkey t) v (wSrc1 v) = (some a, coreWaits s.wafer (tkey t) cls cw) ∧
      srcPair (coreWaits s.wafer (tkey t) cls cw) (tkey t) v (wSrc2 v) = (some b, coreWaits s.wafer (tkey t) cls cw) ∧
      destOf (wDst v) = some (Dest.pair k) ∧ (fn = Fix64Fn.add ∨ fn = Fix64Fn.sub) := by
  refine ⟨withWord (word 5 0 (sp 3) (sp 0) (sp 1)), { f := 0, t := 5 }, 5, 2884047038830346240,
    { narrow := 0, starved := 0, window := 0 }, _, _, 3, .add, ?_, by unfold coreIssues tileSound; decide +kernel, ?_, rfl,
    rfl, ?_, ?_⟩ <;> decide +kernel

theorem witness_PairAndReductionInstructionsComplete_2 :
    ∃ (s : State) (t : TileId) (cls : Nat) (v : Nat) (cw : CoreWaits) (a : List W64) (b : List W64), calm s = true ∧
      coreIssues s.wafer (tkey t) cls v ∧ cls = 5 ∧
      srcPair (coreWaits s.wafer (tkey t) cls cw) (tkey t) v (wSrc1 v) = (some a, coreWaits s.wafer (tkey t) cls cw) ∧
      srcPair (coreWaits s.wafer (tkey t) cls cw) (tkey t) v (wSrc2 v) = (some b, coreWaits s.wafer (tkey t) cls cw) ∧
      destOf (wDst v) = some Dest.lm := by
  refine ⟨withWord (word 5 0 codeLm (sp 0) (sp 1) (pred := true)), { f := 0, t := 5 }, 5, 2884557212229828608,
    { narrow := 0, starved := 0, window := 0 }, _, _, ?_, by unfold coreIssues tileSound; decide +kernel, ?_, rfl, rfl, ?_⟩ <;> decide +kernel

theorem witness_PairAndReductionInstructionsComplete_3 :
    ∃ (s : State) (t : TileId) (cls : Nat) (v : Nat) (cw : CoreWaits) (a : List W64) (b : List W32) (k : Nat),
      calm s = true ∧ coreIssues s.wafer (tkey t) cls v ∧ cls = 5 ∧
      srcPair (coreWaits s.wafer (tkey t) cls cw) (tkey t) v (wSrc1 v) = (some a, coreWaits s.wafer (tkey t) cls cw) ∧
      srcLanes (coreWaits s.wafer (tkey t) cls cw) (tkey t) v (wSrc2 v) = (some b, coreWaits s.wafer (tkey t) cls cw) ∧
      destOf (wDst v) = some (Dest.pair k) := by
  refine ⟨withWord (word 5 0 (sp 0) (sp 0) (codeV 2)), { f := 0, t := 5 }, 5, 2883994260678377472,
    { narrow := 0, starved := 0, window := 0 }, _, _, 0, ?_, by unfold coreIssues tileSound; decide +kernel, ?_, rfl, rfl, ?_⟩ <;> decide +kernel

theorem witness_PairAndReductionInstructionsComplete_4 :
    ∃ (s : State) (t : TileId) (cls : Nat) (v : Nat) (cw : CoreWaits) (rows : List (List W32)) (d : Dest), calm s = true ∧
      coreIssues s.wafer (tkey t) cls v ∧ cls = 8 ∧
      srcTile (coreWaits s.wafer (tkey t) cls cw) (tkey t) v (wSrc1 v) = (some rows, coreWaits s.wafer (tkey t) cls cw) ∧
      laneDest (coreWaits s.wafer (tkey t) cls cw) (tkey t) v = (some d, coreWaits s.wafer (tkey t) cls cw) := by
  refine ⟨withWord (word 8 0 9 (codeTile 0) 0), { f := 0, t := 5 }, 8, 4611845447613415424,
    { narrow := 0, starved := 0, window := 0 }, _, .v 9, ?_, by unfold coreIssues tileSound; decide +kernel, ?_, rfl, ?_⟩ <;> decide +kernel

theorem witness_PairAndReductionInstructionsComplete_5 :
    ∃ (s : State) (t : TileId) (cls : Nat) (v : Nat) (cw : CoreWaits) (a : W64) (b : W64) (d : Dest), calm s = true ∧
      coreIssues s.wafer (tkey t) cls v ∧ cls = 4 ∧
      srcScalar (coreWaits s.wafer (tkey t) cls cw) (tkey t) v (wSrc1 v) = (some a, coreWaits s.wafer (tkey t) cls cw) ∧
      srcScalar (coreWaits s.wafer (tkey t) cls cw) (tkey t) v (wSrc2 v) = (some b, coreWaits s.wafer (tkey t) cls cw) ∧
      scalarDest (coreWaits s.wafer (tkey t) cls cw) (tkey t) v = (some d, coreWaits s.wafer (tkey t) cls cw) :=
  ⟨withWord (word 4 0 codeLm (codeLm) (codeS 5)), { f := 0, t := 5 }, 4, 2308097008671391744,
    { narrow := 0, starved := 0, window := 0 }, 0xf0f0f0f00f0f1234, 0x8000000000000003, .lm,
    by unfold coreIssues tileSound; decide +kernel⟩

end Pairs

/-! ### Converts -/

namespace Converts

def ci (f p r : Nat) : Nat := f + 16 * p + 128 * r

def cvs : List State :=
  ([0,1,2,3,4,5,6,7,8,0xA].flatMap (fun f => [withWord (word 6 0 9 (codeV 0) (codeV 1) (imm := ci f 0 1)), withWord (word 6 0 (codeLine 2) (codeV 3) (codeV 2) true true (ci f 1 5)),
   withWord (word 6 0 9 (sp 0) (codeV 1) (imm := ci f 0 1)), withWord (word 6 0 (codeLine 3) (sp 1) (codeV 1) true true (ci f 2 11)), withWord (word 6 0 (sp 4) (codeV 1) 0 (pred := true) (imm := ci f 0 11)), withWord (word 6 0 (sp 4) (codeV 3) 0 (imm := ci f 0 7))]))

theorem witness_ConversionsComplete_1 :
    ∃ (s : State) (t : TileId) (v : Nat) (cw : CoreWaits) (a : List W32) (ms : List Rounding) (d : Dest), calm s = true ∧
      coreIssues s.wafer (tkey t) 6 v ∧
      srcLanes (coreWaits s.wafer (tkey t) 6 cw) (tkey t) v (wSrc1 v) = (some a, coreWaits s.wafer (tkey t) 6 cw) ∧
      cvModes (coreWaits s.wafer (tkey t) 6 cw) (tkey t) v = (some ms, coreWaits s.wafer (tkey t) 6 cw) ∧
      laneDest (coreWaits s.wafer (tkey t) 6 cw) (tkey t) v = (some d, coreWaits s.wafer (tkey t) 6 cw) ∧
      32 * cvPart v + 64 * elemBits (cvFmt v) / 8 ≤ 256 ∧ cvFmt v ≤ 8 := by
  refine ⟨(cvs).getD 0 .reset, { f := 0, t := 5 }, 3458922843511718016, { narrow := 0, starved := 0, window := 0 }, _, _,
    .v 9, ?_, by unfold coreIssues tileSound; decide +kernel, rfl, rfl, ?_, ?_, ?_⟩ <;> decide +kernel

theorem witness_ConversionsComplete_2 :
    ∃ (s : State) (t : TileId) (v : Nat) (cw : CoreWaits) (a : List W32) (ms : List Rounding) (d : Dest), calm s = true ∧
      coreIssues s.wafer (tkey t) 6 v ∧
      srcLanes (coreWaits s.wafer (tkey t) 6 cw) (tkey t) v (wSrc1 v) = (some a, coreWaits s.wafer (tkey t) 6 cw) ∧
      cvModes (coreWaits s.wafer (tkey t) 6 cw) (tkey t) v = (some ms, coreWaits s.wafer (tkey t) 6 cw) ∧
      laneDest (coreWaits s.wafer (tkey t) 6 cw) (tkey t) v = (some d, coreWaits s.wafer (tkey t) 6 cw) ∧
      32 * cvPart v + 64 * elemBits (cvFmt v) / 8 ≤ 256 ∧ isMx (cvFmt v) = true := by
  refine ⟨(cvs).getD 24 .reset, { f := 0, t := 5 }, 3458922843511718020, { narrow := 0, starved := 0, window := 0 }, _, _,
    .v 9, ?_, by unfold coreIssues tileSound; decide +kernel, rfl, rfl, ?_, ?_, ?_⟩ <;> decide +kernel

theorem witness_ConversionsComplete_3 :
    ∃ (s : State) (t : TileId) (v : Nat) (cw : CoreWaits) (a : List W32) (d : Dest) (f : FpFmt), calm s = true ∧
      coreIssues s.wafer (tkey t) 6 v ∧ elemFmt (cvFmt v) = some f ∧ 32 * cvPart v + 64 * elemBits (cvFmt v) / 8 ≤ 256 ∧
      srcLanes (coreWaits s.wafer (tkey t) 6 cw) (tkey t) v (wSrc1 v) = (some a, coreWaits s.wafer (tkey t) 6 cw) ∧
      laneDest (coreWaits s.wafer (tkey t) 6 cw) (tkey t) v = (some d, coreWaits s.wafer (tkey t) 6 cw) := by
  refine ⟨(cvs).getD 0 .reset, { f := 0, t := 5 }, 3458922843511718016, { narrow := 0, starved := 0, window := 0 }, _, .v 9,
    { ebits := 8, mbits := 7, bias := 127, specials := .ieee }, ?_, by unfold coreIssues tileSound; decide +kernel, ?_, ?_,
    rfl, ?_⟩ <;> decide +kernel

theorem witness_ConversionsComplete_4 :
    ∃ (s : State) (t : TileId) (v : Nat) (cw : CoreWaits) (a : List W64) (ms : List Rounding) (d : Dest), calm s = true ∧
      coreIssues s.wafer (tkey t) 6 v ∧
      srcPair (coreWaits s.wafer (tkey t) 6 cw) (tkey t) v (wSrc1 v) = (some a, coreWaits s.wafer (tkey t) 6 cw) ∧
      cvModes (coreWaits s.wafer (tkey t) 6 cw) (tkey t) v = (some ms, coreWaits s.wafer (tkey t) 6 cw) ∧
      laneDest (coreWaits s.wafer (tkey t) 6 cw) (tkey t) v = (some d, coreWaits s.wafer (tkey t) 6 cw) ∧ cvFmt v = 10 := by
  refine ⟨(cvs).getD 56 .reset, { f := 0, t := 5 }, 3458924492779159690, { narrow := 0, starved := 0, window := 0 }, _, _,
    .v 9, ?_, by unfold coreIssues tileSound; decide +kernel, rfl, rfl, ?_, ?_⟩ <;> decide +kernel

theorem witness_ConversionsComplete_5 :
    ∃ (s : State) (t : TileId) (v : Nat) (cw : CoreWaits) (a : List W64) (ms : List Rounding) (d : Dest), calm s = true ∧
      coreIssues s.wafer (tkey t) 6 v ∧
      srcPair (coreWaits s.wafer (tkey t) 6 cw) (tkey t) v (wSrc1 v) = (some a, coreWaits s.wafer (tkey t) 6 cw) ∧
      cvModes (coreWaits s.wafer (tkey t) 6 cw) (tkey t) v = (some ms, coreWaits s.wafer (tkey t) 6 cw) ∧
      laneDest (coreWaits s.wafer (tkey t) 6 cw) (tkey t) v = (some d, coreWaits s.wafer (tkey t) 6 cw) ∧ cvFmt v ≤ 8 ∧
      32 * cvPart v + 64 * elemBits (cvFmt v) / 8 ≤ 256 ∧ isMx (cvFmt v) = false := by
  refine ⟨(cvs).getD 2 .reset, { f := 0, t := 5 }, 3458924492779159680, { narrow := 0, starved := 0, window := 0 }, _, _,
    .v 9, ?_, by unfold coreIssues tileSound; decide +kernel, rfl, rfl, ?_, ?_, ?_, ?_⟩ <;> decide +kernel

theorem witness_ConversionsComplete_6 :
    ∃ (s : State) (t : TileId) (v : Nat) (cw : CoreWaits) (a : List W64) (ms : List Rounding) (d : Dest), calm s = true ∧
      coreIssues s.wafer (tkey t) 6 v ∧
      srcPair (coreWaits s.wafer (tkey t) 6 cw) (tkey t) v (wSrc1 v) = (some a, coreWaits s.wafer (tkey t) 6 cw) ∧
      cvModes (coreWaits s.wafer (tkey t) 6 cw) (tkey t) v = (some ms, coreWaits s.wafer (tkey t) 6 cw) ∧
      laneDest (coreWaits s.wafer (tkey t) 6 cw) (tkey t) v = (some d, coreWaits s.wafer (tkey t) 6 cw) ∧
      32 * cvPart v + 64 * elemBits (cvFmt v) / 8 ≤ 256 ∧ isMx (cvFmt v) = true := by
  refine ⟨(cvs).getD 26 .reset, { f := 0, t := 5 }, 3458924492779159684, { narrow := 0, starved := 0, window := 0 }, _, _,
    .v 9, ?_, by unfold coreIssues tileSound; decide +kernel, rfl, rfl, ?_, ?_, ?_⟩ <;> decide +kernel

theorem witness_ConversionsComplete_7 :
    ∃ (s : State) (t : TileId) (v : Nat) (cw : CoreWaits) (a : List W32) (k : Nat), calm s = true ∧
      coreIssues s.wafer (tkey t) 6 v ∧
      srcLanes (coreWaits s.wafer (tkey t) 6 cw) (tkey t) v (wSrc1 v) = (some a, coreWaits s.wafer (tkey t) 6 cw) ∧
      destOf (wDst v) = some (Dest.pair k) := by
  refine ⟨(cvs).getD 4 .reset, { f := 0, t := 5 }, 3460523749609047424, { narrow := 0, starved := 0, window := 0 }, _, 4, ?_,
    by unfold coreIssues tileSound; decide +kernel, rfl, ?_⟩ <;> decide +kernel

end Converts

/-! ### Lines -/

namespace Lines

theorem witness_VectorMemoryInstructionsComplete_1 :
    ∃ (s : State) (t : TileId) (v : Nat) (a : W64) (cw : CoreWaits) (d : Dest), calm s = true ∧
      coreIssues s.wafer (tkey t) 9 v ∧ a.toNat % 256 = 0 ∧ a.toNat + 256 ≤ spBytes ∧
      srcScalar (coreWaits s.wafer (tkey t) 9 cw) (tkey t) v (wSrc1 v) = (some a, coreWaits s.wafer (tkey t) 9 cw) ∧
      laneDest (coreWaits s.wafer (tkey t) 9 cw) (tkey t) v = (some d, coreWaits s.wafer (tkey t) 9 cw) :=
  ⟨withWord (word 9 0 9 (codeS 0) (codeS 0)), { f := 0, t := 5 }, 5188305650697895936, 0x100,
    { narrow := 0, starved := 0, window := 0 }, .v 9, by unfold coreIssues tileSound; decide +kernel⟩

theorem witness_VectorMemoryInstructionsComplete_2 :
    ∃ (s : State) (t : TileId) (v : Nat) (a : W64) (cw : CoreWaits) (l : List W32), calm s = true ∧
      coreIssues s.wafer (tkey t) 9 v ∧ a.toNat % 256 = 0 ∧ a.toNat + 256 ≤ spBytes ∧
      srcLanes (coreWaits s.wafer (tkey t) 9 cw) (tkey t) v (wSrc1 v) = (some l, coreWaits s.wafer (tkey t) 9 cw) ∧
      srcScalar (coreWaits s.wafer (tkey t) 9 cw) (tkey t) v (wSrc2 v) = (some a, coreWaits s.wafer (tkey t) 9 cw) ∧
      l.length = 64 := by
  refine ⟨withWord (word 9 0 0 (codeV 1) (codeS 0)), { f := 0, t := 5 }, 5188146788447551488, 0x100,
    { narrow := 0, starved := 0, window := 0 }, _, ?_, by unfold coreIssues tileSound; decide +kernel, ?_, ?_, rfl, ?_, ?_⟩ <;> decide +kernel

theorem witness_VectorMemoryInstructionsComplete_3 :
    ∃ (s : State) (t : TileId) (v : Nat) (a : W64) (cw : CoreWaits) (line : Nat) (c : Nat), calm s = true ∧
      coreIssues s.wafer (tkey t) 9 v ∧ wSrc1 v = 256 + line ∧ line < 256 ∧ cvFmt v ≤ 8 ∧
      (waited (tileAt s.wafer (tkey t)) cw).vc.winEn = true ∧
      srcScalar (coreWaits s.wafer (tkey t) 9 cw) (tkey t) v (wSrc2 v) = (some a, coreWaits s.wafer (tkey t) 9 cw) ∧
      a.toNat % 64 = 0 ∧ a.toNat + blockBytes (cvFmt v) ≤ spBytes ∧ line + (blockBytes (cvFmt v) + 255) / 256 ≤ 256 ∧
      (a.toNat + blockBytes (cvFmt v) ≤ lineOff (waited (tileAt s.wafer (tkey t)) cw).vc line ∨ lineOff (waited (tileAt s.wafer (tkey t)) cw).vc line + 256 * ((blockBytes (cvFmt v) + 255) / 256) ≤ a.toNat) ∧
      (c < a.toNat ∨ a.toNat + blockBytes (cvFmt v) ≤ c) :=
  ⟨withWord (word 9 0 0 (codeLine 3) (codeBc 0)), { f := 0, t := 5 }, 5188151228906864640, 0x100,
    { narrow := 0, starved := 0, window := 0 }, 3, 0, by unfold coreIssues tileSound; decide +kernel⟩

end Lines

/-! ### Joins -/

namespace Joins

def jt (ph : JoinPhase) (x : Tile) : Tile := { x with sp := [(0x100 + 32768, 5)] ++ [], join := { Join.reset with phase := ph, elems := (List.range 4).map (fun i => ((i : Int) * 3 - 7, i == 5)), sj := 3 } }

def joins : List State :=
  [.empty, .open].flatMap (fun p => [withWord (word 10 0 (codeS 9) (codeS 0) 0) (jt p), withWord (word 10 0 (sp 3) (codeS 0) 0 (pred := true)) (jt p), withWord (word 10 0 codeLm (codeS 0) 0) (fun x => {jt p x with sp := []}), withWord (word 10 0 codeLm (codeS 0) 0) (fun x => {jt p x with sp := [(0x100, 3), (0x104, 9), (0x150, 77), (0x7FF0, 5)]})])

theorem witness_JoinInstructionsComplete_1 :
    ∃ (s : State) (t : TileId) (v : Nat) (a : W64), calm s = true ∧ coreIssues s.wafer (tkey t) 10 v ∧
      srcScalar s.wafer (tkey t) v (wSrc1 v) = (some a, s.wafer) ∧ a.toNat % 64 = 0 ∧ a.toNat + fix64Bytes ≤ spBytes ∧
      headOk ((tileAt s.wafer (tkey t)).sp.readN (a.toNat) fix64Bytes) = true ∧
      (tileAt s.wafer (tkey t)).join.phase = JoinPhase.open :=
  ⟨(joins).getD 7 .reset, { f := 0, t := 5 }, 5766859872603734016, 0x100, by unfold coreIssues tileSound; decide +kernel⟩

theorem witness_JoinInstructionsComplete_2 :
    ∃ (s : State) (t : TileId) (v : Nat) (d : Dest), calm s = true ∧ coreIssues s.wafer (tkey t) 10 v ∧
      (tileAt s.wafer (tkey t)).join.phase ≠ JoinPhase.empty ∧ scalarDest s.wafer (tkey t) v = (some d, s.wafer) :=
  ⟨(joins).getD 4 .reset, { f := 0, t := 5 }, 5765329352417869824, .s 9, by unfold coreIssues tileSound; decide +kernel⟩

end Joins

/-! ### Joins2 -/

namespace Joins2

def jt (ph : JoinPhase) (x : Tile) : Tile := { x with sp := [(0x100 + 32768, 5)] ++ [], join := { Join.reset with phase := ph, elems := (List.range 4).map (fun i => ((i : Int) * 3 - 7, i == 5)), sj := 3 } }

def joins : List State :=
  [.closed].flatMap (fun p => [withWord (word 10 0 (codeS 9) (codeS 0) 0) (jt p), withWord (word 10 0 (sp 3) (codeS 0) 0 (pred := true)) (jt p)])

theorem witness_JoinInstructionsComplete_3 :
    ∃ (s : State) (t : TileId) (v : Nat) (a : W64), calm s = true ∧ coreIssues s.wafer (tkey t) 10 v ∧
      srcScalar s.wafer (tkey t) v (wSrc1 v) = (some a, s.wafer) ∧ a.toNat % 64 = 0 ∧ a.toNat + fix64Bytes ≤ spBytes ∧
      (tileAt s.wafer (tkey t)).join.phase = JoinPhase.closed :=
  ⟨(joins).getD 0 .reset, { f := 0, t := 5 }, 5765329352417869824, 0x100, by unfold coreIssues tileSound; decide +kernel⟩

theorem witness_JoinInstructionsComplete_4 :
    ∃ (s : State) (t : TileId) (v : Nat) (k : Nat), calm s = true ∧ coreIssues s.wafer (tkey t) 10 v ∧
      (tileAt s.wafer (tkey t)).join.phase = JoinPhase.closed ∧ destOf (wDst v) = some (Dest.pair k) :=
  ⟨(joins).getD 1 .reset, { f := 0, t := 5 }, 5766349699212640256, 3, by unfold coreIssues tileSound; decide +kernel⟩

end Joins2

/-! ### Syncs -/

namespace Syncs

def sreg' (l : List (Nat × W64)) (x : Tile) : Tile := { x with vc := { x.vc with s := l.foldl (fun m p => mput m p.1 p.2) x.vc.s } }

def ph : Tile → Tile := sreg' [(0, 0x10FFFFFF), (1, 0x123456789), (2, 0x3FFFFFFFF)]

def syncs : List State :=
  [withWord (word 11 0 9 0 0 (imm := 0)) ph, withWord (word 11 0 (codeLine 3) 0 0 (pred := true) (imm := 0)) ph,
   withWord (word 12 2 (32+9) 0 0 (imm := 17)) (fun x => {x with sync := {x.sync with flags := 0x20000}}), withWord (word 12 2 codeLm 0 0 (imm := 16)),
   withWord (word 12 3 (32+9) 0 0 (imm := 17)) (fun x => {x with sync := {x.sync with ctrs := [(17,0xFFFFFFFF)]}}),
   withWord (word 12 7 (32+9) 0 0 (imm := 15)) id (fun s => {s with wafer := {s.wafer with fields := [(0, {Field.reset with banGen := [(15, 7)]})]}})] ++
  ([0x1FC0, 0x1C0, 0x140].flatMap (fun a => [withWord (word 12 0 0 (codeS 0) (codeS 5) (imm := 0x1FF)) (sreg' [(0,a)]), withWord (word 12 0 0 (codeS 0) (codeS 5) (imm := 3)) (sreg' [(0,a)]), withWord (word 12 1 0 (codeS 0) (codeS 5) (imm := 3)) (sreg' [(0,a)]),
   withWord (word 12 1 0 (codeS 0) (codeS 4) (imm := 3)) (sreg' [(0,a)]) (fun s => {s with wafer := {s.wafer with fields := [(0, {Field.reset with watches := [(0, some ⟨some 5, .ctr 5 3, .ge, .comp, 9⟩), (1, some ⟨some 5, .ctr 5 3, .eq, .wake 5, 0x12345678⟩)]})]}})]))

def d0 (dest cond obj : Nat) : W64 := BitVec.ofNat 64 (127 * 2^57 + obj * 2^49 + 3 * 2^41 + cond * 2^38 + dest * 2^35)

def wf (g : Field → Field := id) (s : State) : State := {s with wafer := {s.wafer with fields := [(0, g {Field.reset with watches := [(0, some ⟨some 5, .ctr 5 3, .ge, .comp, 9⟩), (1, some ⟨some 6, .ctr 5 3, .eq, .wake 5, 0x12345678⟩)], banMask := [(4, 0x20)], banGen := [(4, 9)]})]}}

theorem witness_SyncInstructionsComplete_1 :
    ∃ (s : State) (t : TileId) (v : Nat) (cw : CoreWaits) (d : Dest), calm s = true ∧ coreIssues s.wafer (tkey t) 11 v ∧
      laneDest (coreWaits s.wafer (tkey t) 11 cw) (tkey t) v = (some d, coreWaits s.wafer (tkey t) 11 cw) ∧ bits v 4 0 ≤ 29 ∧
      bits (BitVec.toNat (sreg (tileAt s.wafer (tkey t)).vc (bits v 4 0))) 63 32 = 0 ∧
      16 ≤ bits (BitVec.toNat (sreg (tileAt s.wafer (tkey t)).vc (bits v 4 0))) 31 24 ∧
      bits (BitVec.toNat (sreg (tileAt s.wafer (tkey t)).vc (bits v 4 0 + 2))) 63 34 = 0 :=
  ⟨(syncs).getD 0 .reset, { f := 0, t := 5 }, 6341226605012058112, { narrow := 0, starved := 0, window := 0 }, .v 9,
    by unfold coreIssues tileSound; decide +kernel⟩

theorem witness_SyncInstructionsComplete_2 :
    ∃ (s : State) (t : TileId) (v : Nat) (d : Dest), calm s = true ∧ coreIssues s.wafer (tkey t) 12 v ∧
      scalarDest s.wafer (tkey t) v = (some d, s.wafer) ∧ wFunc v = 2 :=
  ⟨(syncs).getD 2 .reset, { f := 0, t := 5 }, 6936264705778384913, .s 9, by unfold coreIssues tileSound; decide +kernel⟩

theorem witness_SyncInstructionsComplete_3 :
    ∃ (s : State) (t : TileId) (v : Nat) (d : Dest), calm s = true ∧ coreIssues s.wafer (tkey t) 12 v ∧
      scalarDest s.wafer (tkey t) v = (some d, s.wafer) ∧ wFunc v = 3 :=
  ⟨(syncs).getD 4 .reset, { f := 0, t := 5 }, 6945271905033125905, .s 9, by unfold coreIssues tileSound; decide +kernel⟩

theorem witness_SyncInstructionsComplete_4 :
    ∃ (s : State) (t : TileId) (v : Nat) (d : Dest), calm s = true ∧ coreIssues s.wafer (tkey t) 12 v ∧
      scalarDest s.wafer (tkey t) v = (some d, s.wafer) ∧ wFunc v = 7 :=
  ⟨(syncs).getD 5 .reset, { f := 0, t := 5 }, 6981300702052089871, .s 9, by unfold coreIssues tileSound; decide +kernel⟩

theorem witness_SyncInstructionsComplete_5 :
    ∃ (s : State) (t : TileId) (v : Nat) (a : W64), calm s = true ∧ coreIssues s.wafer (tkey t) 12 v ∧
      storesDone s.wafer (tkey t) = true ∧ srcScalar s.wafer (tkey t) v (wSrc1 v) = (some a, s.wafer) ∧
      syncTarget s.wafer (tkey t) a = Sum.inl (tkey t) ∧ wFunc v = 0 :=
  ⟨(syncs).getD 6 .reset, { f := 0, t := 5 }, 6917529578017653247, 0x1fc0, by unfold coreIssues tileSound; decide +kernel⟩

theorem witness_SyncInstructionsComplete_6 :
    ∃ (s : State) (t : TileId) (v : Nat) (a : W64) (n : W64), calm s = true ∧ coreIssues s.wafer (tkey t) 12 v ∧
      storesDone s.wafer (tkey t) = true ∧ srcScalar s.wafer (tkey t) v (wSrc1 v) = (some a, s.wafer) ∧
      syncTarget s.wafer (tkey t) a = Sum.inl (tkey t) ∧ wFunc v = 1 ∧
      srcScalar s.wafer (tkey t) v (wSrc2 v) = (some n, s.wafer) :=
  ⟨(syncs).getD 8 .reset, { f := 0, t := 5 }, 6926536777272393731, 0x1fc0, 0x8000000000000003,
    by unfold coreIssues tileSound; decide +kernel⟩

theorem witness_SyncInstructionsComplete_7 :
    ∃ (s : State) (t : TileId) (v : Nat) (a : W64) (u : Nat), calm s = true ∧ coreIssues s.wafer (tkey t) 12 v ∧
      storesDone s.wafer (tkey t) = true ∧ srcScalar s.wafer (tkey t) v (wSrc1 v) = (some a, s.wafer) ∧
      syncTarget s.wafer (tkey t) a = Sum.inl u ∧ u ≠ tkey t ∧ wFunc v = 0 :=
  ⟨(syncs).getD 10 .reset, { f := 0, t := 5 }, 6917529578017653247, 0x1c0, 7, by unfold coreIssues tileSound; decide +kernel⟩

theorem witness_SyncInstructionsComplete_8 :
    ∃ (s : State) (t : TileId) (v : Nat) (a : W64) (n : W64) (u : Nat), calm s = true ∧ coreIssues s.wafer (tkey t) 12 v ∧
      storesDone s.wafer (tkey t) = true ∧ srcScalar s.wafer (tkey t) v (wSrc1 v) = (some a, s.wafer) ∧
      syncTarget s.wafer (tkey t) a = Sum.inl u ∧ u ≠ tkey t ∧ wFunc v = 1 ∧
      srcScalar s.wafer (tkey t) v (wSrc2 v) = (some n, s.wafer) :=
  ⟨(syncs).getD 12 .reset, { f := 0, t := 5 }, 6926536777272393731, 0x1c0, 0x8000000000000003, 7,
    by unfold coreIssues tileSound; decide +kernel⟩

theorem witness_WatchAndPostInstructionsComplete_1 :
    ∃ (s : State) (t : TileId) (v : Nat) (wt : Watch) (d : Dest) (i : Nat), calm s = true ∧
      coreIssues s.wafer (tkey t) 12 v ∧ wFunc v = 4 ∧ bits v 4 0 ≤ 30 ∧
      parseWatch s.wafer (tkey t) (some (tkey t)) (BitVec.toNat (sreg (tileAt s.wafer (tkey t)).vc (bits v 4 0))) (BitVec.toNat (sreg (tileAt s.wafer (tkey t)).vc (bits v 4 0 + 1))) none = Sum.inl (tkey t / 64, wt) ∧
      scalarDest s.wafer (tkey t) v = (some d, s.wafer) ∧ freeSlot (fieldAt s.wafer (tkey t / 64)) = some i ∧
      watchTrue s.wafer (tkey t / 64) wt = false := by
  refine ⟨withWord (word 12 4 (32+9) 0 0 (imm := 0)) (sreg' [(0, d0 3 0 1),(1, 5 * 2^32)]), { f := 0, t := 5 },
    6954279104287866880, _, .s 9, 0, ?_, by unfold coreIssues tileSound; decide +kernel, ?_, ?_, rfl, ?_, ?_, ?_⟩ <;> decide +kernel

theorem witness_WatchAndPostInstructionsComplete_2 :
    ∃ (s : State) (t : TileId) (v : Nat) (wt : Watch) (i : Nat), calm s = true ∧ coreIssues s.wafer (tkey t) 0 v ∧ v ≠ 0 ∧
      bits v 4 0 ≤ 30 ∧
      parseWatch s.wafer (tkey t) (some (tkey t)) (BitVec.toNat (sreg (tileAt s.wafer (tkey t)).vc (bits v 4 0))) (BitVec.toNat (sreg (tileAt s.wafer (tkey t)).vc (bits v 4 0 + 1))) (some (WatchDest.wake (tkey t))) = Sum.inl (tkey t / 64, wt) ∧
      freeSlot (fieldAt s.wafer (tkey t / 64)) = some i ∧ watchTrue s.wafer (tkey t / 64) wt = false := by
  refine ⟨withWord (word 0 9 0 0 0 (imm := 0)) (sreg' [(0, d0 3 0 1),(1, 5 * 2^32)]) (wf id), { f := 0, t := 5 },
    81064793292668928, _, 2, ?_, by unfold coreIssues tileSound; decide +kernel, ?_, ?_, rfl, ?_, ?_⟩ <;> decide +kernel

theorem witness_WatchAndPostInstructionsComplete_3 :
    ∃ (s : State) (t : TileId) (v : Nat) (a : W64) (wt : Watch), calm s = true ∧ coreIssues s.wafer (tkey t) 12 v ∧
      wFunc v = 5 ∧ srcScalar s.wafer (tkey t) v (wSrc1 v) = (some a, s.wafer) ∧ bits (a.toNat) 63 15 = 0 ∧
      bits (a.toNat) 14 8 = tkey t / 64 ∧ tkey t / 64 ≤ 83 ∧
      mget none (fieldAt s.wafer (tkey t / 64)).watches (bits (a.toNat) 7 0) = some wt ∧ wt.owner = some (tkey t) := by
  refine ⟨withWord (word 12 5 0 (codeS 3) 0) (sreg' [(3, 0)]) (wf id), { f := 0, t := 5 }, 6962565625210208256, 0, _, ?_,
    by unfold coreIssues tileSound; decide +kernel, ?_, ?_, ?_, ?_, ?_, rfl, ?_⟩ <;> decide +kernel

theorem witness_WatchAndPostInstructionsComplete_4 :
    ∃ (s : State) (t : TileId) (v : Nat) (d : Dest), calm s = true ∧ coreIssues s.wafer (tkey t) 12 v ∧ wFunc v = 6 ∧
      BitVec.getLsbD (mget 0 (fieldAt s.wafer (tkey t / 64)).banMask (bits v 3 0)) (tkey t % 64) = true ∧
      BitVec.getLsbD (mget 0 (fieldAt s.wafer (tkey t / 64)).arrived (bits v 3 0)) (tkey t % 64) = false ∧
      scalarDest s.wafer (tkey t) v = (some d, s.wafer) :=
  ⟨withWord (word 12 6 (32+9) 0 0 (imm := 4)) id (wf id), { f := 0, t := 5 }, 6972293502797348868, .s 9,
    by unfold coreIssues tileSound; decide +kernel⟩

theorem witness_WatchAndPostInstructionsComplete_5 :
    ∃ (s : State) (t : TileId), calm s = true ∧ blocked s.wafer = false ∧
      (tileAt s.wafer (tkey t)).vc.phase = VcPhase.waiting ∧ (tileAt s.wafer (tkey t)).vc.wakeDue = true :=
  ⟨withWord 0 (fun x => {x with vc := {x.vc with phase := .waiting, wakeDue := true, watchOn := true}}), { f := 0, t := 5 },
    by decide +kernel⟩

theorem witness_WatchAndPostInstructionsComplete_6 :
    ∃ (s : State) (t : TileId) (v : Nat), calm s = true ∧ coreIssues s.wafer (tkey t) 12 v ∧ wFunc v = 8 ∧ bits v 4 0 ≤ 28 ∧
      storesDone s.wafer (tkey t) = true ∧ (fieldAt s.wafer (tkey t / 64)).fru.queue.length < 8 :=
  ⟨withWord (word 12 8 0 0 0 (imm := 2)), { f := 0, t := 5 }, 6989586621679009794,
    by unfold coreIssues tileSound; decide +kernel⟩

theorem witness_WatchAndPostInstructionsComplete_7 :
    ∃ (s : State) (t : TileId) (v : Nat), calm s = true ∧ coreIssues s.wafer (tkey t) 13 v ∧ bits v 4 0 ≤ 24 :=
  ⟨withWord (word 13 0 0 0 0 (imm := 2)), { f := 0, t := 5 }, 7493989779944505346,
    by unfold coreIssues tileSound; decide +kernel⟩

theorem witness_CoreFaultsStopTheCore_1 :
    ∃ (s : State) (t : TileId), blocked s.wafer = false ∧ usable s.wafer (tkey t) = true ∧
      (tileAt s.wafer (tkey t)).vc.phase = VcPhase.running ∧ (tileAt s.wafer (tkey t)).vc.waits = [] ∧
      tileSound (tileAt s.wafer (tkey t)) ∧ 4095 < (tileAt s.wafer (tkey t)).vc.pc :=
  ⟨withWord 0 (fun x => {x with vc := {x.vc with pc := 4096}}), { f := 0, t := 5 }, by unfold tileSound; decide +kernel⟩

theorem witness_CoreFaultsStopTheCore_2 :
    ∃ (s : State) (t : TileId), blocked s.wafer = false ∧ usable s.wafer (tkey t) = true ∧
      (tileAt s.wafer (tkey t)).vc.phase = VcPhase.running ∧ (tileAt s.wafer (tkey t)).vc.waits = [] ∧
      tileSound (tileAt s.wafer (tkey t)) ∧ (tileAt s.wafer (tkey t)).vc.pc ≤ 4095 ∧
      illegalWord (fetch s.wafer (tkey t)) = true :=
  ⟨withWord (word 14 0 0 0 0), { f := 0, t := 5 }, by unfold tileSound; decide +kernel⟩

theorem witness_CoreFaultsStopTheCore_3 :
    ∃ (s : State) (t : TileId) (v : Nat) (p : Fin 8), coreIssues s.wafer (tkey t) 0 v ∧ v ≠ 0 ∧ 5 < p.val :=
  ⟨withWord (word 0 9 0 0 0 (imm := 0)), { f := 0, t := 5 }, 81064793292668928, 6,
    by unfold coreIssues tileSound; decide +kernel⟩

theorem witness_CoreFaultsStopTheCore_4 :
    ∃ (s : State) (t : TileId) (v : Nat) (line : Nat), coreIssues s.wafer (tkey t) 3 v ∧ wSrc1 v = 256 + line ∧ line < 256 ∧
      (tileAt s.wafer (tkey t)).vc.winEn = false :=
  ⟨withWord (word 3 0 9 (codeLine 7) 0) (fun x => {x with vc := {x.vc with winEn := false}}), { f := 0, t := 5 },
    1729545104890265600, 7, by unfold coreIssues tileSound; decide +kernel⟩

theorem witness_CoreFaultsStopTheCore_5 :
    ∃ (s : State) (t : TileId) (v : Nat) (a : W64), coreIssues s.wafer (tkey t) 2 v ∧
      srcScalar s.wafer (tkey t) v (wSrc1 v) = (some a, s.wafer) ∧ a.toNat % 8 ≠ 0 :=
  ⟨withWord (word 2 0 (32+9) (codeS 1) 0), { f := 0, t := 5 }, 1153643351170351104, 5,
    by unfold coreIssues tileSound; decide +kernel⟩

theorem witness_CoreFaultsStopTheCore_6 :
    ∃ (s : State) (t : TileId) (v : Nat) (a : W64), coreIssues s.wafer (tkey t) 9 v ∧
      srcScalar s.wafer (tkey t) v (wSrc1 v) = (some a, s.wafer) ∧ (a.toNat % 256 ≠ 0 ∨ spBytes < a.toNat + 256) :=
  ⟨withWord (word 9 0 9 (codeS 1) 0), { f := 0, t := 5 }, 5188305667340894208, 5,
    by unfold coreIssues tileSound; decide +kernel⟩

theorem witness_CoreFaultsStopTheCore_7 :
    ∃ (s : State) (t : TileId) (v : Nat), coreIssues s.wafer (tkey t) 10 v ∧
      (tileAt s.wafer (tkey t)).join.phase ≠ JoinPhase.open :=
  ⟨withWord (word 10 0 codeLm (codeS 1) 0), { f := 0, t := 5 }, 5766859889783603200,
    by unfold coreIssues tileSound; decide +kernel⟩

theorem witness_CoreFaultsStopTheCore_8 :
    ∃ (s : State) (t : TileId) (v : Nat), coreIssues s.wafer (tkey t) 10 v ∧
      (tileAt s.wafer (tkey t)).join.phase ≠ JoinPhase.closed :=
  ⟨withWord (word 10 0 codeLm (codeS 1) 0), { f := 0, t := 5 }, 5766859889783603200,
    by unfold coreIssues tileSound; decide +kernel⟩

end Syncs

/-! ### Arrays -/

namespace Arrays

def mkSlot (kind fmt : Nat) (locked : Bool) (sLock : Nat) (hold gate : Bool) (k sets rows ab aset bb bset db gf : Nat) : Nat :=
  kind + 4*fmt + 64*fmt + (if locked then 1024 else 0) + sLock * 2^11 + (if hold then 2^22 else 0) + (if gate then 2^26 else 0) + (k-1)*2^32 + (sets-1)*2^48 + (rows-1)*2^58 + ab*2^64 + aset*2^78 + bb*2^96+bset*2^110+db*2^128+gf*2^152

def bank (l : List Nat) : SMap W64 := (l.zipIdx.map (fun p => (List.range 4).map (fun i => (4*p.2+i, BitVec.ofNat 64 (p.1 / 2^(64*i) % 2^64))))).flatten

def cadT (slots : List Nat) (ph : ArrPhase) (slot set : Nat) (g : Tile → Tile := id) (x : Tile) : Tile :=
  g { x with cad := { x.cad with bank0 := bank slots, bank1 := bank slots, hdr0 := BitVec.ofNat 64 (slots.length - 1), hdr1 := BitVec.ofNat 64 (slots.length - 1), run := true, phase := .issuing }, arr := { x.arr with phase := ph, pos := ⟨false, 0, slot, set⟩ } }

def lvl (n : Nat) (s : State) : State := { s with wafer := { s.wafer with fields := [(0, { Field.reset with level := BitVec.ofNat 5 n })] } }

def sl1 := mkSlot 1 0 true 0 false false 64 1 1 0 0 200 0 400 0

def sl2 := mkSlot 1 0 true 0 false false 70 2 1 0 128 300 128 1000 0

def slg := mkSlot 1 0 true 0 false true 64 1 1 0 0 200 0 400 9

def slh := mkSlot 1 0 true 0 true false 64 1 1 0 0 200 0 400 9

def sli := mkSlot 0 0 false 0 false false 37 1 1 0 0 0 0 0 0

def fl (x : Tile) : Tile := { x with sync := { x.sync with flags := 0x200 } }

def sh (b s t : Nat) (r : Bool) : Option Shadow := some ⟨⟨b = 1, 0, s, t⟩, r, List.replicate 8192 0x3f⟩

def o1 (locked : Bool) : OutTile := { start := ⟨false,0,0,0⟩, s := 3, sInit := 3, locked := locked, retries := 0, k := 0, sets := 0, parity := false, forced := false, accs := List.replicate 4096 .zero }

def ws (h : Option Shadow) (o : Option OutTile) (x : Tile) : Tile := { x with arr := { x.arr with shadow := h, tile := o } }

def sets : List State := [
  withWord 0 (cadT [slg, sl1] .gate 0 0 fl) (lvl 15), withWord 0 (cadT [sl1] .entry 0 0 (ws (sh 0 0 0 true) (some (o1 true)))) (lvl 0),withWord 0 (cadT [sl2] .entry 0 1 (ws (sh 0 0 1 false) none)) (lvl 0),
  withWord 0 (cadT [sl1] .entry 0 0 (ws (sh 0 0 0 false) none)) (lvl 16), withWord 0 (cadT [sl2] .entry 0 1 (ws (sh 0 0 1 false) none)) (lvl 15), withWord 0 (cadT [sl1, sl2] .gate 0 0 (ws (sh 0 1 0 false) none)) (lvl 15),
  withWord 0 (cadT [sl1] .entry 0 0 (ws (sh 0 0 0 true) (some (o1 true)))) (lvl 16), withWord 0 (cadT [sl1, sl2] .entry 0 0 (ws (sh 0 0 0 true) (some (o1 false)))) (lvl 16),
  withWord 0 (cadT [sl2] .entry 0 0 (ws (sh 0 0 0 true) (some (o1 true)))) (lvl 16), withWord 0 (cadT [sl2] .entry 0 1 (ws (sh 0 0 1 true) (some (o1 true)))) (lvl 16),
  withWord 0 (cadT [slh, sl2] .entry 0 0 (ws (sh 0 0 0 true) (some (o1 true)))) (lvl 16)]

def cl (o : OutTile) (s t : Nat) (x : Tile) : Tile := { x with arr := { x.arr with closing := [(o, ⟨false,0,s,t⟩)] } }

theorem witness_CadenceSlotsComplete_1 :
    ∃ (s : State) (t : TileId), calm s = true ∧ (tileAt s.wafer (tkey t)).arr.phase = ArrPhase.gate ∧
      flagOf s.wafer (tkey t) (slotAt (tileAt s.wafer (tkey t)).cad (tileAt s.wafer (tkey t)).arr.pos).gateFlag = true ∧
      ((slotAt (tileAt s.wafer (tkey t)).cad (tileAt s.wafer (tkey t)).arr.pos).kind = 0 ∨ (fieldAt s.wafer (tkey t / 64)).level = 16) ∧
      blocked s.wafer = false :=
  ⟨withWord 0 (cadT [slg, sl1] .gate 0 0 fl) (lvl 16), { f := 0, t := 5 }, by decide +kernel⟩

theorem witness_CadenceSlotsComplete_2 :
    ∃ (s : State) (t : TileId) (p : CadPos), calm s = true ∧ (tileAt s.wafer (tkey t)).arr.phase = ArrPhase.idleSlot ∧
      blocked s.wafer = false ∧ (tileAt s.wafer (tkey t)).arr.loadFault = none ∧
      nextSlot (tileAt s.wafer (tkey t)).cad (tileAt s.wafer (tkey t)).arr.pos = some p :=
  ⟨withWord 0 (cadT [sli, sl1] .idleSlot 0 0) (lvl 16), { f := 0, t := 5 }, { bank := false, iter := 0, slot := 1, set := 0 },
    by decide +kernel⟩

theorem witness_CadenceSlotsComplete_3 :
    ∃ (s : State) (t : TileId), calm s = true ∧ (tileAt s.wafer (tkey t)).arr.phase = ArrPhase.idleSlot ∧
      blocked s.wafer = false ∧ (tileAt s.wafer (tkey t)).arr.loadFault = none ∧
      nextSlot (tileAt s.wafer (tkey t)).cad (tileAt s.wafer (tkey t)).arr.pos = none :=
  ⟨withWord 0 (cadT [sl1, sli] .idleSlot 1 0) (lvl 16), { f := 0, t := 5 }, by decide +kernel⟩

theorem witness_CadenceSlotsComplete_4 :
    ∃ (s : State) (t : TileId), calm s = true ∧ (tileAt s.wafer (tkey t)).arr.phase = ArrPhase.tableEnd ∧
      (tileAt s.wafer (tkey t)).cad.arm = false :=
  ⟨withWord 0 (cadT [sl1] .tableEnd 0 0), { f := 0, t := 5 }, by decide +kernel⟩

theorem witness_CadenceSlotsComplete_5 :
    ∃ (s : State) (t : TileId), (tileAt s.wafer (tkey t)).arr.phase = ArrPhase.tableEnd ∧
      (tileAt s.wafer (tkey t)).cad.arm = true :=
  ⟨withWord 0 (cadT [sl1] .tableEnd 0 0 (fun x => {x with cad := {x.cad with arm := true}})), { f := 0, t := 5 },
    by decide +kernel⟩

theorem witness_WeightSetsComplete_1 :
    ∃ (s : State) (t : TileId) (h : Shadow), tileSound (tileAt s.wafer (tkey t)) ∧
      (tileAt s.wafer (tkey t)).arr.shadow = some h ∧ h.ready = false := by
  refine ⟨withWord 0 (cadT [sl2] .entry 0 1 (ws (sh 0 0 1 false) none)) (lvl 0), { f := 0, t := 5 }, _,
    by unfold tileSound; decide +kernel, rfl, ?_⟩ <;> decide +kernel

theorem witness_WeightSetsComplete_2 :
    ∃ (s : State) (t : TileId) (h : Shadow), tileSound (tileAt s.wafer (tkey t)) ∧ blocked s.wafer = false ∧
      (tileAt s.wafer (tkey t)).arr.phase = ArrPhase.entry ∧ (fieldAt s.wafer (tkey t / 64)).level = 16 ∧
      closingHolds (tileAt s.wafer (tkey t)).arr = false ∧
      (slotAt (tileAt s.wafer (tkey t)).cad (tileAt s.wafer (tkey t)).arr.pos).reuse = false ∧
      ((tileAt s.wafer (tkey t)).arr.tile.getD (openTile (tileAt s.wafer (tkey t)).arr (slotAt (tileAt s.wafer (tkey t)).cad (tileAt s.wafer (tkey t)).arr.pos) (tileAt s.wafer (tkey t)).arr.pos)).retries = 0 ∧
      (tileAt s.wafer (tkey t)).arr.shadow = some h ∧ h.ready = true ∧ h.pos = (tileAt s.wafer (tkey t)).arr.pos := by
  refine ⟨withWord 0 (cadT [sl1] .entry 0 0 (ws (sh 0 0 0 true) (some (o1 true)))) (lvl 16), { f := 0, t := 5 }, _,
    by unfold tileSound; decide +kernel, ?_, ?_, ?_, ?_, ?_, ?_, rfl, ?_, ?_⟩ <;> decide +kernel

theorem witness_LevelBelow16HoldsArrays_1 :
    ∃ (s : State) (t : TileId) (held : Nat) (u : State), calm s = true ∧ (fieldAt s.wafer (tkey t / 64)).level ≠ 16 ∧
      exec (Instr.setEnter t held) s = Host.Outcome.next u := by
  refine ⟨withWord 0 (cadT [slg, sl1] .gate 0 0 fl) (lvl 15), { f := 0, t := 5 }, 5, _, ?_, ?_, rfl⟩ <;> decide +kernel

theorem witness_LevelBelow16HoldsArrays_2 :
    ∃ (s : State) (t : TileId), calm s = true ∧ (fieldAt s.wafer (tkey t / 64)).level ≠ 16 ∧
      (tileAt s.wafer (tkey t)).arr.phase = ArrPhase.gate ∧
      flagOf s.wafer (tkey t) (slotAt (tileAt s.wafer (tkey t)).cad (tileAt s.wafer (tkey t)).arr.pos).gateFlag = true ∧
      (slotAt (tileAt s.wafer (tkey t)).cad (tileAt s.wafer (tkey t)).arr.pos).kind ≠ 0 :=
  ⟨withWord 0 (cadT [slg, sl1] .gate 0 0 fl) (lvl 15), { f := 0, t := 5 }, by decide +kernel⟩

theorem witness_LevelBelow16HoldsArrays_3 :
    ∃ (s : State) (t : TileId), calm s = true ∧ (fieldAt s.wafer (tkey t / 64)).level ≠ 16 ∧
      (tileAt s.wafer (tkey t)).arr.phase = ArrPhase.entry ∧ setReady (tileAt s.wafer (tkey t)) = true ∧
      closingHolds (tileAt s.wafer (tkey t)).arr = false ∧ blocked s.wafer = false :=
  ⟨withWord 0 (cadT [sl1] .entry 0 0 (ws (sh 0 0 0 true) (some (o1 true)))) (lvl 0), { f := 0, t := 5 }, by decide +kernel⟩

theorem witness_LevelBelow16HoldsArrays_4 :
    ∃ (s : State) (t : TileId) (h : Shadow), calm s = true ∧ (fieldAt s.wafer (tkey t / 64)).level ≠ 16 ∧
      (tileAt s.wafer (tkey t)).arr.phase = ArrPhase.entry ∧ (tileAt s.wafer (tkey t)).arr.shadow = some h ∧
      h.ready = false ∧ tileSound (tileAt s.wafer (tkey t)) := by
  refine ⟨withWord 0 (cadT [sl2] .entry 0 1 (ws (sh 0 0 1 false) none)) (lvl 0), { f := 0, t := 5 }, _, ?_, ?_, ?_, rfl, ?_,
    by unfold tileSound; decide +kernel⟩ <;> decide +kernel

theorem witness_CapturesComplete_1 :
    ∃ (s : State) (t : TileId) (o : OutTile) (p : CadPos) (rest : List (OutTile × CadPos)), calm s = true ∧
      tileSound (tileAt s.wafer (tkey t)) ∧ (tileAt s.wafer (tkey t)).arr.closing = (o, p) :: rest ∧
      (tileAt s.wafer (tkey t)).arr.drain = none ∧ o.locked = false := by
  refine ⟨withWord 0 (cadT [sl1] .tableEnd 0 0 (cl (o1 false) 0 0)), { f := 0, t := 5 }, _,
    { bank := false, iter := 0, slot := 0, set := 0 }, [], ?_, by unfold tileSound; decide +kernel, rfl, ?_, ?_⟩ <;> decide +kernel

theorem witness_CapturesComplete_2 :
    ∃ (s : State) (t : TileId) (d : DrainBuf), calm s = true ∧ tileSound (tileAt s.wafer (tkey t)) ∧
      (tileAt s.wafer (tkey t)).arr.drain = some d :=
  ⟨withWord 0 (cadT [sl1] .rest 0 0 (fun x => {x with arr := {x.arr with drain := some ⟨0x90, [1,0,3]⟩}})),
    { f := 0, t := 5 }, { addr := 144, bytes := [1, 0, 3] }, by unfold tileSound; decide +kernel⟩

theorem witness_CapturesComplete_3 :
    ∃ (s : State) (t : TileId) (o : OutTile) (p : CadPos) (rest : List (OutTile × CadPos)),
      tileSound (tileAt s.wafer (tkey t)) ∧ (tileAt s.wafer (tkey t)).arr.closing = (o, p) :: rest ∧ o.locked = true ∧
      overflows o.accs = true ∧ o.retries < 3 ∧ o.s + 8 ≤ 511 ∧ o.start = p := by
  refine ⟨withWord 0 (cadT [sl1] .verdict 0 0 (cl {o1 true with s := 503, accs := List.replicate 4096 ⟨2^63,false,false,false,false⟩} 0 0)),
    { f := 0, t := 5 }, _, { bank := false, iter := 0, slot := 0, set := 0 }, [], by unfold tileSound; decide +kernel, rfl,
    ?_, ?_, ?_, ?_, ?_⟩ <;> decide +kernel

end Arrays

/-! ### Dma -/

namespace Dma

def own (off : Nat) : W64 := BitVec.ofNat 64 (2^56 + 127 * 2^34 + off)

def dsc (src dst x y dk did dadd mode : Nat) (rsvd : Nat := 0) : List W64 := [own src, own dst, BitVec.ofNat 64 (x + y*2^32), BitVec.ofNat 64 (x + x * 2^32), 0, 0, BitVec.ofNat 64 (0xF + mode*256 + dk*2^16+did*2^24+dadd*2^32+rsvd*2^48), 0]

def dma (e : Nat) (d : Dma) (x : Tile) : Tile := setDma x e d

def ent (ws : List W64) (seq : Nat) (g : DmaEntry → DmaEntry := id) : DmaEntry := g ⟨ws, seq, false, [], 0, 0, false, 0, 0, false, none, 0⟩

def done1 (q : DmaEntry) : DmaEntry := { q with started := true, asked := 1, sent := true, issued := 1, pieces := [⟨(own 0).toNat, (own 0x100).toNat, 8, some [1,2,0,3,4,5,6,7]⟩] }

def dmas : List State := ([0,1].flatMap (fun e => [
  withWord 0 (dma e {Dma.reset with posted := [⟨dsc 0 0x100 8 0 0 0 0 0, false⟩]}), withWord 0 (fun x => dma e {Dma.reset with posted := [⟨dsc 0 0x100 8 0 0 0 0 0, true⟩]} {x with vc := {x.vc with waits := [⟨.post,33⟩]}}),
  withWord 0 (dma e {Dma.reset with posted := [⟨dsc 0 0x100 8 0 0 0 0 0 1, false⟩, ⟨dsc 0 0x100 8 0 0 0 0 0, false⟩]}), withWord 0 (dma e {Dma.reset with posted := [⟨dsc 0 0x101 8 0 0 0 0 0, false⟩]}),
  withWord 0 (dma e {Dma.reset with queue := [ent (dsc 0 0x100 8 0 0 0 0 0) 3, ent (dsc 0 0x100 8 0 0 0 0 0) 4]}), withWord 0 (dma e {Dma.reset with queue := [ent (dsc 0 0x1000 1024 2 0 0 0 0) 3]}),
  withWord 0 (dma e {Dma.reset with queue := [ent (dsc 0 0x100 8 0 0 0 0 0) 3 done1, ent (dsc 0 0x100 8 0 0 0 0 0) 4]}), withWord 0 (dma e {Dma.reset with queue := [ent (dsc 0 0x100 8 0 1 255 0 0) 3 done1]}),
  withWord 0 (dma e {Dma.reset with queue := [ent (dsc 0 0x100 8 0 1 255 0 0) 3 done1]}) (fun s => {s with wafer := {s.wafer with fields := [(0, {Field.reset with watches := [(0, some ⟨some 5, .flag 5 255, .eq, .comp, 1⟩)]})]}}),
  withWord 0 (dma e {Dma.reset with queue := [ent (dsc 0 0x100 8 0 1 255 0 0) 3 (fun q => {q with sent := true, failed := some 7})]}) ]))

def frd (mode dest cnt ready done mask src dst : Nat) : List W64 := [BitVec.ofNat 64 (mode + dest*256+cnt*2^16+ready*2^32+done*2^40), BitVec.ofNat 64 mask, BitVec.ofNat 64 (src + dst*2^32), 0]

def fr (fr : Fru) (s : State) : State := {s with wafer := {s.wafer with fields := [(0, {Field.reset with fru := fr})]}}

def rdy (x : Tile) : Tile := {x with sync := {x.sync with flags := 0x8}}

def bk (b : BdsCtl) (y : Bds → Bds := id) (s : State) : State := {s with wafer := {s.wafer with fields := [(0, {Field.reset with bds := b})], tiles := s.wafer.tiles.map (fun p => (p.1, {p.2 with bds := y {p.2.bds with mem := [(3,4)]}}))}}

def bds : List State := [withWord 0, withWord 0 id (bk BdsCtl.reset (fun b => {b with refreshing := 1})), withWord 0 id (bk {BdsCtl.reset with g0 := .fencing, fence := [(0, [(5,0,3)])]}), withWord 0 id (bk {BdsCtl.reset with g3 := .entering} (fun b => {b with g3 := ⟨.entering, false⟩})),
  withWord 0 id (bk BdsCtl.reset (fun b => {b with g0 := ⟨.down, true⟩, g3 := ⟨.awake, true⟩})), withWord 0 id (bk {BdsCtl.reset with g0 := .fencing, g3 := .fencing} (fun b => {b with g0 := ⟨.down, true⟩, g3 := ⟨.fencing, true⟩}))
  , withWord 0 id (bk {BdsCtl.reset with g0 := .entering, g3 := .entering} (fun b => {b with g0 := ⟨.entering, true⟩, g3 := ⟨.entering, true⟩}))]

theorem witness_DescriptorsBegin_1 :
    ∃ (s : State) (t : TileId) (e : Fin 2) (p : DmaPosted) (rest : List DmaPosted), tileSound (tileAt s.wafer (tkey t)) ∧
      usable s.wafer (tkey t) = true ∧ (dmaOf (tileAt s.wafer (tkey t)) e.val).posted = p :: rest ∧
      (dmaOf (tileAt s.wafer (tkey t)) e.val).queue.length < 16 ∧ calm s = true ∧
      acceptCheck s.wafer (tkey t) (descOf p.words) = none ∧ p.fromCore = false := by
  refine ⟨(dmas).getD 0 .reset, { f := 0, t := 5 }, 0, _, [], by unfold tileSound; decide +kernel, ?_, rfl, ?_, ?_, ?_, ?_⟩ <;> decide +kernel

theorem witness_DescriptorsBegin_2 :
    ∃ (s : State) (t : TileId) (e : Fin 2) (p : DmaPosted) (rest : List DmaPosted), tileSound (tileAt s.wafer (tkey t)) ∧
      usable s.wafer (tkey t) = true ∧ (dmaOf (tileAt s.wafer (tkey t)) e.val).posted = p :: rest ∧
      (dmaOf (tileAt s.wafer (tkey t)) e.val).queue.length < 16 ∧ calm s = true ∧
      acceptCheck s.wafer (tkey t) (descOf p.words) = none ∧ p.fromCore = true := by
  refine ⟨(dmas).getD 1 .reset, { f := 0, t := 5 }, 0, _, [], by unfold tileSound; decide +kernel, ?_, rfl, ?_, ?_, ?_, ?_⟩ <;> decide +kernel

theorem witness_DescriptorsBegin_3 :
    ∃ (s : State) (t : TileId) (e : Fin 2) (p : DmaPosted) (rest : List DmaPosted) (c : Nat),
      tileSound (tileAt s.wafer (tkey t)) ∧ usable s.wafer (tkey t) = true ∧
      (dmaOf (tileAt s.wafer (tkey t)) e.val).posted = p :: rest ∧
      (dmaOf (tileAt s.wafer (tkey t)) e.val).queue.length < 16 ∧ acceptCheck s.wafer (tkey t) (descOf p.words) = some c ∧
      p.fromCore = false := by
  refine ⟨(dmas).getD 2 .reset, { f := 0, t := 5 }, 0, _, _, 1, by unfold tileSound; decide +kernel, ?_, rfl, ?_, ?_, ?_⟩ <;> decide +kernel

theorem witness_DescriptorsBegin_4 :
    ∃ (s : State) (t : TileId) (e : Fin 2) (q : DmaEntry) (ps : List DmaPiece) (off : DmaPiece → Nat), calm s = true ∧
      tileSound (tileAt s.wafer (tkey t)) ∧ s.wafer.halted = false ∧ s.wafer.frozen = false ∧
      (dmaOf (tileAt s.wafer (tkey t)) e.val).fault = 0 ∧
      (∀ r ∈ (dmaOf (tileAt s.wafer (tkey t)) e.val).queue, r.started = true → r.pieces.length ≤ r.asked) ∧
      (List.find? (fun r => !r.started) (dmaOf (tileAt s.wafer (tkey t)) e.val).queue = some q) ∧
      q = DmaEntry.accepted q.words q.seq ∧ (∀ r ∈ (dmaOf (tileAt s.wafer (tkey t)) e.val).queue, ¬r.seq < q.seq) ∧
      (descOf q.words).fence = false ∧ (descOf q.words).transpose = false ∧
      (∃ l, readList s.wafer (tkey t) (descOf q.words) = (some l, s.wafer)) ∧
      planPieces s.wafer (tkey t) (descOf q.words) = (ps, false) ∧
      (∀ r ∈ ps, bits r.src 63 56 = 1 ∧ place s.wafer (tkey t) r.src = Place.scratch (tkey t) (off r) ∧ (ownPlace s.wafer (tkey t) r.dst).isSome = true) := by
  refine ⟨(dmas).getD 4 .reset, { f := 0, t := 5 }, 0, _,
    [{ src := 72059775881314304, dst := 72059775881314560, len := 8, bytes := none }], fun r => bits r.src 27 0, ?_,
    by unfold tileSound; decide +kernel, ?_, ?_, ?_, ?_, rfl, ?_, ?_, ?_, ?_, ⟨_, rfl⟩, ?_, ?_⟩ <;> decide +kernel

theorem witness_DescriptorsEnd_1 :
    ∃ (s : State) (t : TileId) (e : Fin 2) (q : DmaEntry) (rest : List DmaEntry) (r : DmaPiece) (bs : List Byte) (off : Nat),
      calm s = true ∧ tileSound (tileAt s.wafer (tkey t)) ∧ (dmaOf (tileAt s.wafer (tkey t)) e.val).queue = q :: rest ∧
      q.over = true ∧ q.failed = none ∧ q.pieces = [r] ∧ r.bytes = some bs ∧ bs ≠ [] ∧
      place s.wafer (tkey t) r.dst = Place.scratch (tkey t) off ∧ (descOf q.words).transpose = false ∧
      (descOf q.words).block = false ∧ (descOf q.words).doneKind = 0 := by
  refine ⟨(dmas).getD 6 .reset, { f := 0, t := 5 }, 0, _, _,
    { src := 72059775881314304, dst := 72059775881314560, len := 8, bytes := some [1, 2, 0, 3, 4, 5, 6, 7] },
    [1, 2, 0, 3, 4, 5, 6, 7], 256, ?_, by unfold tileSound; decide +kernel, rfl, ?_, ?_, ?_, ?_, ?_, ?_, ?_, ?_, ?_⟩ <;> decide +kernel

theorem witness_DescriptorsEnd_2 :
    ∃ (s : State) (t : TileId) (e : Fin 2) (q : DmaEntry) (rest : List DmaEntry) (r : DmaPiece) (bs : List Byte) (off : Nat),
      calm s = true ∧ tileSound (tileAt s.wafer (tkey t)) ∧ (dmaOf (tileAt s.wafer (tkey t)) e.val).queue = q :: rest ∧
      q.over = true ∧ q.failed = none ∧ q.pieces = [r] ∧ r.bytes = some bs ∧ bs ≠ [] ∧
      place s.wafer (tkey t) r.dst = Place.scratch (tkey t) off ∧ (descOf q.words).transpose = false ∧
      (descOf q.words).block = false ∧ (descOf q.words).doneKind = 1 ∧ (descOf q.words).doneId < 256 := by
  refine ⟨(dmas).getD 7 .reset, { f := 0, t := 5 }, 0, _, [],
    { src := 72059775881314304, dst := 72059775881314560, len := 8, bytes := some [1, 2, 0, 3, 4, 5, 6, 7] },
    [1, 2, 0, 3, 4, 5, 6, 7], 256, ?_, by unfold tileSound; decide +kernel, rfl, ?_, ?_, ?_, ?_, ?_, ?_, ?_, ?_, ?_, ?_⟩ <;> decide +kernel

theorem witness_DescriptorsEnd_3 :
    ∃ (s : State) (t : TileId) (e : Fin 2) (q : DmaEntry) (rest : List DmaEntry) (c : BitVec 8),
      (dmaOf (tileAt s.wafer (tkey t)) e.val).queue = q :: rest ∧ (dmaOf (tileAt s.wafer (tkey t)) e.val).fault = 0 ∧
      q.failed = some c ∧ q.over = true ∧ q.pieces = [] := by
  refine ⟨(dmas).getD 9 .reset, { f := 0, t := 5 }, 0, _, [], 7, rfl, ?_, ?_, ?_, ?_⟩ <;> decide +kernel

theorem witness_ReductionUnitCompletes_1 :
    ∃ (s : State) (f : Fin 84) (q : List W64) (rest : List (List W64)), calm s = true ∧
      (fieldAt s.wafer f.val).fru.queue = q :: rest ∧ (fieldAt s.wafer f.val).fru.phase = FruPhase.waiting ∧
      (fieldAt s.wafer f.val).fi.armed = false ∧ fruCheck s.wafer (f.val) (fruDesc q) = none ∧ s.wafer.halted = false ∧
      s.wafer.frozen = false ∧ fruTiles (f.val) (fruDesc q) ≠ [] ∧
      (∀ t ∈ fruTiles (f.val) (fruDesc q), flagOf s.wafer t (fruDesc q).ready = true) :=
  ⟨withWord 0 rdy (fr {Fru.reset with phase := .waiting, queue := [frd 2 5 3 3 9 0x20 0 0x100]}), 0,
    [0x90300030502, 0x20, 0x10000000000, 0], [], by decide +kernel⟩

theorem witness_ReductionUnitCompletes_2 :
    ∃ (s : State) (f : Fin 84) (q : List W64) (rest : List (List W64)) (r : List Byte), calm s = true ∧
      (fieldAt s.wafer f.val).fru.queue = q :: rest ∧ (fieldAt s.wafer f.val).fru.result = some r ∧ (fruDesc q).dest < 64 ∧
      tileSound (tileAt s.wafer (64 * f.val + (fruDesc q).dest)) :=
  ⟨withWord 0 rdy (fr {Fru.reset with phase := .writing, result := some [1,2,0,5], queue := [frd 2 5 3 3 9 0x20 0 0x100]}), 0,
    [0x90300030502, 0x20, 0x10000000000, 0], [], [1, 2, 0, 5], by unfold tileSound; decide +kernel⟩

theorem witness_BankGroupsComplete_1 :
    ∃ (s : State) (t : TileId) (bank : Fin 16), calm s = true ∧ (tileAt s.wafer (tkey t)).bds.refreshing = 0 ∧
      groupUp (groupOf (tileAt s.wafer (tkey t)).bds (bank.val / 4)) = true :=
  ⟨withWord 0, { f := 0, t := 5 }, 0, by decide +kernel⟩

theorem witness_BankGroupsComplete_2 :
    ∃ (s : State) (t : TileId) (bank : Fin 16), calm s = true ∧
      (tileAt s.wafer (tkey t)).bds.refreshing.getLsbD bank.val = true :=
  ⟨withWord 0 id (bk BdsCtl.reset (fun b => {b with refreshing := 1})), { f := 0, t := 5 }, 0, by decide +kernel⟩

theorem witness_BankGroupsComplete_3 :
    ∃ (s : State) (f : Fin 84) (g : Fin 4), calm s = true ∧ ctlGroup (fieldAt s.wafer f.val).bds g.val = GState.fencing ∧
      (∀ d ∈ mget [] (fieldAt s.wafer f.val).bds.fence g.val, d ∉ fieldDescs s.wafer f.val) :=
  ⟨withWord 0 id (bk {BdsCtl.reset with g0 := .fencing, fence := [(0, [(5,0,3)])]}), 0, 0, by decide +kernel⟩

theorem witness_BankGroupsComplete_4 :
    ∃ (s : State) (f : Fin 84) (g : Fin 4), calm s = true ∧ ctlGroup (fieldAt s.wafer f.val).bds g.val = GState.entering ∧
      (fieldAt s.wafer f.val).bds.clear.getLsbD g.val = false :=
  ⟨withWord 0 id (bk {BdsCtl.reset with g3 := .entering} (fun b => {b with g3 := ⟨.entering, false⟩})), 0, 3,
    by decide +kernel⟩

theorem witness_BankGroupsComplete_5 :
    ∃ (s : State) (t : TileId) (g : Fin 4), calm s = true ∧ (groupOf (tileAt s.wafer (tkey t)).bds g.val).waking = true ∧
      (groupOf (tileAt s.wafer (tkey t)).bds g.val).state ≠ GState.entering :=
  ⟨withWord 0 id (bk BdsCtl.reset (fun b => {b with g0 := ⟨.down, true⟩, g3 := ⟨.awake, true⟩})), { f := 0, t := 5 }, 0,
    by decide +kernel⟩

end Dma

/-! ### Packets -/

namespace Packets

def own (_t off : Nat) : Nat := 2^56 + 127 * 2^34 + off

def bdsA (off : Nat) : Nat := 2*2^56 + 127 * 2^34 + off

def net (l : List Packet) (s : State) : State := {s with wafer := {s.wafer with net := {s.wafer.net with inflight := l}}}

def watches (l : List Watch) (s : State) : State := {s with wafer := {s.wafer with fields := [(0, {Field.reset with watches := l.zipIdx.map (fun p => (p.2, some p.1))})]}}

def other : Packet := ⟨.tile 9, .tile 70, 6, .nrd (own 0 0), 0, .none, 0, 0, none⟩

def pk (k : PktKind) (vc : Nat := 6) (o : Owner := .none) (src : Endpoint := .tile 70) : Packet := ⟨src, .tile 5, vc, k, 4, o, 77, 0, none⟩

def both (p : Packet) (g : Tile → Tile := id) (h : State → State := id) : List State := [withWord 0 g (fun s => net [p] (h s)), withWord 0 g (fun s => net [other, p, other] (h s))]

def accs : List State :=
  both (pk (.rdReq (own 0 3) 20) 5) ++ both (pk (.rdReq (own 0 786424) 8) 3 (.dma 1 3 0) (.rim 3)) ++ both (pk (.nrd (own 0 8)) 6 (.core 5)) ++ both (pk (.wr (own 0 100) [1,2,0,3]) 6 .none) ++ both {pk (.wr (own 0 64) ((List.range 32).map (BitVec.ofNat 8))) 6 .none with block := some (4, 2, 0x121)} ++ both (pk (.nwr (own 0 100) [1,2,0,3]) 6 (.core 1))

def ent : DmaEntry := ⟨[], 3, true, [⟨0,0,4,none⟩,⟨0,0,4,none⟩], 2, 2, true, 2, 2, false, none, 0⟩

def wdma (e : Nat) (x : Tile) : Tile := setDma x e {Dma.reset with queue := [ent]}

def ent1 : DmaEntry := { ent with sent := false }

def wdma1 (e : Nat) (x : Tile) : Tile := setDma x e {Dma.reset with queue := [ent1]}

def fruD : List W64 := [1, 0, 0, 0, 0, 0, 0, 0]

def frus (l : List (List (Option (List Byte)))) (s : State) : State := {s with wafer := {s.wafer with fields := [(3, {Field.reset with fru := {Field.reset.fru with queue := [fruD], phase := .reading, pulled := l}})]}}

def slp (x : Tile) : Tile := {x with bds := {x.bds with g0 := ⟨.down, false⟩, g1 := ⟨.down, true⟩}}

def anss : List State :=
  both (pk (.nrdResp 0 [1,2,3,4,5,6,7,8]) 6 (.core 2)) (fun x => {x with vc := {x.vc with waits := [⟨.load, 31⟩]}}) ++
  both (pk (.rdResp 0 [1,2,3,4]) 6 (.dma 0 3 1)) (wdma1 0) ++ both {pk (.rdResp 0 [1,2,3,4]) 6 (.fru 0 0) with dst := .fru 3} id (frus [[none], [none]]) ++ both {pk (.rdResp 0 [1,2,3,4]) 6 (.fru 0 0) with dst := .fru 3} id (frus [[none]]) ++ both (pk (.rdResp 0 [1,2,3,4]) 6 (.dma 1 3 0)) (wdma 1) ++ both (pk (.wrAck 0) 6 (.dma 1 3 0)) (wdma 1) ++
  both (pk (.stream 1 0x40 [1,2,3]) 2) ++ both (pk (.stream 1 0x40 [1,2,3]) 2) id (watches [⟨some 5, .ctr 5 1, .eq, .add 5 7 3, 1⟩]) ++
  both (pk (.sync (.set 5 255 true)) 0) ++ both (pk (.sync (.set 5 0 true)) 0) id (watches [⟨some 5, .flag 5 0, .eq, .set 5 7, 1⟩, ⟨some 5, .flag 5 0, .eq, .wake 6, 1⟩]) ++
  both (pk (.nrd (bdsA 0)) 6 (.core 2)) slp ++ both (pk (.rdReq (bdsA 0x3FFFFFC) 10) 6 (.core 2)) slp

theorem witness_AccessPacketsComplete_1 :
    ∃ (s : State) (n : Nat) (u : Nat) (p : Packet) (a : Nat) (len : Nat), calm s = true ∧ servedAt s.wafer n p u ∧
      bits a 63 56 = 1 ∧ p.kind = PktKind.rdReq a len ∧ bits a 27 0 + len ≤ spBytes := by
  refine ⟨(accs).getD 0 .reset, 0, 5, _, 72059775881314307, 20, ?_,
    ⟨rfl, by decide +kernel, by decide +kernel, by decide +kernel, by unfold tileSound; decide +kernel⟩, ?_, ?_, ?_⟩ <;> decide +kernel

theorem witness_AccessPacketsComplete_2 :
    ∃ (s : State) (n : Nat) (u : Nat) (p : Packet) (a : Nat), calm s = true ∧ servedAt s.wafer n p u ∧ bits a 63 56 = 1 ∧
      p.kind = PktKind.nrd a ∧ bits a 27 0 + 8 ≤ spBytes := by
  refine ⟨(accs).getD 1 .reset, 0, 70, _, 72059775881314304, ?_,
    ⟨rfl, by decide +kernel, by decide +kernel, by decide +kernel, by unfold tileSound; decide +kernel⟩, ?_, ?_, ?_⟩ <;> decide +kernel

theorem witness_AccessPacketsComplete_3 :
    ∃ (s : State) (n : Nat) (u : Nat) (p : Packet) (a : Nat) (bs : List Byte), calm s = true ∧ servedAt s.wafer n p u ∧
      bits a 63 56 = 1 ∧ bits a 27 0 + bs.length ≤ spBytes ∧ p.kind = PktKind.wr a bs := by
  refine ⟨(accs).getD 6 .reset, 0, 5, _, 72059775881314404, [1, 2, 0, 3], ?_,
    ⟨rfl, by decide +kernel, by decide +kernel, by decide +kernel, by unfold tileSound; decide +kernel⟩, ?_, ?_, ?_⟩ <;> decide +kernel

theorem witness_AccessPacketsComplete_4 :
    ∃ (s : State) (n : Nat) (u : Nat) (p : Packet) (a : Nat) (bs : List Byte), calm s = true ∧ servedAt s.wafer n p u ∧
      bits a 63 56 = 1 ∧ bits a 27 0 + bs.length ≤ spBytes ∧ p.kind = PktKind.nwr a bs := by
  refine ⟨(accs).getD 10 .reset, 0, 5, _, 72059775881314404, [1, 2, 0, 3], ?_,
    ⟨rfl, by decide +kernel, by decide +kernel, by decide +kernel, by unfold tileSound; decide +kernel⟩, ?_, ?_, ?_⟩ <;> decide +kernel

theorem witness_AnswersAndOtherPacketsComplete_1 :
    ∃ (s : State) (n : Nat) (u : Nat) (p : Packet) (bs : List Byte) (pc : Nat) (r : Nat), calm s = true ∧
      arriving s.wafer n = some p ∧ p.dst = Endpoint.tile u ∧ usable s.wafer u = true ∧ p.kind = PktKind.nrdResp 0 bs ∧
      p.owner = Owner.core pc ∧ (tileAt s.wafer u).vc.waits.head? = some { kind := WaitKind.load, dst := r } ∧ r < 32 := by
  refine ⟨(anss).getD 0 .reset, 0, 5, _, [1, 2, 3, 4, 5, 6, 7, 8], 2, 31, ?_, rfl, ?_, ?_, ?_, ?_, ?_⟩ <;> decide +kernel

theorem witness_AnswersAndOtherPacketsComplete_2 :
    ∃ (s : State) (n : Nat) (u : Nat) (p : Packet) (bs : List Byte) (e : Nat) (i : Nat) (q : DmaEntry), calm s = true ∧
      arriving s.wafer n = some p ∧ p.dst = Endpoint.tile u ∧ usable s.wafer u = true ∧ p.kind = PktKind.rdResp 0 bs ∧
      p.owner = Owner.dma e q.seq i ∧ (dmaOf (tileAt s.wafer u) e).queue = [q] ∧
      (tileAt s.wafer u).dma0.queue ++ (tileAt s.wafer u).dma1.queue = [q] ∧ q.pieces.length ≤ q.asked ∧ q.sent = false ∧
      1 < q.readsDue := by
  refine ⟨(anss).getD 2 .reset, 0, 5, _, [1, 2, 3, 4], 0, 1, ent1, ?_, rfl, ?_, ?_, ?_, ?_, ?_, ?_⟩ <;> decide +kernel

theorem witness_AnswersAndOtherPacketsComplete_3 :
    ∃ (s : State) (n : Nat) (u : Nat) (p : Packet) (e : Nat) (i : Nat) (q : DmaEntry), calm s = true ∧
      arriving s.wafer n = some p ∧ p.dst = Endpoint.tile u ∧ usable s.wafer u = true ∧ p.kind = PktKind.wrAck 0 ∧
      p.owner = Owner.dma e q.seq i ∧ (dmaOf (tileAt s.wafer u) e).queue = [q] ∧
      (tileAt s.wafer u).dma0.queue ++ (tileAt s.wafer u).dma1.queue = [q] ∧ q.pieces.length ≤ q.asked ∧ q.sent = true ∧
      (planWrites (descOf q.words) q.pieces).length ≤ q.issued := by
  refine ⟨(anss).getD 10 .reset, 0, 5, _, 1, 0, ent, ?_, rfl, ?_, ?_, ?_, ?_, ?_, ?_⟩ <;> decide +kernel

theorem witness_AnswersAndOtherPacketsComplete_4 :
    ∃ (s : State) (n : Nat) (p : Packet) (bs : List Byte) (f : Nat) (part : Nat) (i : Nat) (q : List W64) (rest : List (List W64)),
      calm s = true ∧ arriving s.wafer n = some p ∧ p.dst = Endpoint.fru f ∧ p.kind = PktKind.rdResp 0 bs ∧
      p.owner = Owner.fru part i ∧ (fieldAt s.wafer f).fru.phase = FruPhase.reading ∧
      (fieldAt s.wafer f).fru.queue = q :: rest := by
  refine ⟨(anss).getD 4 .reset, 0, _, [1, 2, 3, 4], 3, 0, 0, _, [], ?_, rfl, ?_, ?_, ?_, ?_, rfl⟩ <;> decide +kernel

theorem witness_AnswersAndOtherPacketsComplete_5 :
    ∃ (s : State) (n : Nat) (u : Nat) (p : Packet) (off : Nat) (bs : List Byte), calm s = true ∧ servedAt s.wafer n p u ∧
      p.kind = PktKind.stream 1 off bs := by
  refine ⟨(anss).getD 12 .reset, 0, 5, _, 64, [1, 2, 3], ?_,
    ⟨rfl, by decide +kernel, by decide +kernel, by decide +kernel, by unfold tileSound; decide +kernel⟩, ?_⟩ <;> decide +kernel

theorem witness_AnswersAndOtherPacketsComplete_6 :
    ∃ (s : State) (n : Nat) (u : Nat) (p : Packet) (id : Nat), calm s = true ∧ arriving s.wafer n = some p ∧
      p.kind = PktKind.sync (SyncMsg.set u id true) ∧ id < 256 := by
  refine ⟨(anss).getD 16 .reset, 0, 5, _, 255, ?_, rfl, ?_, ?_⟩ <;> decide +kernel

theorem witness_AnswersAndOtherPacketsComplete_7 :
    ∃ (s : State) (n : Nat) (u : Nat) (p : Packet) (off : Nat) (len : Nat), calm s = true ∧ arriving s.wafer n = some p ∧
      bdsTarget p = some (u, off, len) ∧ isLate s.wafer p = true := by
  refine ⟨(anss).getD 20 .reset, 0, 5, _, 0, 8, ?_, rfl, ?_, ?_⟩ <;> decide +kernel

theorem witness_AnswersAndOtherPacketsComplete_8 :
    ∃ (s : State) (t : TileId), calm s = true ∧ (tileAt s.wafer (tkey t)).fi.armed = false :=
  ⟨(anss).getD 0 .reset, { f := 0, t := 5 }, by decide +kernel⟩

end Packets

/-! ### Rims -/

namespace Rims

def rims (l : List (Nat × Rim)) (s : State) : State := {s with wafer := {s.wafer with rims := l}}

def net (l : List Packet) (s : State) : State := {s with wafer := {s.wafer with net := {s.wafer.net with inflight := l, mcast := [(4, [5, 6, 70, 5375])]}}}

def ue (g : StreamEntry → StreamEntry := id) : StreamEntry := g ⟨0x40, 1024, 2^28 + 0x1000, 4, false, false, 3, 1, 2, 0, 0⟩

def str (g : Stream → Stream) : Rim := { Rim.reset with mem := [(0x41, 3)], stream := g { Stream.reset with schedule := [ue, ue (fun e => {e with lag := 0xFF, layer := 1, gateEn := true})], started := true, step := 1 }, ready := [(2, 0)] }

def ar (a : Area) (r : Rim) : Rim := {r with mem := [(63,1),(64,2),(64+16*64+16-1, 4), (64+16*64+16,3)], areas := [(9, a)], cache := [⟨9,0,List.replicate 32 5,1⟩, ⟨8,0,List.replicate 32 5,0⟩]}

def ax : Area := {Area.reset with base := 64, count := 64, t := -20, expect := 3, state := .zeroing}

def accP (l : Nat) : Packet := ⟨.tile 5, .rim 3, 4, .acc (3*2^56 + 8*2^40 + 3*2^36 + 9*2^28 + 128*l) ((List.replicate 128 0x3f)), 9, .dma 0 3 0, 55, 0, none⟩

def lf (fs : List (Nat × Field)) (s : State) : State := {s with wafer := {s.wafer with fields := fs}}

def ln (l : BanLine) (s : State) : State := {s with wafer := {s.wafer with lines := [(4,l),(15,l)]}}

def tr (role : Nat) (p : Option Nat) (c : List Nat) (s : State) : State := {s with tree := {s.tree with cfg := {s.tree.cfg with set := true, role := role, parent := p, children := c}}}

theorem witness_StreamEntriesComplete_1 :
    ∃ (s : State) (k : Fin 16) (e : StreamEntry), calm s = true ∧ s.wafer.halted = false ∧ s.wafer.frozen = false ∧
      rimSound (rimAt s.wafer k.val) ∧ (rimAt s.wafer k.val).stream.started = true ∧
      entryAt (rimAt s.wafer k.val) (rimAt s.wafer k.val).stream.read = some e ∧
      (rimAt s.wafer k.val).stream.used + 512 ≤ 16777216 ∧ e.src + e.bytes ≤ rimReserved ∧
      (∀ (o : StreamEntry), entryAt (rimAt s.wafer k.val) (rimAt s.wafer k.val).stream.sent = some o → e.layer ≤ o.layer + 1) ∧
      entryReady (rimAt s.wafer k.val) e = true := by
  refine ⟨rims [(3, str id)] upState, 3, _, ?_, ?_, ?_, by unfold rimSound; decide +kernel, ?_, rfl, ?_, ?_, ?_, ?_⟩ <;> decide +kernel

theorem witness_StreamEntriesComplete_2 :
    ∃ (s : State) (k : Fin 16) (e : StreamEntry) (bs : List Byte) (rest : List (List Byte)), calm s = true ∧
      s.wafer.halted = false ∧ s.wafer.frozen = false ∧ (rimAt s.wafer k.val).stream.buffer = bs :: rest ∧
      entryAt (rimAt s.wafer k.val) (rimAt s.wafer k.val).stream.sent = some e ∧ gatePassed s.wafer (k.val) e = true := by
  refine ⟨rims [(3, str (fun s => {s with read := 1, buffer := [[1,2]]}))] upState, 3, _, [1, 2], [], ?_, ?_, ?_, ?_, rfl, ?_⟩ <;> decide +kernel

theorem witness_AreasComplete_1 :
    ∃ (s : State) (k : Fin 16) (a : Fin 256) (base : Nat) (count : Nat) (expect : Nat) (t : Int), calm s = true ∧
      inTree s = false ∧ (areaAt (rimAt s.wafer k.val) a.val).state = AreaState.free ∧ base % 64 = 0 ∧
      (areaShape s (k.val) (a.val) count expect).1 % 32 = 0 ∧ 0 < (areaShape s (k.val) (a.val) count expect).1 ∧
      (areaShape s (k.val) (a.val) count expect).1 ≤ 16777216 ∧ -160 ≤ areaScale s (k.val) (a.val) t ∧
      areaScale s (k.val) (a.val) t ≤ 128 ∧ 1 ≤ (areaShape s (k.val) (a.val) count expect).2 ∧
      (areaShape s (k.val) (a.val) count expect).2 ≤ 2 ^ 32 ∧
      base + 16 * (areaShape s (k.val) (a.val) count expect).1 + (areaShape s (k.val) (a.val) count expect).1 / 4 ≤ rimReserved :=
  ⟨upState, 0, 0, 0, 64, 1, -160, by decide +kernel⟩

theorem witness_AreasComplete_2 :
    ∃ (s : State) (k : Fin 16) (a : Fin 256), calm s = true ∧
      (areaAt (rimAt s.wafer k.val) a.val).state = AreaState.zeroing ∧ inTree s = false :=
  ⟨rims [(3, ar ax .reset)] upState, 3, 9, by decide +kernel⟩

theorem witness_AreasComplete_3 :
    ∃ (s : State) (k : Fin 16) (n : Nat), calm s = true ∧ n < 32766 ∧ (rimAt s.wafer k.val).block n = BlockState.zero :=
  ⟨upState, 0, 0, by decide +kernel⟩

theorem witness_AreasComplete_4 :
    ∃ (s : State) (n : Nat) (k : Fin 16) (p : Packet) (addr : Nat) (l : Nat) (bs : List Byte), calm s = true ∧
      s.wafer.halted = false ∧ (s.train.step.begun = true → s.train.step.barrier = true) ∧ inTree s = false ∧
      rimSound (rimAt s.wafer k.val) ∧ arriving s.wafer n = some p ∧ p.kind = PktKind.acc addr bs ∧
      p.dst = Endpoint.rim k.val ∧ bits addr 43 40 = 8 ∧ bits addr 27 0 = 128 * l ∧ bs.length = 128 ∧
      l < (areaAt (rimAt s.wafer k.val) (bits addr 35 28)).lines ∧
      (areaAt (rimAt s.wafer k.val) (bits addr 35 28)).state = AreaState.open ∧
      arrivalsOf (rimAt s.wafer k.val) (bits addr 35 28) l + 1 < (areaAt (rimAt s.wafer k.val) (bits addr 35 28)).expect ∧
      (rimAt s.wafer k.val).cache.length ≤ 16383 := by
  refine ⟨net [accP 0] (rims [(3, ar {ax with state := .open} .reset)] upState), 0, 3, _, 216181786781155328, 0, _, ?_, ?_,
    ?_, ?_, by unfold rimSound; decide +kernel, rfl, rfl, ?_, ?_, ?_, ?_, ?_, ?_, ?_, ?_⟩ <;> decide +kernel

theorem witness_LinesAndSimmerComplete_1 :
    ∃ (s : State) (l : Fin 16), calm s = true ∧ lineDone s.wafer l.val = true ∧ s.wafer.halted = false ∧
      (lineAt s.wafer l.val).tree = false :=
  ⟨ln ⟨true,false,true,false⟩ upState, 4, by decide +kernel⟩

theorem witness_LinesAndSimmerComplete_2 :
    ∃ (s : State) (l : Fin 16), calm s = true ∧ lineDone s.wafer l.val = true ∧ s.wafer.halted = false ∧
      (lineAt s.wafer l.val).tree = true ∧ childrenArrived s l.val = true ∧ (lineAt s.wafer l.val).sent = false ∧
      (parentBundle s).isSome = true :=
  ⟨tr 2 (some 1) [] (ln ⟨true,true,true,false⟩ upState), 4, by decide +kernel⟩

theorem witness_LinesAndSimmerComplete_3 :
    ∃ (s : State), s.pwr.phase = PowerPhase.active ∧ 20 ≤ s.pwr.longWait ∧ rampAsked s = false ∧ allAt s.wafer 0 = false ∧
      s.wafer.frozen = false :=
  ⟨{lf [(3, {Field.reset with level := 15}), (4, {Field.reset with level := 1})] upState with pwr := {upState.pwr with longWait := 20}},
    by decide +kernel⟩

theorem witness_LinesAndSimmerComplete_4 :
    ∃ (s : State), s.pwr.phase = PowerPhase.active ∧ rampAsked s = true ∧ allAt s.wafer 16 = false ∧
      s.wafer.frozen = false :=
  ⟨{lf [(3, {Field.reset with level := 15, pending := true}), (4, {Field.reset with level := 16})] upState with pwr := {upState.pwr with longWait := 20}},
    by decide +kernel⟩

end Rims

/-! ### Steps -/

namespace Steps

def few (s : State) : State := { s with wafer := { s.wafer with off := ~~~(1#84), tiles := [(0, {Tile.reset with sync := {SyncBlock.reset with flags := 1}})] } }

def areas (l : List (Nat × Area)) (r : Rim) : Rim := {r with areas := l}

def ac : Area := {Area.reset with base := 0x2000000, count := 64, t := -20, expect := 1, state := .complete}

theorem witness_StepsBeginAndRunBackward_1 :
    ∃ (s : State), calm s = true ∧ mayBegin s = true ∧ (∀ (k : Nat), (rimAt s.wafer k).unc = []) ∧ s.wafer.comp.unc = [] := by
  refine ⟨few (jobState), ?_, ?_, fun _ => rfl, ?_⟩ <;> decide +kernel

theorem witness_StepsBeginAndRunBackward_2 :
    ∃ (s : State), calm s = true ∧ stepping s = true ∧ s.train.step.begun = false ∧ s.train.step.waiting = false ∧
      batchOf s (currentStep s) = none ∧ s.wafer.halted = false :=
  ⟨few (jobState (fun t => {t with batches := []})), by decide +kernel⟩

theorem witness_StepsBeginAndRunBackward_3 :
    ∃ (s : State), calm s = true ∧ s.wafer.halted = false ∧ s.wafer.frozen = false ∧ inTree s = false ∧
      s.train.step.begun = true ∧ s.train.step.barrier = false ∧
      ((List.any s.wafer.tiles fun p => usable s.wafer p.1 && draining p.2) = false) :=
  ⟨few (jobState (inStep id)), by decide +kernel⟩

theorem witness_StepsBeginAndRunBackward_4 :
    ∃ (s : State) (t : Nat) (d : Reduction), calm s = true ∧ s.wafer.halted = false ∧ s.wafer.frozen = false ∧
      redOf s t = some d ∧ d.low = true ∧ rimSound (rimAt s.wafer d.rim) ∧ s.train.step.barrier = true ∧
      (tstep s t).phat = false ∧ globalReady s d.rim d.pArea = true :=
  ⟨few (jobState (inStep (fun x => {x with barrier := true})) (setRims [(0, areas [(0, ac), (1, ac)] .reset), (1, areas [(4, ac)] .reset)])),
    1, red1, by unfold rimSound; decide +kernel⟩

theorem witness_StepsBeginAndRunBackward_5 :
    ∃ (s : State) (t : Nat) (d : Reduction), calm s = true ∧ s.wafer.halted = false ∧ s.wafer.frozen = false ∧
      redOf s t = some d ∧ d.low = true ∧ rimSound (rimAt s.wafer d.rim) ∧ (tstep s t).qloc = true ∧
      (tstep s t).qglob = false ∧ globalReady s d.rim d.qArea = true :=
  ⟨few (jobState (inStep (fun x => {x with barrier := true, tensors := [(1, {TensorStep.reset with qloc := true, phat := true})]})) (setRims [(0, areas [(0, ac), (1, ac)] .reset)])),
    1, red1, by unfold rimSound; decide +kernel⟩

theorem witness_StepsBeginAndRunBackward_6 :
    ∃ (s : State) (k : Fin 16) (a : Fin 256), calm s = true ∧ s.wafer.halted = false ∧ s.wafer.frozen = false ∧
      s.train.step.barrier = true ∧ rimSound (rimAt s.wafer k.val) ∧
      (areaAt (rimAt s.wafer k.val) a.val).state = AreaState.complete :=
  ⟨few (jobState (inStep (fun x => {x with barrier := true})) (setRims [(0, areas [(0, ac), (1, ac)] .reset), (1, areas [(4, ac)] .reset)])),
    0, 0, by unfold rimSound; decide +kernel⟩

end Steps

/-! ### Updates -/

namespace Updates

def few (s : State) : State := { s with wafer := { s.wafer with off := ~~~(1#84), tiles := [(0, {Tile.reset with sync := {SyncBlock.reset with flags := 1}})] } }

def bar (g : StepState → StepState := id) : Train → Train := inStep (fun x => g {x with barrier := true})

def ts (n : Option W32 := none) (q := true) : TensorStep := {TensorStep.reset with qloc := true, phat := true, qglob := q, ns := n}

def img (d : Reduction) (v : Nat) (r : Rim) : Rim := {r with mem := (r.mem.writeN (imageOff d .qglob) (leBytes 4 v)).writeN (imageOff d .phat) (leBytes 4 0x3f800000)}

def nv (l1 l2 : Option W32) (h : List W32 := [1]) (q := true) (r0 : Rim := Rim.reset) : State := few (jobState (fun t => {bar (fun x => {x with tensors := [(1, ts l1 q), (2, ts l2 q)]}) t with hist := h}) (setRims [(0, img red1 0x40000000 r0), (1, img red2 0x40400000 .reset)]))

def ap (g : StepState → StepState := id) : Train → Train := bar (fun x => g {x with verdict := .apply, tensors := [(1, ts (some 0x3f800000)), (2, ts (some 0))]})

def r0 (v : Nat) (g : Rim → Rim := id) : Rim := g (img red1 v .reset)

def slw (x : SlowTensor) (t : Train) : Train := {t with slow := [(2, x)]}

def sg : SlowTensor := {SlowTensor.reset with retained := [(3, 15, List.replicate 128 0x3f800000)], step0 := BitVec.allOnes 64, step1 := BitVec.allOnes 64}

def cm (v : Verdict) (g : StepState → StepState := id) (t : Train) : Train := inStep (fun x => g {x with barrier := true, verdict := v, shards := [(1,0)], norm := 9, tensors := [(1, ts (some 0x3f800000)), (2, {ts (some 0) with slow := true})]}) t

def cms : List State := ([.apply, .skip, .quarantine].flatMap (fun v => [few (jobState (cm v)), few (jobState (fun t => cm v (fun x => {x with named := [1], amax := [(0, 0x3f800000), (1,0x7f800000)]}) {t with clean := 1, skips := 2, state := .closing, run := some {run0 with left := some 1, stop := true, verify := true, slot := 0}}))])) ++
  [few (jobState (cm .apply (fun x => {x with due := 0x10}))), few (jobState (cm .apply (fun x => {x with due := 0x1, attempts := 6, aborts := 8}))), few (jobState (cm .apply (fun x => {x with due := 0x1f, attempts := 7}))), few (jobState (fun t => {cm .pending (fun x => {x with due := 0x1f, attempts := 7}) t with state := .closing}))]

theorem witness_NormAndVerdictComplete_1 :
    ∃ (s : State) (t : Nat) (d : Reduction) (l : List W32), calm s = true ∧ s.wafer.halted = false ∧ s.wafer.frozen = false ∧
      s.tree.cfg.role = 0 ∧ redOf s t = some d ∧ (tstep s t).ns = none ∧ normReady s d = true ∧
      normValues s d = (some l, s.wafer) := by
  refine ⟨nv none none, 1, red1, _, ?_, ?_, ?_, ?_, ?_, ?_, ?_, rfl⟩ <;> decide +kernel

theorem witness_NormAndVerdictComplete_2 :
    ∃ (s : State) (j : Job), calm s = true ∧ s.wafer.halted = false ∧ s.wafer.frozen = false ∧ s.tree.cfg.role = 0 ∧
      s.train.job = some j ∧ s.train.step.verdict = Verdict.pending ∧ s.train.step.barrier = true ∧
      ((j.reds.all fun d => (tstep s d.id).ns.isSome) = true) :=
  ⟨nv (some 0x3f800000) (some 0x3f800000), job0, by decide +kernel⟩

theorem witness_UpdateUnitsComplete_1 :
    ∃ (s : State) (t : Nat) (sh : Nat) (j : Job) (d : Reduction) (p : Placement), calm s = true ∧
      (∀ (k : Nat), rimSound (rimAt s.wafer k)) ∧ s.wafer.comp.unc = [] ∧ s.wafer.fiMod.armed = false ∧
      s.train.job = some j ∧ redOf s t = some d ∧ placeOf s t = some p ∧ d.slow = false ∧
      s.train.step.verdict = Verdict.apply ∧ s.train.replay = none ∧
      (d.low = true → (tstep s t).phat = true ∧ (tstep s t).qglob = true) ∧ (t, sh) ∉ s.train.step.shards ∧
      sh < shardCount d p ∧ s.wafer.halted = false ∧ s.wafer.frozen = false ∧
      ((shardResults s j d p sh (if d.low = true then bytesWords ((rimAt s.wafer d.rim).mem.readN (imageOff d Image.phat) (4 * imageLen d Image.phat)) else []) (if d.low = true then bytesWords ((rimAt s.wafer d.rim).mem.readN (imageOff d Image.qglob) (4 * imageLen d Image.qglob)) else [])).any badResult = false) := by
  refine ⟨few (jobState ap (setRims [(0, r0 0x40000000)])), 1, 0, job0, red1, pl1, ?_,
    fun k => by cases k with | zero => unfold rimSound; decide +kernel | succ n => exact ⟨rfl, rfl, rfl⟩, ?_, ?_, ?_, ?_, ?_,
    ?_, ?_, ?_, ?_, ?_, ?_, ?_, ?_, ?_⟩ <;> decide +kernel

theorem witness_UpdateUnitsComplete_2 :
    ∃ (s : State) (t : Nat) (sh : Nat) (j : Job) (d : Reduction) (p : Placement), calm s = true ∧
      (∀ (k : Nat), rimSound (rimAt s.wafer k)) ∧ s.wafer.comp.unc = [] ∧ s.wafer.fiMod.armed = false ∧
      s.train.job = some j ∧ redOf s t = some d ∧ placeOf s t = some p ∧ d.slow = false ∧
      s.train.step.verdict = Verdict.apply ∧ s.train.replay = none ∧
      (d.low = true → (tstep s t).phat = true ∧ (tstep s t).qglob = true) ∧ (t, sh) ∉ s.train.step.shards ∧
      sh < shardCount d p ∧ s.wafer.halted = false ∧ s.wafer.frozen = false ∧
      ((shardResults s j d p sh (if d.low = true then bytesWords ((rimAt s.wafer d.rim).mem.readN (imageOff d Image.phat) (4 * imageLen d Image.phat)) else []) (if d.low = true then bytesWords ((rimAt s.wafer d.rim).mem.readN (imageOff d Image.qglob) (4 * imageLen d Image.qglob)) else [])).any badResult = true) := by
  refine ⟨few (jobState ap (setRims [(0, r0 0x7f800000)])), 1, 0, job0, red1, pl1, ?_,
    fun k => by cases k with | zero => unfold rimSound; decide +kernel | succ n => exact ⟨rfl, rfl, rfl⟩, ?_, ?_, ?_, ?_, ?_,
    ?_, ?_, ?_, ?_, ?_, ?_, ?_, ?_, ?_⟩ <;> decide +kernel

theorem witness_UpdateUnitsComplete_3 :
    ∃ (s : State) (t : Nat) (j : Job) (d : Reduction) (p : Placement) (ph : List W32) (q : List W32), calm s = true ∧
      (∀ (k : Nat), rimSound (rimAt s.wafer k)) ∧ s.wafer.comp.unc = [] ∧ s.wafer.fiMod.armed = false ∧
      s.train.job = some j ∧ redOf s t = some d ∧ placeOf s t = some p ∧ s.wafer.halted = false ∧ s.wafer.frozen = false ∧
      d.slow = true ∧ (tstep s t).slow = false ∧ s.train.step.barrier = true ∧ s.train.replay = none ∧ slowReady s d = true ∧
      readSources s d = (some (ph, q), s.wafer) := by
  refine ⟨few (jobState ap (setRims [(0, r0 0x40000000)])), 2, job0, red2, pl2, _, _, ?_,
    fun k => by cases k with | zero => unfold rimSound; decide +kernel | succ n => exact ⟨rfl, rfl, rfl⟩, ?_, ?_, ?_, ?_, ?_,
    ?_, ?_, ?_, ?_, ?_, ?_, ?_, rfl⟩ <;> decide +kernel

theorem witness_UpdateUnitsComplete_4 :
    ∃ (s : State) (t : Nat) (j : Job) (d : Reduction) (p : Placement) (step : Nat) (lam : Int) (l : List W32),
      calm s = true ∧ (∀ (k : Nat), rimSound (rimAt s.wafer k)) ∧ s.wafer.comp.unc = [] ∧ s.wafer.fiMod.armed = false ∧
      s.train.job = some j ∧ redOf s t = some d ∧ placeOf s t = some p ∧ s.wafer.halted = false ∧ s.wafer.frozen = false ∧
      slowNext s (slowAt s t) = some (step, lam, l) ∧ (slowAt s t).dead = false ∧ s.ckpt.capturing = [] ∧
      ((List.map (fun i => (i, updateElem s j d step (mget 0 (rimAt s.wafer 0).upd.norms step) (slowGradient d lam l i) (devWord s.wafer (masterSlot p (slowAt s t).epoch) (4 * i)) (List.map (fun m => devWord s.wafer (stateSlot p (slowAt s t).epoch) (4 * d.nstate * i + 4 * m)) (List.range d.nstate)))) (List.filter (fun i => !isPad d i) (List.range d.elems))).any badResult = false) := by
  refine ⟨few (jobState (fun t => slw sg (ap id t))), 2, job0, red2, pl2, 3, 15, _, ?_,
    fun k => by cases k with | zero => unfold rimSound; decide +kernel | succ n => exact ⟨rfl, rfl, rfl⟩, ?_, ?_, ?_, ?_, ?_,
    ?_, ?_, rfl, ?_, ?_, ?_⟩ <;> decide +kernel

theorem witness_UpdateUnitsComplete_5 :
    ∃ (s : State) (t : Nat) (j : Job) (d : Reduction) (p : Placement) (step : Nat) (lam : Int) (l : List W32),
      calm s = true ∧ (∀ (k : Nat), rimSound (rimAt s.wafer k)) ∧ s.wafer.comp.unc = [] ∧ s.wafer.fiMod.armed = false ∧
      s.train.job = some j ∧ redOf s t = some d ∧ placeOf s t = some p ∧ s.wafer.halted = false ∧ s.wafer.frozen = false ∧
      slowNext s (slowAt s t) = some (step, lam, l) ∧ (slowAt s t).dead = false ∧ s.ckpt.capturing = [] ∧
      ((List.map (fun i => (i, updateElem s j d step (mget 0 (rimAt s.wafer 0).upd.norms step) (slowGradient d lam l i) (devWord s.wafer (masterSlot p (slowAt s t).epoch) (4 * i)) (List.map (fun m => devWord s.wafer (stateSlot p (slowAt s t).epoch) (4 * d.nstate * i + 4 * m)) (List.range d.nstate)))) (List.filter (fun i => !isPad d i) (List.range d.elems))).any badResult = true) := by
  refine ⟨few (jobState (fun t => slw {sg with retained := [(3, 15, List.replicate 128 0x7f800000)]} (ap id t))), 2, job0,
    red2, pl2, 3, 15, _, ?_,
    fun k => by cases k with | zero => unfold rimSound; decide +kernel | succ n => exact ⟨rfl, rfl, rfl⟩, ?_, ?_, ?_, ?_, ?_,
    ?_, ?_, rfl, ?_, ?_, ?_⟩ <;> decide +kernel

theorem witness_UpdateUnitsComplete_6 :
    ∃ (s : State) (t : Nat) (j : Job) (d : Reduction) (p : Placement) (u : W64) (m : List W32), calm s = true ∧
      (∀ (k : Nat), rimSound (rimAt s.wafer k)) ∧ s.wafer.comp.unc = [] ∧ s.wafer.fiMod.armed = false ∧
      s.train.job = some j ∧ redOf s t = some d ∧ placeOf s t = some p ∧ s.wafer.halted = false ∧ s.wafer.frozen = false ∧
      (slowAt s t).unshown = some (u, m) ∧ s.train.state ≠ JobState.held ∧ s.ckpt.capturing = [] ∧
      u.toNat + j.desc.staleness < s.train.next := by
  refine ⟨few (jobState (fun t => slw {sg with epoch := true, step1 := 3, kept := [(2, List.replicate 4 0x3f800000), (3, List.replicate 4 0x40000000)]} (ap id t))),
    2, job0, red2, pl2, 3, [0x40000000, 0x40000000, 0x40000000, 0x40000000], ?_,
    fun k => by cases k with | zero => unfold rimSound; decide +kernel | succ n => exact ⟨rfl, rfl, rfl⟩, ?_, ?_, ?_, ?_, ?_,
    ?_, ?_, ?_, ?_, ?_, ?_⟩ <;> decide +kernel

theorem witness_UpdateUnitsComplete_7 :
    ∃ (s : State) (t : Nat) (j : Job) (d : Reduction) (p : Placement) (step : Nat), calm s = true ∧
      (∀ (k : Nat), rimSound (rimAt s.wafer k)) ∧ s.wafer.comp.unc = [] ∧ s.wafer.fiMod.armed = false ∧
      s.train.job = some j ∧ redOf s t = some d ∧ placeOf s t = some p ∧ s.wafer.halted = false ∧ s.wafer.frozen = false ∧
      s.train.last = some step ∧ step % 64 = 63 ∧ s.train.step.begun = false ∧
      ((regen s.wafer j.desc.seed d p (auditMaster s d p) fun i => decide (i % 1024 = step / 64 % 1024)).rims = s.wafer.rims) := by
  refine ⟨few (jobState (fun t => slw {sg with epoch := true, step1 := 3, published := some 3} ({t with next := 64, last := some 63})) (setRims [(0, {Rim.reset with blocks := [(0,.job),(8,.job)]})])),
    1, job0, red1, pl1, 63, ?_,
    fun k => by cases k with | zero => unfold rimSound; decide +kernel | succ n => exact ⟨rfl, rfl, rfl⟩, ?_, ?_, ?_, ?_, ?_,
    ?_, ?_, ?_, ?_, ?_, ?_⟩ <;> decide +kernel

theorem witness_StepsEnd_1 :
    ∃ (s : State) (j : Job) (st : StartState), calm s = true ∧ meetsCommit s = true ∧ (imagesGood s).1 = true ∧
      s.train.replay = none ∧ inTree s = false ∧ s.train.job = some j ∧ s.train.start = some st := by
  refine ⟨(cms).getD 0 .reset, job0, _, ?_, ?_, ?_, ?_, ?_, ?_, rfl⟩ <;> decide +kernel

theorem witness_StepsEnd_2 :
    ∃ (s : State) (cause : Fin 5), calm s = true ∧ s.train.step.due.getLsbD cause.val = true ∧ s.wafer.frozen = false ∧
      s.wafer.halted = false ∧ s.train.step.begun = true ∧ s.tree.step.prepSent = false :=
  ⟨(cms).getD 6 .reset, 4, by decide +kernel⟩

end Updates

/-! ### Exports -/

namespace Exports

def few (s : State) : State := { s with wafer := { s.wafer with off := ~~~(1#84), tiles := [(0, {Tile.reset with sync := {SyncBlock.reset with flags := 1}})] } }

def snap0 : Snapshot := { step := 5, lamG := 15, clean := 2, skips := 0, fallback := false, rsel := true, groups := [], hist := [1], fast := [(1, 0, {ShardRec.mk true 3 4 with}, [1,2], [3])], slow := [(2, SlowTensor.reset, [4], [])], copies := [(2,[5],[])], basis := [(1,[7])], bases := [(1,[8])], landing := [(5, List.replicate 48 1)] }

def prog (st : ProgState) (op : Nat := 0x41) (c : BitVec 16 := 3) : Prog := ⟨1, c, op, false, false, st, 9⟩

def ck (l : List Snapshot) (f : Ckpt → Ckpt := id) (s : State) : State := {s with ckpt := f {s.ckpt with capturing := l}}

def gr (n : Nat) (ty := 1) : GalRecord := ⟨n, n+3, ty, [], [BitVec.ofNat 8 n, 1]⟩

def net0 : GalNet := ⟨4, 1, 2, [1,2,3,4], [5,6,7,8], 5, 6, [1,2,3,4,5,6], 7⟩

def gal (f : Gallery → Gallery) (s : State) : State := {s with gal := f {s.gal with seq := 12, window := [gr 8, gr 9, gr 10, gr 11], acked := 8, net := [(0, some net0), (1, some net0)], up0 := true, up1 := true, due := [⟨5, 1, 0, some [1,0,0,2], 7⟩, ⟨4, 1, 0, some [1,0,0,2], 7⟩, ⟨5,2,0,none,1⟩], seals := [5, 6], sent := [(5, 8, [1]), (5,9,[2])]}}

theorem witness_CheckpointsAndGalleryComplete_1 :
    ∃ (s : State) (j : Job) (c : Snapshot) (rest : List Snapshot) (i : Nat), s.train.job = some j ∧
      s.wafer.fiMod.armed = false ∧ s.ckpt.capturing = c :: rest ∧ s.wafer.halted = false ∧ pickSlot s = some i := by
  refine ⟨few (jobState id (ck [snap0])), job0, _, [], 0, ?_, ?_, rfl, ?_, ?_⟩ <;> decide +kernel

theorem witness_CheckpointsAndGalleryComplete_2 :
    ∃ (s : State) (t : Nat) (x : GalDue) (l : List W32), s.wafer.fiMod.armed = false ∧ s.wafer.halted = false ∧
      (List.find? (fun y => y.tensor == t) s.gal.due = some x) ∧ x.words = some l ∧ l ≠ [] ∧
      (groupWords 2048 8192 l).2 = l.length ∧
      galUsed s + (recordBytes s 1 x.step x.tensor x.first l.length (x.slotStep.toNat) (groupWords 2048 8192 l).1).length ≤ galRoom s :=
  ⟨few (jobState id (gal id)), 1, { step := 5, tensor := 1, first := 0, words := some [1, 0, 0, 2], slotStep := 7 },
    [1, 0, 0, 2], by decide +kernel⟩

theorem witness_CheckpointsAndGalleryComplete_3 :
    ∃ (s : State) (n : Nat) (rest : List Nat), s.wafer.fiMod.armed = false ∧ s.gal.seals = n :: rest ∧
      ((s.gal.due.any fun x => x.step == n) = false) ∧ galDrops s = true :=
  ⟨few (jobState id (gal (fun g => {g with due := []}))), 5, [6], by decide +kernel⟩

theorem witness_CheckpointsAndGalleryComplete_4 :
    ∃ (s : State) (first : Nat), s.wafer.fiMod.armed = false ∧
      (match s.gal.window with | r :: _ => r.seq | [] => s.gal.seq) ≤ first :=
  ⟨few (jobState id (ck [snap0])), 0, by decide +kernel⟩

theorem witness_CheckpointsAndGalleryComplete_5 :
    ∃ (s : State) (first : Nat) (count : Nat), s.wafer.fiMod.armed = false ∧
      first < (match s.gal.window with | r :: _ => r.seq | [] => s.gal.seq) ∧ 0 < count ∧ galDrops s = true :=
  ⟨few (jobState id (gal id)), 0, 1, by decide +kernel⟩

end Exports

/-! ### Ports -/

namespace Ports

def few (s : State) : State := { s with wafer := { s.wafer with off := ~~~(127#84), tiles := [(0, {Tile.reset with sync := {SyncBlock.reset with flags := 1}})] } }

def up1 (f : Port → Port := id) : Port := f {Port.reset with state := .up, txPos := 0xffff, rxPos := 0xffff, badTx := 0x30000, badRx := 0x10000, moduleId := 9, bundle := 3, index := 1, nextSeq := 4, sent := [⟨2, .nak 3⟩, ⟨3, .commit 4⟩], credits := [(1,5),(4,60)], ctrs := [(0xB108,⟨4,false⟩)]}

def tr (f : Tree → Tree) (s : State) : State := {s with tree := f {s.tree with cfg := ⟨true, 7, 1, none, [0,1], 0x55⟩, lasers := 3, ports := [(0, up1), (1, {up1 with state := .training}), (2, {up1 with state := .mismatch, identity := true}), (3, {up1 with state := .down, rxPos := 0}), (7, up1)]}}

def port (i : Nat) (f : Port → Port) (t : Tree) : Tree := {t with ports := mput t.ports i (f up1)}

def base := few (jobState id (tr id))

theorem witness_FieldPortsComplete_1 :
    ∃ (s : State) (f : Fin 84), calm s = true ∧ (portAt s f.val).state = PortState.training ∧
      (portAt s f.val).identity = false ∧ fieldUp s.wafer f.val = true ∧ bundleLit s (f.val / 7) = true ∧
      (fieldAt s.wafer f.val).fi.armed = false :=
  ⟨base, 1, by decide +kernel⟩

theorem witness_FieldPortsComplete_2 :
    ∃ (s : State) (f : Fin 84) (pos : Fin 18), calm s = true ∧ portUp (portAt s f.val) = true ∧
      (portAt s f.val).rxPos.getLsbD pos.val = true :=
  ⟨base, 0, 0, by decide +kernel⟩

theorem witness_FieldPortsComplete_3 :
    ∃ (s : State) (f : Fin 84) (pos : Fin 18), calm s = true ∧ portUp (portAt s f.val) = true ∧
      (portAt s f.val).badRx.getLsbD pos.val = false ∧ (portAt s f.val).rxPos.getLsbD pos.val = false ∧
      ones (portAt s f.val).rxPos < 16 :=
  ⟨few (jobState id (tr (port 0 (fun p => {p with state := .degraded, rxPos := 0xff00ff, txPos := 0xfff})))), 0, 8,
    by decide +kernel⟩

theorem witness_FieldPortsComplete_4 :
    ∃ (s : State) (f : Fin 84) (pos : Fin 18), calm s = true ∧ portUp (portAt s f.val) = true ∧
      (portAt s f.val).badTx.getLsbD pos.val = false ∧ (portAt s f.val).txPos.getLsbD pos.val = false ∧
      ones (portAt s f.val).txPos < 16 :=
  ⟨few (jobState id (tr (port 0 (fun p => {p with state := .degraded, rxPos := 0xff00ff, txPos := 0xfff})))), 0, 15,
    by decide +kernel⟩

theorem witness_FieldPortsComplete_5 :
    ∃ (s : State) (f : Fin 84) (tr : Trailer), calm s = true ∧ s.tree.held = [] ∧ portUp (portAt s f.val) = true ∧
      (tr.crcBad = true ∨ tr.uncorrectable ≠ 0) :=
  ⟨base, 0, { seq := 1, ack := 1, nak := true, cvc := 2, credits := 3, corrected := 2, uncorrectable := 1, crcBad := false },
    by decide +kernel⟩

theorem witness_FieldPortsComplete_6 :
    ∃ (s : State) (f : Fin 84) (tr : Trailer), calm s = true ∧ s.tree.held = [] ∧ portUp (portAt s f.val) = true ∧
      tr.crcBad = false ∧ tr.uncorrectable = 0 :=
  ⟨base, 0, { seq := 1, ack := 2, nak := false, cvc := 1, credits := 3, corrected := 0, uncorrectable := 0, crcBad := false },
    by decide +kernel⟩

theorem witness_FieldPortsComplete_7 :
    ∃ (s : State) (f : Fin 84), calm s = true ∧ s.tree.held = [] ∧
      ((portAt s f.val).state = PortState.training ∨ (portAt s f.val).state = PortState.mismatch) ∧
      (portAt s f.val).identity = true :=
  ⟨base, 2, by decide +kernel⟩

theorem witness_FieldPortsComplete_8 :
    ∃ (s : State) (f : Fin 84), calm s = true ∧ s.tree.held = [] ∧ (portAt s f.val).state = PortState.training ∧
      (portAt s f.val).identity = true :=
  ⟨few (jobState id (tr (port 0 (fun p => {p with state := .training, identity := true})))), 0, by decide +kernel⟩

theorem witness_FieldPortsComplete_9 :
    ∃ (s : State) (f : Fin 84), calm s = true ∧ s.tree.held = [] ∧ (portAt s f.val).state = PortState.mismatch ∧
      (fieldAt s.wafer f.val).fi.armed = false :=
  ⟨base, 2, by decide +kernel⟩

end Ports

/-! ### Trees -/

namespace Trees

def few (s : State) : State := { s with wafer := { s.wafer with off := ~~~(127#84), tiles := [(0, {Tile.reset with sync := {SyncBlock.reset with flags := 1}})], fields := [(0, {Field.reset with banGen := [(1,3)]}), (1, {Field.reset with banGen := [(1,3)]})], lines := [(1, {BanLine.reset with tree := true, comp := true})] } }

def up1 (f : Port → Port := id) : Port := f {Port.reset with state := .up, txPos := 0xffff, rxPos := 0xffff, moduleId := 9, bundle := 3, index := 1, nextSeq := 4, sent := [⟨2, .nak 3⟩]}

def tr (f : Tree → Tree) (s : State) : State := {s with tree := f {s.tree with cfg := ⟨true, 7, 1, none, [0,1], 0x55⟩, lasers := 3, ports := [(0, up1), (7, up1)]}}

def worker (t : Tree) : Tree := {t with cfg := {t.cfg with role := 2, parent := some 0, children := [1]}}

def leaf (t : Tree) : Tree := {t with cfg := {t.cfg with role := 2, parent := some 0, children := []}}

def tst (f : TreeStep → TreeStep) (t : Tree) : Tree := {t with step := f t.step}

def areas (l : List (Nat × Area)) (r : Rim) : Rim := {r with areas := l}

def op : Area := {Area.reset with base := 0x2000000, count := 64, t := -20, expect := 2, state := .open}

def rimsO (a : Area) (s : State) : State := setRims [(0, areas [(128, a), (132, {a with decls := [(portSource 0, -20)]})] .reset)] s

def wj (st : ProgState) (s : State) : State := {s with host := {s.host with progs := [⟨1, 3, 0x30, false, false, st, 9⟩]}}

def sts : List State := [few (jobState id (tr id ∘ rimsO op)), few (jobState id (tr worker ∘ rimsO op)), few (jobState id (tr leaf ∘ rimsO op)), few (jobState id (tr worker ∘ rimsO {op with expect := 1})), few (jobState id (tr id ∘ rimsO {op with oor := true})), few (jobState id (tr worker ∘ rimsO {op with state := .complete})),
 few (jobState (inStep id) (tr id ∘ rimsO op)), few (jobState (inStep id) (tr worker ∘ rimsO op)), few (jobState (inStep (fun x => {x with attempts := 2, barrier := true, verdict := .apply})) (tr (tst (fun x => {x with prepSent := true}) ∘ leaf) ∘ rimsO op)), few (jobState (inStep (fun x => {x with barrier := true, verdict := .skip, attempts := 7})) (tr (tst (fun x => {x with prepSent := true}) ∘ worker) ∘ rimsO op)),
 few (jobState (fun t => {t with state := .ready, run := none, replay := some ⟨5, []⟩}) (tr id)), few (jobState (fun t => {t with state := .ready, run := none}) (tr worker ∘ wj .jobStart)), few (jobState (fun t => {t with state := .loaded, run := none}) (tr leaf ∘ wj .jobStart)), few (jobState (fun t => {t with state := .closing, run := none}) (tr leaf ∘ wj .jobStart)), few (jobState (fun t => {t with state := .running}) (tr (port ∘ leaf))), few (upState |> tr id), few (upState |> tr leaf)]
 where port (t : Tree) : Tree := {t with ports := [(7, up1)]}

def worker2 (t : Tree) : Tree := {t with cfg := {t.cfg with role := 2, parent := some 0, children := [1, 2]}}

theorem witness_TreeMessagesComplete_1 :
    ∃ (s : State) (f : Fin 84) (x : LinkLine), calm s = true ∧ portUp (portAt s f.val) = true ∧ ringPlace s = none ∧
      twinOpen s x = true ∧ rimSound (rimAt s.wafer x.rim.val) ∧ fromBelow s f.val = true ∧
      (areaAt (rimAt s.wafer x.rim.val) (twinOf x.area.val)).state = AreaState.open ∧
      arrivalsOf (rimAt s.wafer x.rim.val) (twinOf x.area.val) x.line + 1 < (areaAt (rimAt s.wafer x.rim.val) (twinOf x.area.val)).expect :=
  ⟨(sts).getD 0 .reset, 0, ⟨0, 0, 0, false, (List.range 32).map (BitVec.ofNat 128)⟩, by unfold rimSound; decide +kernel⟩

theorem witness_TreeMessagesComplete_2 :
    ∃ (s : State) (f : Fin 84) (x : LinkLine), calm s = true ∧ portUp (portAt s f.val) = true ∧ ringPlace s = none ∧
      twinOpen s x = true ∧ rimSound (rimAt s.wafer x.rim.val) ∧ fromAbove s f.val = true ∧ s.tree.step.verdict = none :=
  ⟨few (jobState id (tr (fun t => worker2 t) ∘ rimsO op)), 0, ⟨0, 0, 0, false, (List.range 32).map (BitVec.ofNat 128)⟩,
    by unfold rimSound; decide +kernel⟩

theorem witness_TreeMessagesComplete_3 :
    ∃ (s : State) (f : Fin 84) (k : Fin 16) (a : Fin 256) (t : Int), calm s = true ∧ portUp (portAt s f.val) = true ∧
      ringPlace s = none ∧ fromBelow s f.val = true ∧
      twinOpen s { rim := k, area := a, line := 0, oor := false, vals := List.replicate 32 0 } = true ∧
      (areaAt (rimAt s.wafer k.val) (twinOf a.val)).state = AreaState.open ∧ -160 ≤ t ∧ t ≤ 128 :=
  ⟨(sts).getD 0 .reset, 0, 0, 0, -20, by decide +kernel⟩

theorem witness_TreeMessagesComplete_4 :
    ∃ (s : State) (f : Fin 84) (id : BitVec 16) (l : Fin 16) (gen : W32), calm s = true ∧ portUp (portAt s f.val) = true ∧
      ringPlace s = none ∧ isChild s f.val = true ∧ id = jobIdOf s ∧ jobOpen s = true ∧
      gen = mget 0 (fieldAt s.wafer f.val).banGen l.val ∧ lineDone s.wafer l.val = false :=
  ⟨(sts).getD 0 .reset, 0, 7, 0, 0, by decide +kernel⟩

theorem witness_TreeMessagesComplete_5 :
    ∃ (s : State) (f : Fin 84) (id : BitVec 16) (l : Fin 16) (gen : W32), calm s = true ∧ portUp (portAt s f.val) = true ∧
      ringPlace s = none ∧ isChild s f.val = true ∧
      ¬(id = jobIdOf s ∧ jobOpen s = true ∧ gen = mget 0 (fieldAt s.wafer f.val).banGen l.val) :=
  ⟨(sts).getD 15 .reset, 0, 0, 0, 0, by decide +kernel⟩

theorem witness_TreeMessagesComplete_6 :
    ∃ (s : State) (f : Fin 84) (id : BitVec 16) (l : Fin 16) (gen : W32), calm s = true ∧ portUp (portAt s f.val) = true ∧
      ringPlace s = none ∧ isParent s f.val = true ∧ id = jobIdOf s ∧ jobOpen s = true ∧
      gen = mget 0 (fieldAt s.wafer f.val).banGen l.val ∧ (lineAt s.wafer l.val).tree = true :=
  ⟨few (jobState id (tr (fun t => worker2 t) ∘ rimsO op)), 0, 7, 1, 3, by decide +kernel⟩

theorem witness_TreeMessagesComplete_7 :
    ∃ (s : State) (f : Fin 84) (id : BitVec 16) (l : Fin 16) (gen : W32), calm s = true ∧ portUp (portAt s f.val) = true ∧
      ringPlace s = none ∧ isParent s f.val = true ∧ id = jobIdOf s ∧ jobOpen s = true ∧
      gen = mget 0 (fieldAt s.wafer f.val).banGen l.val ∧ (lineAt s.wafer l.val).tree = false :=
  ⟨few (jobState id (tr (fun t => worker2 t) ∘ rimsO op)), 0, 7, 0, 0, by decide +kernel⟩

theorem witness_TreeMessagesComplete_8 :
    ∃ (s : State) (f : Fin 84), calm s = true ∧ portUp (portAt s f.val) = true ∧ isChild s f.val = true ∧
      ((s.host.progs.any fun p => decide (p.state = ProgState.jobStart)) = false) :=
  ⟨(sts).getD 0 .reset, 0, by decide +kernel⟩

theorem witness_TreeMessagesComplete_9 :
    ∃ (s : State) (f : Fin 84) (j : Job), calm s = true ∧ portUp (portAt s f.val) = true ∧ s.train.job = some j ∧
      isParent s f.val = true ∧ ((s.host.progs.any fun p => decide (p.state = ProgState.jobStart)) = true) :=
  ⟨(sts).getD 11 .reset, 0, job0, by decide +kernel⟩

theorem witness_TreeMessagesComplete_10 :
    ∃ (s : State) (f : Fin 84) (first : Nat) (vals : List W32) (i : Nat) (v : W32), calm s = true ∧
      portUp (portAt s f.val) = true ∧ vals[i]? = some v ∧ first + i < groupCount s ∧ isChild s f.val = true :=
  ⟨(sts).getD 0 .reset, 0, 0, [5], 0, 5, by decide +kernel⟩

theorem witness_TreeMessagesComplete_11 :
    ∃ (s : State) (f : Fin 84) (first : Nat) (vals : List W32) (i : Nat) (v : W32), calm s = true ∧
      portUp (portAt s f.val) = true ∧ vals[i]? = some v ∧ first + i < groupCount s ∧ isParent s f.val = true :=
  ⟨(sts).getD 1 .reset, 0, 0, [5], 0, 5, by decide +kernel⟩

theorem witness_TreeMessagesComplete_12 :
    ∃ (s : State) (f : Fin 84), calm s = true ∧ portUp (portAt s f.val) = true ∧ isChild s f.val = true ∧
      s.train.step.begun = true ∧ s.tree.step.met = false :=
  ⟨(sts).getD 6 .reset, 0, by decide +kernel⟩

theorem witness_TreeMessagesComplete_13 :
    ∃ (s : State) (f : Fin 84), calm s = true ∧ portUp (portAt s f.val) = true ∧ isParent s f.val = true ∧
      s.tree.step.prepSent = true ∧ s.train.replay = none ∧ jobOpen s = true ∧ s.train.start.isSome = true :=
  ⟨(sts).getD 8 .reset, 0, by decide +kernel⟩

theorem witness_TreeMessagesComplete_14 :
    ∃ (s : State) (f : Fin 84), calm s = true ∧ portUp (portAt s f.val) = true ∧
      (isChild s f.val = true ∨ isParent s f.val = true) ∧ stepping s = true ∧ s.tree.step.committed = false ∧
      s.tree.step.stopDue = false ∧ s.train.step.attempts + 1 < 8 ∧ nothingDue s :=
  ⟨(sts).getD 0 .reset, 0, by unfold nothingDue; decide +kernel⟩

theorem witness_TreeMessagesComplete_15 :
    ∃ (s : State) (f : Fin 84), calm s = true ∧ portUp (portAt s f.val) = true ∧
      (isChild s f.val = true ∨ isParent s f.val = true) ∧ jobOpen s = true ∧ s.train.state ≠ JobState.closing ∧
      s.tree.step.prepSent = false :=
  ⟨(sts).getD 0 .reset, 0, by decide +kernel⟩

theorem witness_TreeMessagesComplete_16 :
    ∃ (s : State) (f : Fin 84) (b : Fin 12), calm s = true ∧ portUp (portAt s f.val) = true ∧ inTree s = true ∧
      b.val ∈ namedBundles s ∧ upPorts s b.val = [] ∧ jobOpen s = true ∧ s.train.state ≠ JobState.closing ∧
      s.tree.step.prepSent = false :=
  ⟨(sts).getD 14 .reset, 7, 0, by decide +kernel⟩

end Trees

/-! ### Freezes -/

namespace Freezes

def few (s : State) : State := { s with wafer := { s.wafer with off := ~~~(7#84), tiles := [(0, {Tile.reset with sync := {SyncBlock.reset with flags := 1}}), (70, Tile.reset)] , fields := [(0, {Field.reset with level := 16}), (2, {Field.reset with level := 7})]} }

def fd : FeedState := ⟨true,false,false,false,53⟩

def pw (f : Pwr → Pwr) (s : State) : State := {s with pwr := f {s.pwr with feedA := fd, feedB := fd, ramp := true, longWait := 4, gov := {s.pwr.gov with clock := 50, flow := 300, inlet := 300, slew := some 51, credit := 5}, pll0 := true, pll8 := true}}

def frz (s : State) : State := {s with wafer := {s.wafer with frozen := true}}

def stg (n : BitVec 8) (s : State) : State := {s with host := {s.host with mb := {s.host.mb with stage := n}}, pwr := {s.pwr with phase := .retention}}

def prog (st : ProgState) (op : Nat := 0x41) (c : BitVec 16 := 3) : Prog := ⟨1, c, op, false, false, st, 9⟩

theorem witness_FreezesAndStopsComplete_1 :
    ∃ (s : State) (c : Instr), calm s = true ∧
      ((∃ d, c = Instr.feedBelow44v d ∧ (feedOf s d).runs = true) ∨ ∃ r, c = Instr.railBelowWarning r ∧ railOn s r = true) ∧
      s.wafer.frozen = false ∧ waferPowered s = true ∧ starting s = false := by
  refine ⟨few (jobState id (pw id)), .feedBelow44v (.a), ?_, .inl ⟨.a, rfl, by decide +kernel⟩, ?_, ?_, ?_⟩ <;> decide +kernel

theorem witness_FreezesAndStopsComplete_2 :
    ∃ (s : State) (c : Instr), calm s = true ∧
      ((∃ d, c = Instr.feedBelow44v d ∧ (feedOf s d).runs = true) ∨ ∃ r, c = Instr.railBelowWarning r ∧ railOn s r = true) ∧
      s.wafer.frozen = false ∧ starting s = true := by
  refine ⟨few (upState |> pw id |> stg 4), .feedBelow44v (.a), ?_, .inl ⟨.a, rfl, by decide +kernel⟩, ?_, ?_⟩ <;> decide +kernel

theorem witness_FreezesAndStopsComplete_3 :
    ∃ (s : State), calm s = true ∧ s.wafer.frozen = true ∧ waferPowered s = true ∧ s.train.step.begun = false :=
  ⟨frz (few (jobState id (pw id))), by decide +kernel⟩

theorem witness_FreezesAndStopsComplete_4 :
    ∃ (s : State) (c : Instr), waferPowered s = true ∧ calm s = true ∧
      (c = Instr.freezeTimeout ∧ s.wafer.frozen = true ∨ c = Instr.governorFloorStop ∧ s.pwr.gov.clock = 30 ∧ limitW s < s.pwr.gov.avg100 ∨ (∃ k temp, c = Instr.hbmOvertemp k temp ∧ 105 ≤ temp ∧ (rimAt s.wafer k.val).fi.armed = false) ∨ c = Instr.coolantInletTimeout ∧ 400 < s.pwr.gov.inlet ∨ c = Instr.coolantFlowTimeout ∧ s.pwr.gov.flow < 200 ∨ c = Instr.pllLockLoss 0 ∧ s.pwr.pllUse = 0 ∧ s.pwr.pll0 = true ∧ s.pwr.pll8 = false) := by
  refine ⟨few (jobState id (pw id)), .hbmOvertemp 0 105, ?_, ?_,
    .inr (.inr (.inl ⟨0, 105, rfl, by decide +kernel, by decide +kernel⟩))⟩ <;> decide +kernel

end Freezes

/-! ### Power -/

namespace Power

def few (s : State) : State := { s with wafer := { s.wafer with off := ~~~(7#84), tiles := [(0, {Tile.reset with sync := {SyncBlock.reset with flags := 1}}), (70, Tile.reset)] , fields := [(0, {Field.reset with level := 16}), (2, {Field.reset with level := 7})]} }

def fd : FeedState := ⟨true,false,false,false,53⟩

def pw (f : Pwr → Pwr) (s : State) : State := {s with pwr := f {s.pwr with feedA := fd, feedB := fd, ramp := true, longWait := 4, gov := {s.pwr.gov with clock := 50, flow := 300, inlet := 300, slew := some 51, credit := 5}, pll0 := true, pll8 := true}}

def gv (f : Gov → Gov) (p : Pwr) : Pwr := {p with gov := f p.gov}

def stg (n : BitVec 8) (s : State) : State := {s with host := {s.host with mb := {s.host.mb with stage := n}}, pwr := {s.pwr with phase := .retention}}

def prog (st : ProgState) (op : Nat := 0x41) (c : BitVec 16 := 3) : Prog := ⟨1, c, op, false, false, st, 9⟩

def fpw (l : List (Nat × FieldPwr)) (p : Pwr) : Pwr := {p with fields := l}

def fq (f : FieldPwr → FieldPwr) : FieldPwr := f {FieldPwr.reset with state := .on}

theorem witness_FeedsSensorsAndFieldsComplete_1 :
    ∃ (s : State) (d : Feed) (u : State), calm s = true ∧ (feedOf s d).runs = true ∧
      exec (Instr.feedLost d) s = Host.Outcome.next u := by
  refine ⟨few (jobState id (pw id)), .a, _, ?_, ?_, rfl⟩ <;> decide +kernel

theorem witness_FeedsSensorsAndFieldsComplete_2 :
    ∃ (s : State) (d : Feed), calm s = true ∧ ((feedOf s d).lost = true ∨ (feedOf s d).isolated = true) ∧
      (feedOf s d).reversed = false :=
  ⟨few (upState |> pw (fun p => {p with feedB := {fd with present := false, lost := true}})), .b, by decide +kernel⟩

theorem witness_FeedsSensorsAndFieldsComplete_3 :
    ∃ (s : State) (d : Feed), calm s = true ∧ (feedOf s d).isolated = false :=
  ⟨few (jobState id (pw id)), .a, by decide +kernel⟩

theorem witness_FeedsSensorsAndFieldsComplete_4 :
    ∃ (s : State) (i : Fin 8), calm s = true ∧ s.pwr.thermistors.getLsbD i.val = false :=
  ⟨few (jobState id (pw id)), 0, by decide +kernel⟩

theorem witness_FeedsSensorsAndFieldsComplete_5 :
    ∃ (s : State) (i : Fin 16), calm s = true ∧ s.pwr.converters.getLsbD i.val = false :=
  ⟨few (jobState id (pw id)), 0, by decide +kernel⟩

theorem witness_FeedsSensorsAndFieldsComplete_6 :
    ∃ (s : State) (f : Fin 84) (junction : Int) (memory : Int), calm s = true ∧ s.train.step.begun = false ∧
      fieldIn s f.val = true ∧ (fieldAt s.wafer f.val).fi.armed = false ∧
      (110 ≤ memory ∨ 115 ≤ junction ∧ 1 ≤ (fpAt s f.val).hot) :=
  ⟨few (jobState id (pw id)), 0, 80, 110, by decide +kernel⟩

theorem witness_ShortsAndResetsComplete_1 :
    ∃ (s : State), calm s = true ∧ (jobOpen s = false ∨ s.train.state = JobState.stopped) :=
  ⟨few (upState |> pw id), by decide +kernel⟩

theorem witness_ShortsAndResetsComplete_2 :
    ∃ (s : State) (temp : Int), calm s = true ∧ 115 ≤ temp :=
  ⟨few (jobState id (pw id)), 115, by decide +kernel⟩

theorem witness_ShortsAndResetsComplete_3 :
    ∃ (s : State), calm s = true ∧ s.pwr.flowLost = true ∧ s.pwr.gov.flow < 200 :=
  ⟨few (upState |> pw (fpw [(0, fq (fun q => {q with tmem := 100, duty := 8}))] ∘ (fun p => {p with pllUse := 0, flowLost := true, gov := {p.gov with flow := 100}}))),
    by decide +kernel⟩

theorem witness_ShortsAndResetsComplete_4 :
    ∃ (s : State), calm s = true ∧ 2 ≤ s.host.mb.stage.toNat ∧ s.host.mb.stage.toNat ≤ 7 :=
  ⟨few (upState |> pw id |> stg 4), by decide +kernel⟩

theorem witness_GovernorAndClockComplete_1 :
    ∃ (s : State), calm s = true ∧ s.wafer.fiMod.armed = false :=
  ⟨few (jobState id (pw id)), by decide +kernel⟩

theorem witness_GovernorAndClockComplete_2 :
    ∃ (s : State), calm s = true ∧ downCause s ≠ 0 ∧ s.pwr.gov.slew = none ∧ govHeld s = false ∧ 30 < s.pwr.gov.clock ∧
      s.pwr.phase = PowerPhase.active :=
  ⟨few (upState |> pw (gv (fun g => {g with slew := none, avgMs := 29000}))), by decide +kernel⟩

theorem witness_GovernorAndClockComplete_3 :
    ∃ (s : State), calm s = true ∧ s.pwr.gov.clock < policyClock s ∧ s.pwr.gov.avg1s + 1000 ≤ limitW s ∧ downCause s = 0 ∧
      s.pwr.gov.slew = none ∧ s.pwr.gov.vddDue = none ∧ govHeld s = false ∧ s.pwr.phase = PowerPhase.active ∧
      (60 ≤ s.pwr.gov.clock → boostOk s = true ∧ s.pwr.gov.avg1s ≤ 21000) :=
  ⟨few (upState |> pw (gv (fun g => {g with slew := none, avg1s := 100}))), by decide +kernel⟩

theorem witness_GovernorAndClockComplete_4 :
    ∃ (s : State) (c : Nat), calm s = true ∧ s.pwr.gov.slew = some c :=
  ⟨few (jobState id (pw id)), 51, by decide +kernel⟩

theorem witness_GovernorAndClockComplete_5 :
    ∃ (s : State), calm s = true ∧ s.pwr.gov.vddDue = some false :=
  ⟨few (upState |> pw (gv (fun g => {g with slew := none, clock := 60, boost := true, vddDue := some false}))),
    by decide +kernel⟩

theorem witness_GovernorAndClockComplete_6 :
    ∃ (s : State), calm s = true ∧ s.pwr.gov.vddDue = some true ∧ boostOk s = true ∧ downCause s = 0 ∧ govHeld s = false :=
  ⟨few (upState |> pw (gv (fun g => {g with slew := none, clock := 60, boost := true, vddDue := some true}))),
    by decide +kernel⟩

theorem witness_HeatClockAndLightComplete_1 :
    ∃ (s : State) (f : Fin 84) (j : Int) (m : Int), calm s = true ∧ fieldIn s f.val = true ∧
      (fieldAt s.wafer f.val).fi.armed = false ∧ (j < 115 ∨ (fpAt s f.val).hot = 0) ∧ m < 110 :=
  ⟨few (jobState id (pw id)), 0, 80, 80, by decide +kernel⟩

theorem witness_HeatClockAndLightComplete_2 :
    ∃ (s : State) (f : Fin 84), calm s = true ∧ fieldIn s f.val = true ∧ fieldHot s f.val = true ∧ 8 < (fpAt s f.val).duty :=
  ⟨few (upState |> pw (fpw [(0, fq (fun q => {q with hot := 1, tmax := 106, duty := 16})), (1, fq (fun q => {q with tmax := 106, duty := 8, darkenings := 2, hot := 3})), (2, fq (fun q => {q with tmax := 90, duty := 15, tmem := 99}))])),
    0, by decide +kernel⟩

theorem witness_HeatClockAndLightComplete_3 :
    ∃ (s : State) (f : Fin 84), calm s = true ∧ fieldIn s f.val = true ∧ (fpAt s f.val).tmax ≤ 100 ∧
      (fpAt s f.val).tmem < 100 ∧ (fpAt s f.val).duty < 16 :=
  ⟨few (upState |> pw (fpw [(0, fq (fun q => {q with hot := 1, tmax := 106, duty := 16})), (1, fq (fun q => {q with tmax := 106, duty := 8, darkenings := 2, hot := 3})), (2, fq (fun q => {q with tmax := 90, duty := 15, tmem := 99}))])),
    2, by decide +kernel⟩

theorem witness_HeatClockAndLightComplete_4 :
    ∃ (s : State) (f : Fin 84), calm s = true ∧ fieldIn s f.val = true ∧ fieldHot s f.val = true ∧ (fpAt s f.val).duty = 8 ∧
      f.val ∉ s.pwr.throttleStep :=
  ⟨few (upState |> pw (fpw [(0, fq (fun q => {q with hot := 1, tmax := 106, duty := 16})), (1, fq (fun q => {q with tmax := 106, duty := 8, darkenings := 2, hot := 3})), (2, fq (fun q => {q with tmax := 90, duty := 15, tmem := 99}))])),
    1, by decide +kernel⟩

theorem witness_HeatClockAndLightComplete_5 :
    ∃ (s : State) (k : Fin 16) (temp : Int), calm s = true ∧ waferPowered s = true ∧ (rimAt s.wafer k.val).fi.armed = false ∧
      temp < 105 :=
  ⟨few (jobState id (pw id)), 0, 80, by decide +kernel⟩

theorem witness_HeatClockAndLightComplete_6 :
    ∃ (s : State) (temp : Int), calm s = true ∧ s.wafer.fiMod.armed = false ∧ temp < 115 :=
  ⟨few (jobState id (pw id)), 80, by decide +kernel⟩

theorem witness_HeatClockAndLightComplete_7 :
    ∃ (s : State), calm s = true ∧ s.pwr.pllUse = 0 ∧ s.pwr.pll8 = true :=
  ⟨few (jobState id (pw id)), by decide +kernel⟩

theorem witness_HeatClockAndLightComplete_8 :
    ∃ (s : State), calm s = true ∧ s.pwr.pllUse = 8 ∧ s.pwr.pll0 = true :=
  ⟨few (upState |> pw (fun p => {fpw [(0, fq (fun q => {q with tmax := 105, duty := 9})), (1, fq (fun q => {q with duty := 14}))] p with thermistors := 0x81, converters := 1, hbmHot := [0], throttleStep := [0,3], pllUse := 8})),
    by decide +kernel⟩

end Power

/-! ### Repair -/

namespace Repair

def few (s : State) : State := { s with wafer := { s.wafer with off := ~~~(7#84), tiles := [(0, {Tile.reset with sync := {SyncBlock.reset with flags := 1}}), (70, {Tile.reset with bds := {Bds.reset with mem := [(3,4)]}, spCor := [0,5], bdsCor := [0], spUnc := [1]})] , fields := [(0, {Field.reset with level := 16}), (2, {Field.reset with level := 7})]} }

def lev (l : Level) (s : State) : State := {s with sec := {s.sec with level := l}}

def wf (f : Wafer → Wafer) (s : State) : State := {s with wafer := f s.wafer}

def stg (n : BitVec 8) (s : State) : State := {s with host := {s.host with mb := {s.host.mb with stage := n}}}

def activeState := few (upState |> stg 0x10)

def cm : Comp := {Comp.reset with mem := [(1,2)], blocks := [(0,.job)], cor := [0], unc := [3]}

theorem witness_ScrubAndFailingLinksComplete_1 :
    ∃ (s : State) (t : TileId) (i : Nat), calm s = true ∧ waferPowered s = true ∧ usable s.wafer (tkey t) = true ∧
      i < 98303 :=
  ⟨few (jobState id), { f := 0, t := 0 }, 0, by decide +kernel⟩

theorem witness_ScrubAndFailingLinksComplete_2 :
    ∃ (s : State) (t : TileId) (g : Nat), calm s = true ∧ waferPowered s = true ∧ usable s.wafer (tkey t) = true ∧
      g < 4194304 ∧ bdsReady s.wafer (tkey t) (64 * g) 64 = true :=
  ⟨few (jobState id), { f := 0, t := 0 }, 0, by decide +kernel⟩

theorem witness_ScrubAndFailingLinksComplete_3 :
    ∃ (s : State) (k : Fin 16) (g : Nat), calm s = true ∧ waferPowered s = true ∧ (rimAt s.wafer k.val).failed = false ∧
      g < 1073741824 ∧ (g / 32768 < 32766 → (rimAt s.wafer k.val).block (g / 32768) ≠ BlockState.zero) :=
  ⟨few (jobState id), 0, 1073741823, by decide +kernel⟩

theorem witness_ScrubAndFailingLinksComplete_4 :
    ∃ (s : State) (g : Nat), calm s = true ∧ waferPowered s = true ∧ serving s = true ∧ g < 34359738368 ∧
      (64 * g < fwRegion → mget BlockState.zero s.wafer.comp.blocks (g / 32768) ≠ BlockState.zero) :=
  ⟨activeState |> wf (fun w => {w with comp := cm, rims := [(0, {Rim.reset with blocks := [(0,.job)], cor := [0,1]}), (15, {Rim.reset with failed := true})]}),
    0, by decide +kernel⟩

theorem witness_ScrubAndFailingLinksComplete_5 :
    ∃ (s : State) (f : Fin 84) (x : LinkPlace) (n : Nat), calm s = true ∧ waferPowered s = true ∧
      ((∃ o, x = LinkPlace.hub f o ∧ n = 8) ∨ ∃ k, x = LinkPlace.rim k f ∧ n = 2) ∧ fieldUp s.wafer f.val = true ∧
      mget 0 s.wafer.net.channels (linkKey x) < n :=
  ⟨few (jobState id), 0, .hub 0 0, 8, by decide +kernel⟩

theorem witness_ScrubAndFailingLinksComplete_6 :
    ∃ (s : State) (f : Fin 84) (x : LinkPlace) (n : Nat), calm s = true ∧ waferPowered s = true ∧
      ((∃ o, x = LinkPlace.hub f o ∧ n = 8) ∨ ∃ k, x = LinkPlace.rim k f ∧ n = 2) ∧ fieldUp s.wafer f.val = true ∧
      n ≤ mget 0 s.wafer.net.channels (linkKey x) ∧ s.train.step.begun = true :=
  ⟨few (jobState (inStep id)) |> wf (fun w => {w with net := {w.net with channels := [(linkKey (.hub 0 0), 8), (linkKey (.rim 0 0), 2)]}}),
    0, .hub 0 0, 8, by decide +kernel⟩

theorem witness_ScrubAndFailingLinksComplete_7 :
    ∃ (s : State) (f : Fin 84), calm s = true ∧ waferPowered s = true ∧ fieldUp s.wafer f.val = true ∧
      s.train.step.begun = false ∧ s.rel.failing = [] :=
  ⟨few (jobState id), 0, by decide +kernel⟩

theorem witness_JtagAccessCompletes_1 :
    ∃ (s : State) (op : JtagOp), calm s = true ∧ levelCode s.sec.level < jtagLevel op :=
  ⟨few (jobState id), .trace, by decide +kernel⟩

theorem witness_JtagAccessCompletes_2 :
    ∃ (s : State) (a : BitVec 40) (tgt : CfgTarget) (off : Nat), calm s = true ∧ 1 ≤ levelCode s.sec.level ∧
      waferPowered s = true ∧ cfgAddr a.toNat = some (tgt, off) ∧ isSingle tgt = true :=
  ⟨activeState |> lev .invasive, 0x24100, .tile 0 0, 147712, by decide +kernel⟩

theorem witness_JtagAccessCompletes_3 :
    ∃ (s : State), calm s = true ∧ 2 ≤ levelCode s.sec.level ∧ waferPowered s = true :=
  ⟨activeState |> lev .invasive, by decide +kernel⟩

theorem witness_JtagAccessCompletes_4 :
    ∃ (s : State) (a : W64) (n : Nat) (x : Place) (bs : List Byte) (z : State), calm s = true ∧ 2 ≤ levelCode s.sec.level ∧
      debugPlace s (a.toNat) n = some x ∧ debugRead s x n = (some bs, z) := by
  refine ⟨activeState |> lev .invasive, 0x300000000000000, 0, .hbm 0 0, [], _, ?_, ?_, ?_, rfl⟩ <;> decide +kernel

theorem witness_JtagAccessCompletes_5 :
    ∃ (s : State) (a : W64) (bs : List Byte) (off : Nat), calm s = true ∧ 2 ≤ levelCode s.sec.level ∧
      debugPlace s (a.toNat) bs.length = some (Place.comp off) ∧ bs ≠ [] ∧ off + bs.length ≤ fwRegion ∧
      s.wafer.comp.unc = [] ∧ s.wafer.fiMod.armed = false ∧ s.wafer.comp.mem.wf = true ∧ jobOpen s = false :=
  ⟨activeState |> lev .invasive, 0x400000000000000, [1, 2, 3, 4], 0, by decide +kernel⟩

theorem witness_JtagAccessCompletes_6 :
    ∃ (s : State) (a : W64) (bs : List Byte) (off : Nat), calm s = true ∧ 2 ≤ levelCode s.sec.level ∧
      debugPlace s (a.toNat) bs.length = some (Place.comp off) ∧ bs ≠ [] ∧ jobOpen s = true ∧
      (∀ b ∈ blocksOf off bs.length, mget BlockState.zero s.wafer.comp.blocks b = BlockState.retained) :=
  ⟨few (jobState id) |> lev .invasive |> wf (fun w => {w with comp := {cm with blocks := [(0,.retained)]}}),
    0x400000000000000, [1, 2, 3, 4], 0, by decide +kernel⟩

theorem witness_JtagAccessCompletes_7 :
    ∃ (s : State), calm s = true ∧ s.sec.level = Level.factory ∧ waferPowered s = false :=
  ⟨(few (upState |> stg 0x11)) |> lev .factory |> (fun s => {s with pwr := {s.pwr with phase := .retention}}) |> wf (fun w => {w with repair := {w.repair with fields := [(3,4),(2,6)], rims := [4], retired := [5]}}),
    by decide +kernel⟩

end Repair

/-! ### Boot -/

namespace Boot

def few (s : State) : State := { s with wafer := { s.wafer with off := ~~~(7#84), tiles := [(0, {Tile.reset with sync := {SyncBlock.reset with flags := 1}}), (70, Tile.reset)] , fields := [(0, {Field.reset with level := 16}), (2, {Field.reset with level := 7}), (4, {Field.reset with level := 7})]} }

def lev (l : Level) (s : State) : State := {s with sec := {s.sec with level := l}}

def stg (n : BitVec 8) (s : State) : State := {s with host := {s.host with mb := {s.host.mb with stage := n}}, pwr := {s.pwr with phase := if n.toNat < 0x11 ∧ n.toNat ≠ 0x10 then .standby else if n = 0x11 then .retention else .active}}

def img : FwImage := ⟨1, 0, 4, 5, 6⟩

def ht (f : HostSide → HostSide) (s : State) : State := {s with host := f {s.host with fw := {s.host.fw with stored := some img, running := some img}, busMast := true}}

def cold (n : BitVec 8) := State.reset |> stg n |> ht id

def prog (st : ProgState) (op : Nat := 0x41) (c : BitVec 16 := 3) : Prog := ⟨1, c, op, false, false, st, 9⟩

theorem witness_StartStagesComplete_1 :
    ∃ (s : State), (s.host.mb.stage = 1 ∨ s.host.mb.stage = 32 ∨ s.host.mb.stage = 33) :=
  ⟨cold 1, by decide +kernel⟩

theorem witness_StartStagesComplete_2 :
    ∃ (s : State) (i : FwImage), s.host.mb.stage = 2 ∧ s.pwr.phase = PowerPhase.standby ∧ s.host.fw.stored = some i ∧
      s.sec.rollback ≤ i.svn ∧ s.sec.revoked.getLsbD i.slot = false ∧ s.sec.badCode = false ∧
      s.sec.life ≠ Lifecycle.scrapped :=
  ⟨cold 2, img, by decide +kernel⟩

theorem witness_StartStagesComplete_3 :
    ∃ (s : State), s.host.mb.stage = 2 ∧ s.pwr.phase = PowerPhase.standby ∧ s.host.fw.stored = none :=
  ⟨{cold 2 with host := {(cold 2).host with fw := {(cold 2).host.fw with stored := none}}}, by decide +kernel⟩

theorem witness_StartStagesComplete_4 :
    ∃ (s : State), s.host.mb.stage = 3 ∧ s.wafer.frozen = false :=
  ⟨cold 3, by decide +kernel⟩

theorem witness_StartStagesComplete_5 :
    ∃ (s : State), calm s = true ∧ s.wafer.frozen = false ∧ s.host.mb.stage = 4 :=
  ⟨cold 4, by decide +kernel⟩

theorem witness_StartStagesComplete_6 :
    ∃ (s : State) (p0 : Bool), calm s = true ∧ s.wafer.frozen = false ∧ s.host.mb.stage = 5 ∧
      ((entryFields (if p0 = true then 0 else 8)).any (fieldUp s.wafer) = true) :=
  ⟨few (cold 5), true, by decide +kernel⟩

theorem witness_StartStagesComplete_7 :
    ∃ (s : State), calm s = true ∧ s.wafer.frozen = false ∧ s.host.mb.stage = 6 :=
  ⟨few (cold 6), by decide +kernel⟩

theorem witness_StartStagesComplete_8 :
    ∃ (s : State), calm s = true ∧ s.wafer.frozen = false ∧ s.host.mb.stage = 7 ∧ s.pwr.linked = false :=
  ⟨few (upState) |> stg 7, by decide +kernel⟩

theorem witness_StartStagesComplete_9 :
    ∃ (s : State), calm s = true ∧ s.wafer.frozen = false ∧ s.host.mb.stage = 7 ∧ s.pwr.linked = true :=
  ⟨({(few (upState) |> stg 7 |> ht (fun h => {h with msix := [(16, 0xFEE00000), (17, 5), (18,0)]})) with pwr := {((few upState) |> stg 7).pwr with linked := true}}),
    by decide +kernel⟩

theorem witness_RestartsAndSmallEventsComplete_1 :
    ∃ (s : State) (i : FwImage) (p : Fin 2), calm s = true ∧ serving s = true ∧ s.host.fw.stored = some i ∧
      s.sec.rollback ≤ i.svn ∧ s.sec.revoked.getLsbD i.slot = false ∧ p.val = b2n s.host.port ∧ s.host.perst = true :=
  ⟨few (jobState (fun t => {t with state := .stopped}) (stg 0x10 ∘ lev .invasive ∘ ht (fun h => {h with port := true, perst := true}))),
    img, 1, by decide +kernel⟩

theorem witness_RestartsAndSmallEventsComplete_2 :
    ∃ (s : State), serving s = true ∧ inRecovery s = false :=
  ⟨few (jobState id (stg 0x10 ∘ ht id)), by decide +kernel⟩

theorem witness_RestartsAndSmallEventsComplete_3 :
    ∃ (s : State) (p : Fin 2), p.val ≠ b2n s.host.port :=
  ⟨cold 1, 1, by decide +kernel⟩

end Boot

/-! ### Meters -/

namespace Meters

def few (s : State) : State := { s with wafer := { s.wafer with off := ~~~(7#84), tiles := [(0, {Tile.reset with sp := [(1,2)], sync := {SyncBlock.reset with flags := 1}}), (70, Tile.reset)] , fields := [(0, {Field.reset with level := 16}), (2, {Field.reset with level := 7}), (4, {Field.reset with level := 7})]} }

def mtr (f : Meter → Meter) (s : State) : State := {s with meter := f {s.meter with powered := true, eventNo := s.meter.eventNo + 3, regs := ⟨1000,2000,3000,4,5,6,7,8⟩, sumA := 900, sumB := 1900, interval := {s.meter.interval with no := 7, endA := 900, endB := 1900, flags := 2}}}

def iv (n : Nat) : Interval := ⟨BitVec.ofNat 64 n, 5, 100, 200, 3,4, 5, 6, 1, 0⟩

def ev (n : Nat) : MeterEvent := ⟨BitVec.ofNat 64 n, 3, ⟨1,2,3,4,5,6,7,8⟩⟩

def mk (n : W32) : Mark := ⟨1, 7, n⟩

def dm (f : Dmt → Dmt) (s : State) : State := {s with dmt := f {s.dmt with loop := true, idOk := true, queue := [mk 4, mk 5]}}

def b := few (jobState id)

theorem witness_MeterSamplesAndEventsComplete_1 :
    ∃ (s : State), s.meter.powered = false :=
  ⟨b |> mtr (fun m => {m with powered := false, caseLatch := true}), by decide +kernel⟩

theorem witness_MeterSamplesAndEventsComplete_2 :
    ∃ (s : State) (bs : List Byte) (k : Mark), s.meter.powered = true ∧ parseMark bs = some k ∧
      (s.meter.lastSeq = some k.seq → 3 < BitVec.toNat (s.meter.time - s.meter.markTime)) :=
  ⟨b |> mtr id, [0xa5, 1, 7, 0, 4, 0, 0, 0, 0, 0, 0, 0, 0x24, 0xcf, 0x98, 0x3c], { kind := 1, jobId := 7, seq := 4 },
    by decide +kernel⟩

theorem witness_MeterSamplesAndEventsComplete_3 :
    ∃ (s : State) (bs : List Byte), s.meter.powered = true ∧ parseMark bs = none :=
  ⟨b |> mtr id, [], by decide +kernel⟩

theorem witness_MeterSamplesAndEventsComplete_4 :
    ∃ (s : State) (k : Mark) (gap : Bool) (rest : List (Mark × Bool)), s.meter.powered = true ∧
      s.meter.interval.marks = (k, gap) :: rest ∧ s.meter.closeAt.toNat ≤ s.meter.time.toNat ∧
      registersAgree s.meter = true ∧ s.meter.records.length < 131072 :=
  ⟨b |> mtr (fun m => {m with records := [iv 4, iv 5, iv 6], interval := {m.interval with marks := [(mk 1, true), (mk 2, false)]}, events := [ev 1, ev 2], eventNo := 5}),
    { kind := 1, jobId := 7, seq := 1 }, true, [({ kind := 1, jobId := 7, seq := 2 }, false)], by decide +kernel⟩

theorem witness_MeterPortAnswers_1 :
    ∃ (s : State) (nonce : List Byte), s.meter.powered = true ∧ nonce.length = 16 :=
  ⟨b |> mtr id, [0xa5, 1, 7, 0, 4, 0, 0, 0, 0, 0, 0, 0, 0x24, 0xcf, 0x98, 0x3c], by decide +kernel⟩

theorem witness_MeterPortAnswers_2 :
    ∃ (s : State) (nonce : List Byte), s.meter.powered = true ∧ nonce.length ≠ 16 :=
  ⟨b |> mtr id, [], by decide +kernel⟩

theorem witness_MeterPortAnswers_3 :
    ∃ (s : State) (nonce : List Byte) (first : Nat) (count : Nat), s.meter.powered = true ∧ nonce.length = 16 ∧ 0 < count ∧
      count ≤ 64 ∧ first < s.meter.interval.no.toNat ∧
      (Option.map (fun r => r.no.toNat) (List.filter (fun r => decide (first ≤ r.no.toNat ∧ r.no.toNat < first + count)) s.meter.records).head? = some first) :=
  ⟨b |> mtr (fun m => {m with records := [iv 4, iv 5, iv 6], interval := {m.interval with marks := [(mk 1, true), (mk 2, false)]}, events := [ev 1, ev 2], eventNo := 5}),
    [0xa5, 1, 7, 0, 4, 0, 0, 0, 0, 0, 0, 0, 0x24, 0xcf, 0x98, 0x3c], 4, 2, by decide +kernel⟩

theorem witness_MeterPortAnswers_4 :
    ∃ (s : State) (nonce : List Byte) (first : Nat) (count : Nat), s.meter.powered = true ∧ nonce.length = 16 ∧ 0 < count ∧
      count ≤ 64 ∧ first < s.meter.interval.no.toNat ∧
      (Option.map (fun r => r.no.toNat) (List.filter (fun r => decide (first ≤ r.no.toNat ∧ r.no.toNat < first + count)) s.meter.records).head? ≠ some first) :=
  ⟨b |> mtr id, [0xa5, 1, 7, 0, 4, 0, 0, 0, 0, 0, 0, 0, 0x24, 0xcf, 0x98, 0x3c], 0, 2, by decide +kernel⟩

theorem witness_MeterPortAnswers_5 :
    ∃ (s : State) (nonce : List Byte) (first : Nat) (count : Nat), s.meter.powered = true ∧
      (¬(nonce.length = 16 ∧ 0 < count ∧ count ≤ 64) ∨ s.meter.interval.no.toNat ≤ first) :=
  ⟨b |> mtr id, [], 0, 0, by decide +kernel⟩

theorem witness_MeterPortAnswers_6 :
    ∃ (s : State) (nonce : List Byte) (first : Nat) (count : Nat), s.meter.powered = true ∧ nonce.length = 16 ∧ 0 < count ∧
      count ≤ 64 ∧ first < s.meter.eventNo.toNat ∧ s.meter.eventNo.toNat - s.meter.events.length ≤ first :=
  ⟨b |> mtr (fun m => {m with records := [iv 4, iv 5, iv 6], interval := {m.interval with marks := [(mk 1, true), (mk 2, false)]}, events := [ev 1, ev 2], eventNo := 5}),
    [0xa5, 1, 7, 0, 4, 0, 0, 0, 0, 0, 0, 0, 0x24, 0xcf, 0x98, 0x3c], 3, 2, by decide +kernel⟩

theorem witness_MeterPortAnswers_7 :
    ∃ (s : State) (nonce : List Byte) (first : Nat) (count : Nat), s.meter.powered = true ∧ nonce.length = 16 ∧ 0 < count ∧
      count ≤ 64 ∧ first < s.meter.eventNo.toNat ∧ first < s.meter.eventNo.toNat - s.meter.events.length :=
  ⟨b |> mtr id, [0xa5, 1, 7, 0, 4, 0, 0, 0, 0, 0, 0, 0, 0x24, 0xcf, 0x98, 0x3c], 0, 2, by decide +kernel⟩

theorem witness_MeterPortAnswers_8 :
    ∃ (s : State) (nonce : List Byte) (first : Nat) (count : Nat), s.meter.powered = true ∧
      (¬(nonce.length = 16 ∧ 0 < count ∧ count ≤ 64) ∨ s.meter.eventNo.toNat ≤ first) :=
  ⟨b |> mtr id, [], 0, 0, by decide +kernel⟩

theorem witness_MarksAndSwitchComplete_1 :
    ∃ (s : State) (k : Mark) (rest : List Mark), s.wafer.fiMod.armed = false ∧ s.dmt.queue = k :: rest ∧ metered s = true :=
  ⟨b |> dm id, { kind := 1, jobId := 7, seq := 4 }, [{ kind := 1, jobId := 7, seq := 5 }], by decide +kernel⟩

theorem witness_MarksAndSwitchComplete_2 :
    ∃ (s : State), s.wafer.fiMod.armed = false ∧ metered s = false :=
  ⟨b |> mtr id, by decide +kernel⟩

theorem witness_MarksAndSwitchComplete_3 :
    ∃ (s : State), s.wafer.fiMod.armed = false ∧ switching s = true ∧ calm s = true ∧ s.wafer.net.inflight = [] ∧
      s.host.cfg.cur = none ∧ s.host.cfg.held = [] ∧ s.rel.mapDue = none :=
  ⟨few (jobState (fun t => {t with state := .closing, run := none, replay := none}) (fun s => {s with wafer.lines := [(3, BanLine.reset)], ckpt := {s.ckpt with captureSeq := 6}})),
    by decide +kernel⟩

end Meters

/-! ### TileRegs -/

namespace TileRegs

def wf (f : Wafer → Wafer) (s : State) : State := {s with wafer := f s.wafer}

def lev (l : Level) (s : State) : State := {s with sec := {s.sec with level := l}}

def stg (n : BitVec 8) (s : State) : State := {s with host := {s.host with mb := {s.host.mb with stage := n}}}

def tl (t : Tile) : State := upState |> wf (fun w => {w with off := ~~~(7#84), tiles := [(5, t), (70, Tile.reset)]}) |> lev .invasive |> stg 0x10

def T0 : Tile := Tile.reset

def vc (f : Vc → Vc) (t : Tile) : Tile := {t with vc := f t.vc}

def cad (f : Cad → Cad) (t : Tile) : Tile := {t with cad := f t.cad}

def dm0 (f : Dma → Dma) (t : Tile) : Tile := {t with dma0 := f t.dma0}

def bads : List Nat := [0x8000, 0x8008, 0x19000, 0x1A000, 0x24000, 0x10000, 0x9000]

def sts : List State := [tl T0, {tl T0 with wafer.tiles := []}, tl (vc (fun v => {v with run := true, phase := .running, fault := 3}) T0), tl (vc (fun v => {v with fault := 3, loops := [⟨1,2,3⟩], startPc := 9}) T0), tl (cad (fun c => {c with run := true, arm := true}) T0), tl {T0 with cfgBad := List.range 600 |>.map (fun i => 8*i+0x8000)}, tl {T0 with cfgBad := bads},
  tl (dm0 (fun d => {d with desc := [(0, 5), (3, 7)], posted := [⟨[1], true⟩], fault := 3, refused := 2}) T0), tl {T0 with sync := {SyncBlock.reset with flags := 0xFF00FF, ctrs := [(1,2),(0,7)]}}, {tl T0 with train := {Train.reset with state := .closing}}, (tl T0 |> lev .observe), (tl T0) |> stg 0x11, frz (tl T0), tl {T0 with fi := {T0.fi with armed := true}}, tl (cad (fun c => {c with fault := 4, bank0 := [(0,5)], hdr0 := 0x200}) T0)]
  where frz (s : State) : State := s |> wf (fun w => {w with frozen := true})

theorem witness_TileConfigWritesComplete_1 :
    ∃ (s : State) (src : CfgSrc) (t : TileId), calm s = true ∧ mayConfigure s src ∧ usable s.wafer (tkey t) = true ∧
      (tileAt s.wafer (tkey t)).fi.armed = false ∧ (tileAt s.wafer (tkey t)).cad.run = false ∧
      tileSound (tileAt s.wafer (tkey t)) ∧
      (∀ (p : CadPos), firstWork (tileAt s.wafer (tkey t)).cad (tileAt s.wafer (tkey t)).cad.active = some p → loadCheck (tileAt s.wafer (tkey t)) p false = none) :=
  ⟨(sts).getD 0 .reset, .host, { f := 0, t := 5 }, by unfold tileSound mayConfigure; decide +kernel⟩

theorem witness_TileConfigWritesComplete_2 :
    ∃ (s : State) (src : CfgSrc) (t : TileId) (v : W64), calm s = true ∧ mayConfigure s src ∧
      usable s.wafer (tkey t) = true ∧ (tileAt s.wafer (tkey t)).fi.armed = false ∧
      (tileAt s.wafer (tkey t)).vc.run = false ∧ bits (v.toNat) 3 1 ≤ 5 :=
  ⟨(sts).getD 0 .reset, .host, { f := 0, t := 5 }, 0, by unfold mayConfigure; decide +kernel⟩

theorem witness_TileConfigWritesComplete_3 :
    ∃ (s : State) (src : CfgSrc) (t : TileId) (v : W64), calm s = true ∧ mayConfigure s src ∧
      usable s.wafer (tkey t) = true ∧ (tileAt s.wafer (tkey t)).fi.armed = false ∧ BitVec.getLsbD v 1 = false :=
  ⟨(sts).getD 0 .reset, .host, { f := 0, t := 5 }, 0, by unfold mayConfigure; decide +kernel⟩

theorem witness_TileConfigWritesComplete_4 :
    ∃ (s : State) (src : CfgSrc) (t : TileId) (v : W64), calm s = true ∧ mayConfigure s src ∧
      usable s.wafer (tkey t) = true ∧ (tileAt s.wafer (tkey t)).fi.armed = false ∧ BitVec.getLsbD v 0 = false ∧
      tileSound (tileAt s.wafer (tkey t)) :=
  ⟨(sts).getD 0 .reset, .host, { f := 0, t := 5 }, 0, by unfold tileSound mayConfigure; decide +kernel⟩

end TileRegs

/-! ### UnitRegs -/

namespace UnitRegs

def wf (f : Wafer → Wafer) (s : State) : State := {s with wafer := f s.wafer}

def lev (l : Level) (s : State) : State := {s with sec := {s.sec with level := l}}

def stg (n : BitVec 8) (s : State) : State := {s with host := {s.host with mb := {s.host.mb with stage := n}}}

def F0 : Field := {Field.reset with level := 16, banMask := [(0, 5)], banGen := [(0,2),(1,3)]}

def tl (f : Field) : State := upState |> wf (fun w => {w with off := ~~~(7#84), tiles := [(5, Tile.reset), (70, Tile.reset)], fields := [(0, f), (1, F0)]}) |> lev .invasive |> stg 0x10

def b0 := tl F0

def cw (f : CfgWin → CfgWin) (s : State) : State := {s with host := {s.host with cfg := f s.host.cfg}}

theorem witness_UnitAndPlainWritesComplete_1 :
    ∃ (s : State) (src : CfgSrc) (f : Fin 84) (v : W64) (c : Instr), calm s = true ∧ mayConfigure s src ∧
      fieldUp s.wafer f.val = true ∧
      (c = Instr.bdsPdRequest src (CfgTarget.field f) v ∨ c = Instr.bdsPdClear src (CfgTarget.field f) v) :=
  ⟨b0, .host, 0, 0, .bdsPdRequest (.host) (.field 0) 0, by unfold mayConfigure; decide +kernel⟩

theorem witness_UnitAndPlainWritesComplete_2 :
    ∃ (s : State) (src : CfgSrc) (f : Fin 84) (v : W64), calm s = true ∧ mayConfigure s src ∧ fieldUp s.wafer f.val = true ∧
      (BitVec.setWidth 5 v).toNat ≤ 16 :=
  ⟨b0, .host, 0, 0, by unfold mayConfigure; decide +kernel⟩

theorem witness_UnitAndPlainWritesComplete_3 :
    ∃ (s : State) (src : CfgSrc) (f : Fin 84) (l : Fin 16), calm s = true ∧ mayConfigure s src ∧
      fieldUp s.wafer f.val = true ∧ lineBusy s.wafer l.val = false ∧ (rimAt s.wafer 0).failed = false :=
  ⟨b0, .host, 0, 0, by unfold mayConfigure; decide +kernel⟩

theorem witness_UnitAndPlainWritesComplete_4 :
    ∃ (s : State) (src : CfgSrc) (f : Fin 84) (k : Fin 16), calm s = true ∧ mayConfigure s src ∧
      fieldUp s.wafer f.val = true ∧ (rimAt s.wafer k.val).failed = false :=
  ⟨b0, .host, 0, 0, by unfold mayConfigure; decide +kernel⟩

theorem witness_UnitAndPlainWritesComplete_5 :
    ∃ (s : State) (f : Fin 84) (t : Fin 64), calm s = true ∧ bridgeBusy s = false ∧
      usable s.wafer (64 * f.val + t.val) = true ∧ (tileAt s.wafer (64 * f.val + t.val)).fi.armed = false ∧
      s.host.cfg.busy = false ∧ s.host.mb.stage = 16 ∧ 2 ≤ levelCode s.sec.level :=
  ⟨b0, 0, 0, by decide +kernel⟩

theorem witness_UnitAndPlainWritesComplete_6 :
    ∃ (s : State) (f : Fin 84) (t : Fin 64), calm s = true ∧ bridgeBusy s = false ∧
      usable s.wafer (64 * f.val + t.val) = true ∧ (tileAt s.wafer (64 * f.val + t.val)).fi.armed = false ∧
      (s.host.cfg.busy = true ∨ s.host.mb.stage ≠ 16 ∨ levelCode s.sec.level < 2) :=
  ⟨b0 |> lev .closed, 0, 0, by decide +kernel⟩

theorem witness_UnitAndPlainWritesComplete_7 :
    ∃ (s : State) (v : W64) (f : Fin 84), calm s = true ∧ bridgeBusy s = false ∧ BitVec.getLsbD v 8 = false ∧
      fieldUp s.wafer f.val = true :=
  ⟨b0, 0, 0, by decide +kernel⟩

theorem witness_UnitAndPlainWritesComplete_8 :
    ∃ (s : State) (v : W64) (k : Fin 16), calm s = true ∧ bridgeBusy s = false ∧ BitVec.getLsbD v 8 = false ∧
      (rimAt s.wafer k.val).failed = false :=
  ⟨b0, 0, 0, by decide +kernel⟩

theorem witness_UnitAndPlainWritesComplete_9 :
    ∃ (s : State) (v : W64), calm s = true ∧ bridgeBusy s = false ∧ BitVec.getLsbD v 8 = false ∧
      (rimAt s.wafer 0).failed = false :=
  ⟨b0, 0, by decide +kernel⟩

theorem witness_UnitAndPlainWritesComplete_10 :
    ∃ (s : State) (src : CfgSrc) (t : TileId), calm s = true ∧ mayConfigure s src ∧ usable s.wafer (tkey t) = true ∧
      (tileAt s.wafer (tkey t)).fi.armed = false ∧ bankBusy (tileAt s.wafer (tkey t)).cad false = false :=
  ⟨b0, .host, { f := 0, t := 5 }, by unfold mayConfigure; decide +kernel⟩

theorem witness_ConfigWindowCompletes_1 :
    ∃ (s : State) (ctl : W64), calm s = true ∧ BitVec.getLsbD ctl 0 = true ∧ BitVec.getLsbD ctl 1 = false ∧
      s.host.cfg.busy = true :=
  ⟨b0 |> cw (fun c => {c with busy := true, cur := some ⟨.host, 0x19008, false, 9, [5,70], [1]⟩}), 1, by decide +kernel⟩

theorem witness_ConfigWindowCompletes_2 :
    ∃ (s : State) (ctl : W64), calm s = true ∧ BitVec.getLsbD ctl 0 = true ∧ BitVec.getLsbD ctl 1 = false ∧
      s.host.cfg.busy = false :=
  ⟨b0 |> cw (fun c => {c with addr := 0x24100, data := 7}), 1, by decide +kernel⟩

theorem witness_ConfigWindowCompletes_3 :
    ∃ (s : State) (ctl : W64), calm s = true ∧ BitVec.getLsbD ctl 0 = true ∧ BitVec.getLsbD ctl 1 = true ∧
      s.host.cfg.busy = true :=
  ⟨b0 |> cw (fun c => {c with busy := true, cur := some ⟨.host, 0x19008, false, 9, [5,70], [1]⟩}), 3, by decide +kernel⟩

theorem witness_ConfigWindowCompletes_4 :
    ∃ (s : State) (ctl : W64), calm s = true ∧ BitVec.getLsbD ctl 0 = true ∧ BitVec.getLsbD ctl 1 = true ∧
      s.host.cfg.busy = false :=
  ⟨b0 |> cw (fun c => {c with addr := 0x24100, data := 7}), 3, by decide +kernel⟩

theorem witness_ConfigWindowCompletes_5 :
    ∃ (s : State) (a : CfgAccess) (t : TileId), calm s = true ∧ s.host.cfg.cur = some a ∧ s.wafer.frozen = false ∧
      tkey t ∈ a.todo ∧ (a.src = CfgSrc.host ∨ a.write = false ∨ bits a.addr.toNat 24 0 ≠ 36864) :=
  ⟨b0 |> cw (fun c => {c with busy := true, cur := some ⟨.host, 0x19008, false, 9, [5,70], [1]⟩}),
    { src := .host, addr := 0x19008, write := false, value := 9, todo := [5, 70], resp := [1] }, { f := 0, t := 5 },
    by decide +kernel⟩

theorem witness_ConfigWindowCompletes_6 :
    ∃ (s : State) (a : CfgAccess) (t : TileId), calm s = true ∧ s.host.cfg.cur = some a ∧ tkey t ∉ a.todo :=
  ⟨b0 |> cw (fun c => {c with busy := true, cur := some ⟨.host, 0x19008, false, 9, [5,70], [1]⟩}),
    { src := .host, addr := 0x19008, write := false, value := 9, todo := [5, 70], resp := [1] }, { f := 1, t := 7 },
    by decide +kernel⟩

theorem witness_ConfigWindowCompletes_7 :
    ∃ (s : State) (a : CfgAccess), calm s = true ∧ s.host.cfg.cur = some a ∧ s.wafer.frozen = false ∧
      (a.todo ≠ [] ∨ a.resp ≠ []) :=
  ⟨b0 |> cw (fun c => {c with busy := true, cur := some ⟨.host, 0x19008, false, 9, [5,70], [1]⟩}),
    { src := .host, addr := 0x19008, write := false, value := 9, todo := [5, 70], resp := [1] }, by decide +kernel⟩

theorem witness_ConfigWindowCompletes_8 :
    ∃ (s : State) (a : CfgAccess), calm s = true ∧ s.host.cfg.cur = some a ∧ s.wafer.frozen = false ∧ a.todo = [] ∧
      a.resp = [] ∧ s.host.cfg.held = [] ∧ a.src = CfgSrc.host :=
  ⟨b0 |> cw (fun c => {c with busy := true, result := 5,status := ⟨1,2,3,4⟩, cur := some ⟨.host, 0x8010, false, 9, [], []⟩}),
    { src := .host, addr := 0x8010, write := false, value := 9, todo := [], resp := [] }, by decide +kernel⟩

theorem witness_ConfigWindowCompletes_9 :
    ∃ (s : State) (a : CfgAccess), calm s = true ∧ s.host.cfg.cur = some a ∧ s.wafer.frozen = false ∧ a.todo = [] ∧
      a.resp = [] ∧ s.host.cfg.held = [] ∧ a.src = CfgSrc.firmware :=
  ⟨b0 |> cw (fun c => {c with cur := some ⟨.firmware, 0x8010, true, 9, [], []⟩}),
    { src := .firmware, addr := 0x8010, write := true, value := 9, todo := [], resp := [] }, by decide +kernel⟩

theorem witness_ConfigWindowCompletes_10 :
    ∃ (s : State) (a : CfgAccess) (b : CfgAccess) (rest : List CfgAccess), calm s = true ∧ s.host.cfg.cur = some a ∧
      s.wafer.frozen = false ∧ a.todo = [] ∧ a.resp = [] ∧ s.host.cfg.held = b :: rest ∧ bridgeHeld s = false :=
  ⟨b0 |> cw (fun c => {c with busy := true, cur := some ⟨.host, 0x8010, true, 9, [], []⟩, held := [⟨.firmware, 0x19008, false, 9, [5,70], []⟩]}),
    { src := .host, addr := 0x8010, write := true, value := 9, todo := [], resp := [] },
    { src := .firmware, addr := 0x19008, write := false, value := 9, todo := [5, 70], resp := [] }, [], by decide +kernel⟩

end UnitRegs

/-! ### Rings -/

namespace Rings

def stg (n : BitVec 8) (s : State) : State := {s with host := {s.host with mb := {s.host.mb with stage := n}}}

def ht (f : HostSide → HostSide) (s : State) : State := {s with host := f s.host}

def prog (st : ProgState) (op : Nat := 0x41) (c : BitVec 16 := 3) (r : Nat := 1) (pr := false) : Prog := ⟨r, c, op, false, pr, st, 9⟩

def R (f : Ring → Ring := id) : Ring := f {Ring.reset with sqBase := 0x10000, cqBase := 0x20000, en := true, state := .running, sqTail := 2, coalCount := 3, coalTime := 4}

def hs (f : HostSide → HostSide := id) : State := upState |> stg 0x10 |> ht (fun h => f {h with rings := [(0, R), (1, R)], busMast := true})

def rg (f : Ring → Ring) (h : HostSide) : HostSide := {h with rings := [(1, R f), (7, R f)]}

def ev (n : Nat) : Event := ⟨n,0,0,0,0,0⟩

def ent (op id : Nat) (b : List Byte := []) : List Byte := leBytes 2 op ++ leBytes 2 id ++ leBytes 2 0 ++ [3] ++ List.replicate 57 0 ++ b

theorem witness_RingsFunctionAndMailboxComplete_1 :
    ∃ (s : State) (i : Fin 8) (v : W32), 4095 < v.toNat ∧ (ringAt s i.val).state = RingPhase.running :=
  ⟨hs, 0, 0x1000, by decide +kernel⟩

theorem witness_RingsFunctionAndMailboxComplete_2 :
    ∃ (s : State) (i : Fin 8) (v : W32), v.toNat ≤ 4095 ∧
      (v.toNat + 4096 - (ringAt s i.val).cqHead) % 4096 ≤ ((ringAt s i.val).cqTail + 4096 - (ringAt s i.val).cqHead) % 4096 :=
  ⟨hs, 0, 0, by decide +kernel⟩

theorem witness_RingsFunctionAndMailboxComplete_3 :
    ∃ (s : State) (i : Fin 8), (ringAt s i.val).en = false :=
  ⟨hs, 7, by decide +kernel⟩

theorem witness_RingsFunctionAndMailboxComplete_4 :
    ∃ (s : State) (i : Fin 8), (ringAt s i.val).en = true :=
  ⟨hs, 0, by decide +kernel⟩

theorem witness_RingsFunctionAndMailboxComplete_5 :
    ∃ (s : State) (i : Fin 8), (ringAt s i.val).state = RingPhase.stopping ∧
      ((s.host.progs.any fun p => p.ring == i.val) = false) :=
  ⟨hs (rg (fun r => {r with state := .stopping, unsignalled := 2})), 1, by decide +kernel⟩

theorem witness_RingsFunctionAndMailboxComplete_6 :
    ∃ (s : State) (i : Fin 8) (e : List Byte), serving s = true ∧ s.host.progs.length < 256 ∧
      List.find? (mayTake s) (List.range 8) = some i.val ∧
      ((s.host.progs.any fun p => p.ring == i.val && p.cmdId == BitVec.ofNat 16 (fieldN e 2 2)) = false) ∧
      knownOps.contains (fieldN e 0 2) = true ∧ exclusive (fieldN e 0 2) = false ∧ fieldN e 6 1 < 8 ∧ zeros e 7 16 = true :=
  ⟨hs, 0, ent 0x0102 3, by decide +kernel⟩

theorem witness_RingsFunctionAndMailboxComplete_7 :
    ∃ (s : State) (p : Prog),
      ((s.host.progs.any fun p => exclusive p.opcode && decide (p.state ≠ ProgState.waiting)) = false) ∧
      (List.find? (fun p => decide (p.state = ProgState.waiting)) s.host.progs = some p) := by
  refine ⟨hs (fun h => {h with rings := [(1, R (fun r => {r with unsignalled := 1})), (7, R)], busMast := false, progs := [prog .waiting 0x202 3 1 true, prog .taken 0x41 4 1 true, prog .waiting 0x41 8 0, prog .taken 0x41 9 7 true], heldOut := [(5, [1]), (6,[2])], pba := 5}),
    _, ?_, rfl⟩ <;> decide +kernel

theorem witness_RingsFunctionAndMailboxComplete_8 :
    ∃ (s : State) (i : Fin 8) (p : Prog) (id : BitVec 16),
      (List.find? (fun p => p.ring == i.val && p.cmdId == id) s.host.progs = some p) ∧ p.progress = true ∧
      p.state ≠ ProgState.waiting ∧ 64 < freeEntries (ringAt s i.val) := by
  refine ⟨hs (fun h => {h with rings := [(1, R (fun r => {r with unsignalled := 1})), (7, R)], busMast := false, progs := [prog .waiting 0x202 3 1 true, prog .taken 0x41 4 1 true, prog .waiting 0x41 8 0, prog .taken 0x41 9 7 true], heldOut := [(5, [1]), (6,[2])], pba := 5}),
    1, _, 4, rfl, ?_, ?_, ?_⟩ <;> decide +kernel

theorem witness_RingsFunctionAndMailboxComplete_9 :
    ∃ (s : State) (i : Fin 8), (ringAt s i.val).coalTime ≠ 0 ∧ (ringAt s i.val).unsignalled ≠ 0 :=
  ⟨hs (rg (fun r => {r with state := .stopping, unsignalled := 2})), 1, by decide +kernel⟩

theorem witness_RingsFunctionAndMailboxComplete_10 :
    ∃ (s : State), s.host.dropped ≠ 0 ∧ s.host.events.length < 256 :=
  ⟨hs (fun h => {(rg id h) with dropped := 3, events := [ev 1]}), by decide +kernel⟩

theorem witness_RingsFunctionAndMailboxComplete_11 :
    ∃ (s : State), ((if s.host.port = true then s.host.linkUp1 else s.host.linkUp0) = false) ∧
      ((if s.host.port = true then s.host.linkUp0 else s.host.linkUp1) = true) :=
  ⟨hs |> ht (fun h => {h with linkUp1 := true, port := false}), by decide +kernel⟩

end Rings

/-! ### DeviceCmds -/

namespace DeviceCmds

def ret (s : State) : State := s |> pw (fun p => {p with phase := .retention}) |> wf (fun w => {w with off := BitVec.allOnes 84})

theorem witness_DevicePowerAndMeterCommandsComplete_1 :
    ∃ (s : State) (h : CmdHdr) (p : Prog) (buf : HostBuf), calm s = true ∧ accepted s h 257 p ∧ 4096 ≤ bufSize buf ∧
      bufBad buf = none :=
  ⟨takenState 0x101 activeState, H, takenProg 257, buf 4096, by unfold accepted; decide +kernel⟩

theorem witness_DevicePowerAndMeterCommandsComplete_2 :
    ∃ (s : State) (h : CmdHdr) (p : Prog), calm s = true ∧ accepted s h 258 p :=
  ⟨takenState 0x102 activeState, H, takenProg 258, by unfold accepted; decide +kernel⟩

theorem witness_DevicePowerAndMeterCommandsComplete_3 :
    ∃ (s : State) (h : CmdHdr) (p : Prog) (e : Event) (rest : List Event), calm s = true ∧ accepted s h 259 p ∧
      s.host.events = e :: rest :=
  ⟨takenState 0x103 (activeState) |> ht (fun h => {h with events := [⟨1,2,3,4,5,6⟩, ⟨7,1,1,1,1,1⟩]}), H, takenProg 259,
    { code := 1, jobId := 2, detail := 3, step := 4, slot := 5, extra := 6 },
    [{ code := 7, jobId := 1, detail := 1, step := 1, slot := 1, extra := 1 }], by unfold accepted; decide +kernel⟩

theorem witness_DevicePowerAndMeterCommandsComplete_4 :
    ∃ (s : State) (h : CmdHdr) (p : Prog), calm s = true ∧ accepted s h 259 p ∧ s.host.events = [] ∧
      ((List.filter (fun q => decide (q.state = ProgState.event)) s.host.progs).length < 16) :=
  ⟨takenState 0x103 activeState, H, takenProg 259, by unfold accepted; decide +kernel⟩

theorem witness_DevicePowerAndMeterCommandsComplete_5 :
    ∃ (s : State) (h : CmdHdr) (p : Prog) (role : Nat) (parent : Nat) (children : Nat) (ports : List Nat), calm s = true ∧
      accepted s h 260 p ∧ roleGood role parent children = true ∧ (List.take children ports).length = children ∧
      (∀ n ∈ (if parent = 255 then [] else [parent]) ++ List.take children ports, n < 84 ∧ darkField s n = false) ∧
      ((List.map (fun n => n / 7) ((if parent = 255 then [] else [parent]) ++ List.take children ports)).Nodup) :=
  ⟨takenState 0x104 activeState, H, takenProg 260, 0, 255, 0, [], by unfold accepted; decide +kernel⟩

theorem witness_DevicePowerAndMeterCommandsComplete_6 :
    ∃ (s : State) (h : CmdHdr) (p : Prog) (off : Nat) (buf : HostBuf), calm s = true ∧ accepted s h 272 p ∧
      off < stagingBytes ∧ off + bufSize buf ≤ stagingBytes ∧ bufBad buf = none :=
  ⟨takenState 0x110 activeState, H, takenProg 272, 0, buf 4096, by unfold accepted; decide +kernel⟩

theorem witness_DevicePowerAndMeterCommandsComplete_7 :
    ∃ (s : State) (h : CmdHdr) (p : Prog) (i : FwImage), calm s = true ∧ s.host.fw.stored = some i ∧ s.sec.rollback ≤ i.svn ∧
      s.sec.revoked.getLsbD i.slot = false ∧ accepted s h 261 p :=
  ⟨takenState 0x105 activeState, H, takenProg 261, img, by unfold accepted; decide +kernel⟩

theorem witness_DevicePowerAndMeterCommandsComplete_8 :
    ∃ (s : State) (h : CmdHdr) (p : Prog) (i : FwImage), calm s = true ∧ s.host.fw.stored = some i ∧ s.sec.rollback ≤ i.svn ∧
      s.sec.revoked.getLsbD i.slot = false ∧ accepted s h 274 p :=
  ⟨takenState 0x112 activeState, H, takenProg 274, img, by unfold accepted; decide +kernel⟩

theorem witness_DevicePowerAndMeterCommandsComplete_9 :
    ∃ (s : State) (h : CmdHdr) (p : Prog) (boost : Nat) (cap : Nat), calm s = true ∧ accepted s h 2049 p ∧ boost ≤ 1 ∧
      1 ≤ cap ∧ cap ≤ 25000 :=
  ⟨takenState 0x801 activeState, H, takenProg 2049, 0, 1, by unfold accepted; decide +kernel⟩

theorem witness_DevicePowerAndMeterCommandsComplete_10 :
    ∃ (s : State) (h : CmdHdr) (p : Prog), calm s = true ∧ accepted s h 2050 p ∧ s.pwr.phase = PowerPhase.active ∧
      allAt s.wafer 16 = true :=
  ⟨takenState 0x802 (activeState) |> wf (fun w => {w with fields := [(0, {Field.reset with level := 16}), (1, {Field.reset with level := 16}), (2, {Field.reset with level := 16})]}),
    H, takenProg 2050, by unfold accepted; decide +kernel⟩

theorem witness_DevicePowerAndMeterCommandsComplete_11 :
    ∃ (s : State) (h : CmdHdr) (p : Prog), calm s = true ∧ accepted s h 2050 p ∧ s.pwr.phase = PowerPhase.active ∧
      allAt s.wafer 16 = false :=
  ⟨takenState 0x802 activeState, H, takenProg 2050, by unfold accepted; decide +kernel⟩

theorem witness_DevicePowerAndMeterCommandsComplete_12 :
    ∃ (s : State) (h : CmdHdr) (p : Prog), calm s = true ∧ accepted s h 2051 p ∧ s.sec.life ≠ Lifecycle.scrapped ∧
      s.pwr.phase = PowerPhase.active :=
  ⟨takenState 0x803 activeState, H, takenProg 2051, by unfold accepted; decide +kernel⟩

theorem witness_DevicePowerAndMeterCommandsComplete_13 :
    ∃ (s : State) (h : CmdHdr) (p : Prog), calm s = true ∧ accepted s h 2051 p ∧ s.sec.life ≠ Lifecycle.scrapped ∧
      s.pwr.phase = PowerPhase.retention ∧ s.sec.badCode = false :=
  ⟨takenState 0x803 (ret activeState), H, takenProg 2051, by unfold accepted; decide +kernel⟩

theorem witness_DevicePowerAndMeterCommandsComplete_14 :
    ∃ (s : State) (h : CmdHdr) (p : Prog), calm s = true ∧ accepted s h 2051 p ∧
      (s.train.state = JobState.none ∧ jobOpen s = false ∨ s.train.state = JobState.stopped) ∧
      s.pwr.phase = PowerPhase.retention :=
  ⟨takenState 0x803 (ret activeState), H, takenProg 2051, by unfold accepted; decide +kernel⟩

theorem witness_DevicePowerAndMeterCommandsComplete_15 :
    ∃ (s : State) (h : CmdHdr) (p : Prog), calm s = true ∧ accepted s h 2051 p ∧
      (s.train.state = JobState.none ∧ jobOpen s = false ∨ s.train.state = JobState.stopped) ∧
      s.pwr.phase = PowerPhase.active :=
  ⟨takenState 0x803 activeState, H, takenProg 2051, by unfold accepted; decide +kernel⟩

theorem witness_DevicePowerAndMeterCommandsComplete_16 :
    ∃ (s : State) (h : CmdHdr) (p : Prog), calm s = true ∧ accepted s h 2051 p ∧ s.train.state = JobState.none :=
  ⟨takenState 0x803 activeState, H, takenProg 2051, by unfold accepted; decide +kernel⟩

theorem witness_DevicePowerAndMeterCommandsComplete_17 :
    ∃ (s : State) (h : CmdHdr) (p : Prog), calm s = true ∧ accepted s h 2305 p ∧ metered s = true ∧
      (match s.train.job with | some j => j.unmetered | none => false) = false ∧ s.dmt.queue.length < 13 :=
  ⟨takenState 0x901 runningJob |> (fun s => {s with dmt := {s.dmt with loop := true, idOk := true}}), H, takenProg 2305,
    by unfold accepted; decide +kernel⟩

theorem witness_DevicePowerAndMeterCommandsComplete_18 :
    ∃ (s : State) (h : CmdHdr) (p : Prog), calm s = true ∧ accepted s h 2306 p :=
  ⟨takenState 0x902 runningJob, H, takenProg 2306, by unfold accepted; decide +kernel⟩

end DeviceCmds

/-! ### JobCmds -/

namespace JobCmds

def tr (f : Tree → Tree) (s : State) : State := {s with tree := f {s.tree with cfg := ⟨true, 7, 2, some 0, [], 0x55⟩, lasers := 3, ports := [(0, {Port.reset with state := .up}), (7, {Port.reset with state := .up})]}}

def uc (r : Rim) : Rim := {r with ucie := 8}

def op (s : State) : State := {s with sec := {s.sec with life := .deployed}, wafer := {s.wafer with rims := [(0, uc (rimAt s.wafer 0)), (3, {Rim.reset with failed := true, mem := [(0,1)]}), (8, uc (rimAt s.wafer 8))]}}

def noTensors : Job := {job0 with reds := [], places := []}

def withJob (s : State) : State := {s with train := {s.train with job := some noTensors}}

theorem witness_JobCommandsComplete_1 :
    ∃ (s : State) (h : CmdHdr) (p : Prog) (j : Job), calm s = true ∧ accepted s h 514 p ∧ s.train.job = some j ∧
      s.pwr.phase = PowerPhase.active ∧ calm (startLocal s j) = true ∧ inTree s = false :=
  ⟨takenState 0x202 (jobIdle .loaded |> withJob), H, takenProg 514, noTensors, by unfold accepted; decide +kernel⟩

theorem witness_JobCommandsComplete_2 :
    ∃ (s : State) (h : CmdHdr) (p : Prog) (j : Job), calm s = true ∧ accepted s h 514 p ∧ s.train.job = some j ∧
      s.pwr.phase = PowerPhase.active ∧ calm (startLocal s j) = true ∧ inTree s = true ∧ childBundles s = [] ∧
      (parentBundle s).isSome = true ∧ s.tree.step.joinSent = false ∧ s.tree.step.joins = [] :=
  ⟨takenState 0x202 (jobIdle .loaded |> withJob |> tr id), H, takenProg 514, noTensors, by unfold accepted; decide +kernel⟩

theorem witness_JobCommandsComplete_3 :
    ∃ (s : State) (h : CmdHdr) (p : Prog) (mode : Nat), calm s = true ∧ accepted s h 515 p ∧ mode ≤ 1 ∧
      (mode = 1 ∨ s.train.run = none ∧ s.train.replay = none) :=
  ⟨takenState 0x203 runningJob, H, takenProg 515, 1, by unfold accepted; decide +kernel⟩

end JobCmds

/-! ### StepCmds -/

namespace StepCmds

def lv (s : State) := s |> lev .observe

def tj (f : Train → Train) (st : JobState := .ready) : State := threeFields (jobState (fun t => f {t with state := st, run := none}))

def lns (s : State) : State := s |> wf (fun w => {w with lines := [(0, {BanLine.reset with comp := true, tree := true}), (1, {BanLine.reset with comp := true})], fields := mput w.fields 0 {fieldAt w 0 with banGen := [(0,3),(1,4)], comp := 6}})

theorem witness_StepAndSyncCommandsComplete_1 :
    ∃ (s : State) (h : CmdHdr) (p : Prog) (verify : Bool) (trace : Bool) (ref : Nat) (slot : Nat) (buf : HostBuf),
      calm s = true ∧ accepted s h 769 p ∧ ref ≤ 2 ∧ (verify = true → ref = 1 → slotGood s slot = true) ∧
      (trace = true → 1 ≤ levelCode s.sec.level) ∧ s.pwr.phase = PowerPhase.active ∧
      ((verify && decide (ref = 2) || trace) = true → bufBad buf = none) :=
  ⟨takenState 0x301 (tj id), H, takenProg 769, true, false, 0, 0, buf 16 [1, 2, 3], by unfold accepted; decide +kernel⟩

theorem witness_StepAndSyncCommandsComplete_2 :
    ∃ (s : State) (h : CmdHdr) (p : Prog), calm s = true ∧ accepted s h 770 p ∧
      (s.train.step.begun = true ∨ s.train.step.attempts ≠ 0) :=
  ⟨takenState 0x302 (threeFields (jobState (inStep id))), H, takenProg 770, by unfold accepted; decide +kernel⟩

theorem witness_StepAndSyncCommandsComplete_3 :
    ∃ (s : State) (h : CmdHdr) (p : Prog), calm s = true ∧ accepted s h 770 p ∧ s.train.step.begun = false ∧
      s.train.step.attempts = 0 :=
  ⟨takenState 0x302 runningJob, H, takenProg 770, by unfold accepted; decide +kernel⟩

theorem witness_StepAndSyncCommandsComplete_4 :
    ∃ (s : State) (h : CmdHdr) (p : Prog), calm s = true ∧ accepted s h 771 p ∧ s.train.replay = none :=
  ⟨takenState 0x303 (jobIdle .held), H, takenProg 771, by unfold accepted; decide +kernel⟩

theorem witness_StepAndSyncCommandsComplete_5 :
    ∃ (s : State) (h : CmdHdr) (p : Prog) (n : Nat) (set : W64) (buf : HostBuf), calm s = true ∧ accepted s h 772 p ∧
      1 ≤ levelCode s.sec.level ∧ s.pwr.phase = PowerPhase.active ∧ mayReplay s n = true ∧ (set ≠ 0 → bufBad buf = none) :=
  ⟨takenState 0x304 (lv (tj (fun t => {t with last := some 4, next := 5}))), H, takenProg 772, 5, 0, buf 16 [1, 2, 3],
    by unfold accepted; decide +kernel⟩

theorem witness_StepAndSyncCommandsComplete_6 :
    ∃ (s : State) (h : CmdHdr) (p : Prog) (prog : Nat) (first : Nat), calm s = true ∧ accepted s h 773 p ∧ prog ≤ 15 ∧
      stepTaken s first = false :=
  ⟨takenState 0x305 (tj (fun t => {t with next := 2})), H, takenProg 773, 0, 2, by unfold accepted; decide +kernel⟩

theorem witness_StepAndSyncCommandsComplete_7 :
    ∃ (s : State) (h : CmdHdr) (p : Prog) (l : Fin 16), calm s = true ∧ accepted s h 784 p ∧
      s.pwr.phase = PowerPhase.active ∧ (lineAt s.wafer l.val).comp = true :=
  ⟨takenState 0x310 (lns activeState), H, takenProg 784, 0, by unfold accepted; decide +kernel⟩

theorem witness_StepAndSyncCommandsComplete_8 :
    ∃ (s : State) (h : CmdHdr) (p : Prog) (d0 : W64) (d1 : W64) (f : Nat) (x : Watch) (i : Nat), calm s = true ∧
      accepted s h 785 p ∧ s.pwr.phase = PowerPhase.active ∧ (bits (d0.toNat) 50 49 = 2 ∨ bits (d0.toNat) 63 57 ≠ 127) ∧
      parseWatch s.wafer (64 * firstUp s.wafer) none (d0.toNat) (d1.toNat) (some WatchDest.comp) = Sum.inl (f, x) ∧
      watchTrue s.wafer f x = false ∧ freeSlot (fieldAt s.wafer f) = some i ∧ (fieldAt s.wafer f).comp.getLsbD i = false := by
  refine ⟨takenState 0x311 (lns activeState), H, takenProg 785, 0x2000000000000, 0x2000000000000, 0, _, 0, ?_,
    by unfold accepted; decide +kernel, ?_, ?_, rfl, ?_, ?_, ?_⟩ <;> decide +kernel

theorem witness_StepAndSyncCommandsComplete_9 :
    ∃ (s : State) (h : CmdHdr) (p : Prog) (a : BitVec 40) (f : Fin 84) (t : Fin 64), calm s = true ∧ accepted s h 786 p ∧
      s.pwr.phase = PowerPhase.active ∧ bridgeBusy s = false ∧ usable s.wafer (64 * f.val + t.val) = true ∧
      (tileAt s.wafer (64 * f.val + t.val)).fi.armed = false ∧ cfgAddr a.toNat = some (CfgTarget.tile f t, 139296) :=
  ⟨takenState 0x312 activeState, H, takenProg 786, 0x22020, 0, 0, by unfold accepted; decide +kernel⟩

theorem witness_StepAndSyncCommandsComplete_10 :
    ∃ (s : State) (h : CmdHdr) (p : Prog) (a : BitVec 40) (f : Fin 84) (t : Fin 64), calm s = true ∧ accepted s h 786 p ∧
      s.pwr.phase = PowerPhase.active ∧ bridgeBusy s = false ∧ usable s.wafer (64 * f.val + t.val) = true ∧
      (tileAt s.wafer (64 * f.val + t.val)).fi.armed = false ∧ cfgAddr a.toNat = some (CfgTarget.tile f t, 139304) :=
  ⟨takenState 0x312 activeState, H, takenProg 786, 0x22028, 0, 0, by unfold accepted; decide +kernel⟩

end StepCmds

/-! ### DataCmds -/

namespace DataCmds

def tj (f : Train → Train) (st : JobState := .ready) : State := threeFields (jobState (fun t => f {t with state := st, run := none}))

def snap0 : Snapshot := { step := 5, lamG := 15, clean := 2, skips := 0, fallback := false, rsel := true, groups := [], hist := [1], fast := [], slow := [], copies := [], basis := [], bases := [(1,[8])], landing := [(5, List.replicate 48 1)] }

def cslot (n : W64) (r := false) (i := false) : Option CkptSlot := some ⟨snap0, n, [1,2,3,4,5], r, i, false⟩

def ck (f : Ckpt → Ckpt) (s : State) : State := {s with ckpt := f {s.ckpt with slots := [(0, cslot 3), (1, cslot 4 true)], replayRec := some [1,2,3]}}

def net0 : GalNetArgs := { port := 0, ipVersion := 4, hopLimit := 1, dscp := 0, srcIp := List.replicate 4 1 ++ List.replicate 12 0, dstIp := List.replicate 4 1 ++ List.replicate 12 0, srcUdp := 5, dstUdp := 6, dstMac := [1,2,3,4,5,6], vlan := 0 }

def recs (t : Train) : Train := {t with records := [(3, List.replicate 320 1), (4, List.replicate 320 2), (4, List.replicate 320 3)]}

theorem witness_DataCheckpointAndGalleryCommandsComplete_1 :
    ∃ (s : State) (h : CmdHdr) (p : Prog) (a : W64) (buf : HostBuf) (x : Place), calm s = true ∧ bufBad buf = none ∧
      0 < bufSize buf ∧ dataPlace s (a.toNat) (bufSize buf) = some x ∧ placeOn s x = true ∧ accepted s h 1025 p ∧
      jobOpen s = false ∧ calm { s with wafer := devStore s.wafer (a.toNat) (bufRead buf) } = true :=
  ⟨takenState 0x401 activeState, H, takenProg 1025, 0x300000000000000, buf 16 [1, 2, 3], .hbm 0 0,
    by unfold accepted; decide +kernel⟩

theorem witness_DataCheckpointAndGalleryCommandsComplete_2 :
    ∃ (s : State) (h : CmdHdr) (p : Prog) (a : W64) (buf : HostBuf) (x : Place) (bs : List Byte) (w : Wafer), calm s = true ∧
      bufBad buf = none ∧ 0 < bufSize buf ∧ dataPlace s (a.toNat) (bufSize buf) = some x ∧ placeOn s x = true ∧
      accepted s h 1026 p ∧ (devLoad s.wafer (a.toNat) (bufSize buf) (if jobOpen s = true then 2 else 0) = (some bs, w)) ∧
      calm { s with wafer := w } = true := by
  refine ⟨takenState 0x402 activeState, H, takenProg 1026, 0x300000000000000, buf 16 [1, 2, 3], .hbm 0 0,
    [0, 0, 0, 0, 0, 0, 0, 0, 0, 0, 0, 0, 0, 0, 0, 0], _, ?_, ?_, ?_, ?_, ?_, by unfold accepted; decide +kernel, rfl, ?_⟩ <;> decide +kernel

theorem witness_DataCheckpointAndGalleryCommandsComplete_3 :
    ∃ (s : State) (h : CmdHdr) (p : Prog) (a : W64) (buf : HostBuf) (off : Nat), calm s = true ∧ bufBad buf = none ∧
      0 < bufSize buf ∧ dataPlace s (a.toNat) (bufSize buf) = some (Place.comp off) ∧ s.wafer.comp.unc = [] ∧
      s.wafer.comp.cor = [] ∧ s.wafer.fiMod.armed = false ∧ accepted s h 1025 p ∧ jobOpen s = false :=
  ⟨takenState 0x401 activeState, H, takenProg 1025, 0x400000000000000, buf 16 [1, 2, 3], 0,
    by unfold accepted; decide +kernel⟩

theorem witness_DataCheckpointAndGalleryCommandsComplete_4 :
    ∃ (s : State) (h : CmdHdr) (p : Prog) (a : W64) (buf : HostBuf) (off : Nat), calm s = true ∧ bufBad buf = none ∧
      0 < bufSize buf ∧ dataPlace s (a.toNat) (bufSize buf) = some (Place.comp off) ∧ s.wafer.comp.unc = [] ∧
      s.wafer.comp.cor = [] ∧ s.wafer.fiMod.armed = false ∧ accepted s h 1026 p :=
  ⟨takenState 0x402 activeState, H, takenProg 1026, 0x400000000000000, buf 16 [1, 2, 3], 0,
    by unfold accepted; decide +kernel⟩

theorem witness_DataCheckpointAndGalleryCommandsComplete_5 :
    ∃ (s : State) (h : CmdHdr) (p : Prog) (n : Nat) (off : Nat) (bytes : Nat), calm s = true ∧ accepted s h 1027 p ∧
      off + bytes ≤ fwRegion ∧ batchOf s n = none ∧ (stepTaken s n = false ∨ mayStage s n = true) ∧
      s.train.batches.length < 8 :=
  ⟨takenState 0x403 runningJob, H, takenProg 1027, 7, 0, 0, by unfold accepted; decide +kernel⟩

theorem witness_DataCheckpointAndGalleryCommandsComplete_6 :
    ∃ (s : State) (h : CmdHdr) (p : Prog) (k : Nat) (first : Nat) (count : Nat) (dst : Nat), calm s = true ∧
      accepted s h 1028 p ∧ k < 16 ∧ first + count ≤ 32766 ∧ dst ≤ 1 ∧ s.pwr.phase = PowerPhase.active ∧
      (rimAt s.wafer k).failed = false :=
  ⟨takenState 0x404 activeState, H, takenProg 1028, 0, 0, 0, 0, by unfold accepted; decide +kernel⟩

theorem witness_DataCheckpointAndGalleryCommandsComplete_7 :
    ∃ (s : State) (h : CmdHdr) (p : Prog) (buf : HostBuf), calm s = true ∧ bufBad buf = none ∧ accepted s h 1281 p :=
  ⟨takenState 0x501 (tj recs), H, takenProg 1281, buf 16 [1, 2, 3], by unfold accepted; decide +kernel⟩

theorem witness_DataCheckpointAndGalleryCommandsComplete_8 :
    ∃ (s : State) (h : CmdHdr) (p : Prog) (buf : HostBuf) (r : List Byte), calm s = true ∧ bufBad buf = none ∧
      accepted s h 1282 p ∧ s.ckpt.replayRec = some r :=
  ⟨takenState 0x502 (ck id (tj id)), H, takenProg 1282, buf 16 [1, 2, 3], [1, 2, 3], by unfold accepted; decide +kernel⟩

theorem witness_DataCheckpointAndGalleryCommandsComplete_9 :
    ∃ (s : State) (h : CmdHdr) (p : Prog) (buf : HostBuf), calm s = true ∧ bufBad buf = none ∧ accepted s h 1283 p ∧
      s.train.job ≠ none :=
  ⟨takenState 0x503 (tj id), H, takenProg 1283, buf 16 [1, 2, 3], by unfold accepted; decide +kernel⟩

theorem witness_DataCheckpointAndGalleryCommandsComplete_10 :
    ∃ (s : State) (h : CmdHdr) (p : Prog) (n : Nat) (i : Nat), calm s = true ∧ accepted s h 1537 p ∧ s.train.last = some n ∧
      (s.train.state = JobState.ready ∨ s.train.state = JobState.held) ∧ pickSlot s = some i ∧
      calm (takeSnapshot s n).2 = true :=
  ⟨takenState 0x601 (tj (fun t => {t with last := some 4})), H, takenProg 1537, 4, 0, by unfold accepted; decide +kernel⟩

theorem witness_DataCheckpointAndGalleryCommandsComplete_11 :
    ∃ (s : State) (h : CmdHdr) (p : Prog), calm s = true ∧ accepted s h 1537 p ∧
      (s.train.last = none ∨ s.train.state = JobState.running) :=
  ⟨takenState 0x601 (tj id), H, takenProg 1537, by unfold accepted; decide +kernel⟩

theorem witness_DataCheckpointAndGalleryCommandsComplete_12 :
    ∃ (s : State) (h : CmdHdr) (p : Prog) (buf : HostBuf), calm s = true ∧ bufBad buf = none ∧ accepted s h 1538 p :=
  ⟨takenState 0x602 (ck id (tj id)), H, takenProg 1538, buf 16 [1, 2, 3], by unfold accepted; decide +kernel⟩

theorem witness_DataCheckpointAndGalleryCommandsComplete_13 :
    ∃ (s : State) (h : CmdHdr) (p : Prog) (buf : HostBuf) (i : Nat) (off : Nat) (c : CkptSlot), calm s = true ∧
      bufBad buf = none ∧ accepted s h 1539 p ∧ mget none s.ckpt.slots i = some c ∧ i < slotCount s ∧ off ≤ c.bytes.length ∧
      c.invalid = false ∧ c.bad = false := by
  refine ⟨takenState 0x603 (ck id (tj id)), H, takenProg 1539, buf 16 [1, 2, 3], 0, 0, _, ?_, ?_,
    by unfold accepted; decide +kernel, rfl, ?_, ?_, ?_, ?_⟩ <;> decide +kernel

theorem witness_DataCheckpointAndGalleryCommandsComplete_14 :
    ∃ (s : State) (h : CmdHdr) (p : Prog) (i : Nat) (c : CkptSlot), calm s = true ∧ accepted s h 1540 p ∧ i < slotCount s ∧
      mget none s.ckpt.slots i = some c := by
  refine ⟨takenState 0x604 (ck id (tj id)), H, takenProg 1540, 0, _, ?_, by unfold accepted; decide +kernel, ?_, rfl⟩ <;> decide +kernel

theorem witness_DataCheckpointAndGalleryCommandsComplete_15 :
    ∃ (s : State) (h : CmdHdr) (p : Prog) (x : GalNetArgs), calm s = true ∧ accepted s h 1793 p ∧ netGood x = true :=
  ⟨takenState 0x701 (tj id), H, takenProg 1793, net0, by unfold accepted; decide +kernel⟩

theorem witness_DataCheckpointAndGalleryCommandsComplete_16 :
    ∃ (s : State) (h : CmdHdr) (p : Prog), calm s = true ∧ accepted s h 1795 p :=
  ⟨takenState 0x703 runningJob, H, takenProg 1795, by unfold accepted; decide +kernel⟩

end DataCmds

/-! ### DebugCmds -/

namespace DebugCmds

def ch (_l n : Nat) (s : State) : State := {s with sec := {s.sec with challenge := some ⟨n, List.replicate 64 1⟩, life := .deployed}}

def cmm (s : State) : State := s |> wf (fun w => {w with comp := {w.comp with mem := [(3,7)], blocks := [(0,.job)]}, rims := [(3, {Rim.reset with blocks := [(0,.job),(1,.retained)], mem := [(2,5)]}), (4, {Rim.reset with failed := true})]})

theorem witness_DebugCommandsComplete_1 :
    ∃ (s : State) (h : CmdHdr) (p : Prog) (buf : HostBuf) (n : Nat), calm s = true ∧ bufBad buf = none ∧
      accepted s h 2561 p ∧ levelArg n = true ∧ s.sec.refused < 8 :=
  ⟨takenState 0xA01 activeState, H, takenProg 2561, buf 16 [1, 2, 3], 1, by unfold accepted; decide +kernel⟩

theorem witness_DebugCommandsComplete_2 :
    ∃ (s : State) (h : CmdHdr) (p : Prog) (buf : HostBuf), calm s = true ∧ bufBad buf = none ∧ accepted s h 2567 p ∧
      1 ≤ levelCode s.sec.level ∧ s.pwr.phase = PowerPhase.active :=
  ⟨takenState 0xA07 (lev .observe activeState), H, takenProg 2567, buf 16 [1, 2, 3], by unfold accepted; decide +kernel⟩

theorem witness_DebugCommandsComplete_3 :
    ∃ (s : State) (h : CmdHdr) (p : Prog) (buf : HostBuf) (a : BitVec 40) (n : Nat) (tgt : CfgTarget) (off : Nat) (bs : List Byte) (z : State),
      calm s = true ∧ bufBad buf = none ∧ accepted s h 2568 p ∧ 1 ≤ levelCode s.sec.level ∧ s.pwr.phase = PowerPhase.active ∧
      bridgeBusy s = false ∧ cfgAddr a.toNat = some (tgt, off) ∧ isSingle tgt = true ∧
      off + 8 * min n (bufSize buf / 8) ≤ 33554432 ∧ readWords s (firstTarget tgt) off (min n (bufSize buf / 8)) = (bs, z) ∧
      calm z = true := by
  refine ⟨takenState 0xA08 (lev .observe activeState), H, takenProg 2568, buf 16 [1, 2, 3], 0x24100, 0, .tile 0 0, 147712, [],
    _, ?_, ?_, by unfold accepted; decide +kernel, ?_, ?_, ?_, ?_, ?_, ?_, rfl, ?_⟩ <;> decide +kernel

theorem witness_DebugCommandsComplete_4 :
    ∃ (s : State) (h : CmdHdr) (p : Prog) (buf : HostBuf) (a : W64) (x : Place) (bs : List Byte) (z : State), calm s = true ∧
      bufBad buf = none ∧ accepted s h 2566 p ∧ 2 ≤ levelCode s.sec.level ∧ 0 < bufSize buf ∧
      debugPlace s (a.toNat) (bufSize buf) = some x ∧ placeReady s.wafer x (bufSize buf) = true ∧
      debugRead s x (bufSize buf) = (some bs, z) ∧ calm z = true := by
  refine ⟨takenState 0xA06 (lev .invasive (cmm activeState)), H, takenProg 2566, buf 16 [1, 2, 3], 0x300000000000000,
    .hbm 0 0, [0, 0, 0, 0, 0, 0, 0, 0, 0, 0, 0, 0, 0, 0, 0, 0], _, ?_, ?_, by unfold accepted; decide +kernel, ?_, ?_, ?_, ?_,
    rfl, ?_⟩ <;> decide +kernel

theorem witness_DebugCommandsComplete_5 :
    ∃ (s : State) (h : CmdHdr) (p : Prog) (buf : HostBuf) (a : W64) (x : Place), calm s = true ∧ bufBad buf = none ∧
      accepted s h 2566 p ∧ 2 ≤ levelCode s.sec.level ∧ 0 < bufSize buf ∧ debugPlace s (a.toNat) (bufSize buf) = some x ∧
      placeReady s.wafer x (bufSize buf) = true ∧ calm (debugWrite s x (bufRead buf)) = true :=
  ⟨takenState 0xA06 (lev .invasive (cmm activeState)), H, takenProg 2566, buf 16 [1, 2, 3], 0x300000000000000, .hbm 0 0,
    by unfold accepted; decide +kernel⟩

theorem witness_DebugCommandsComplete_6 :
    ∃ (s : State) (h : CmdHdr) (p : Prog) (buf : HostBuf), calm s = true ∧ bufBad buf = none ∧ s.sec.life ≠ Lifecycle.blank ∧
      s.sec.life ≠ Lifecycle.scrapped ∧ accepted s h 2817 p :=
  ⟨takenState 0xB01 (ch 0 1 activeState), H, takenProg 2817, buf 16 [1, 2, 3], by unfold accepted; decide +kernel⟩

theorem witness_DebugCommandsComplete_7 :
    ∃ (s : State) (h : CmdHdr) (p : Prog) (buf : HostBuf), calm s = true ∧ bufBad buf = none ∧ s.sec.life ≠ Lifecycle.blank ∧
      s.sec.life ≠ Lifecycle.scrapped ∧ accepted s h 2818 p :=
  ⟨takenState 0xB02 (ch 0 1 activeState), H, takenProg 2818, buf 16 [1, 2, 3], by unfold accepted; decide +kernel⟩

theorem witness_DebugCommandsComplete_8 :
    ∃ (s : State) (h : CmdHdr) (p : Prog) (buf : HostBuf), calm s = true ∧ bufBad buf = none ∧ accepted s h 3075 p :=
  ⟨takenState 0xC03 activeState, H, takenProg 3075, buf 16 [1, 2, 3], by unfold accepted; decide +kernel⟩

theorem witness_DebugCommandsComplete_9 :
    ∃ (s : State) (h : CmdHdr) (p : Prog), calm s = true ∧ accepted s h 2563 p :=
  ⟨takenState 0xA03 activeState, H, takenProg 2563, by unfold accepted; decide +kernel⟩

theorem witness_DebugCommandsComplete_10 :
    ∃ (s : State) (h : CmdHdr) (p : Prog), calm s = true ∧ 2 ≤ levelCode s.sec.level ∧ accepted s h 2564 p ∧
      s.pwr.phase = PowerPhase.active :=
  ⟨takenState 0xA04 (lev .invasive activeState), H, takenProg 2564, by unfold accepted; decide +kernel⟩

theorem witness_DebugCommandsComplete_11 :
    ∃ (s : State) (h : CmdHdr) (p : Prog), calm s = true ∧ 2 ≤ levelCode s.sec.level ∧ accepted s h 2565 p ∧
      s.wafer.dbgHalt = true :=
  ⟨takenState 0xA05 (lev .invasive activeState |> wf (fun w => {w with dbgHalt := true})), H, takenProg 2565,
    by unfold accepted; decide +kernel⟩

theorem witness_DebugCommandsComplete_12 :
    ∃ (s : State) (h : CmdHdr) (p : Prog) (point : Nat) (mode : Nat) (count : Nat) (target : W64) (l : List Nat),
      calm s = true ∧ 2 ≤ levelCode s.sec.level ∧ accepted s h 3073 p ∧ fiGood point mode count = true ∧
      s.pwr.phase = PowerPhase.active ∧ fiUnits s point target = some (FiUnits.tiles l) :=
  ⟨takenState 0xC01 (lev .invasive activeState), H, takenProg 3073, 257, 0, 0, 0, [0], by unfold accepted; decide +kernel⟩

theorem witness_DebugCommandsComplete_13 :
    ∃ (s : State) (h : CmdHdr) (p : Prog) (point : Nat) (mode : Nat) (count : Nat) (target : W64) (l : List Nat),
      calm s = true ∧ 2 ≤ levelCode s.sec.level ∧ accepted s h 3073 p ∧ fiGood point mode count = true ∧
      s.pwr.phase = PowerPhase.active ∧ fiUnits s point target = some (FiUnits.fields l) ∧ point ∉ [552, 553, 555, 563] :=
  ⟨takenState 0xC01 (lev .invasive activeState), H, takenProg 3073, 545, 0, 0, 0, [0], by unfold accepted; decide +kernel⟩

theorem witness_DebugCommandsComplete_14 :
    ∃ (s : State) (h : CmdHdr) (p : Prog) (point : Nat) (mode : Nat) (count : Nat) (target : W64) (k : Nat), calm s = true ∧
      2 ≤ levelCode s.sec.level ∧ accepted s h 3073 p ∧ fiGood point mode count = true ∧ s.pwr.phase = PowerPhase.active ∧
      fiUnits s point target = some (FiUnits.rim k) ∧ point ∉ [778, 780] :=
  ⟨takenState 0xC01 (lev .invasive activeState), H, takenProg 3073, 769, 0, 0, 0x3000000000, 0,
    by unfold accepted; decide +kernel⟩

theorem witness_DebugCommandsComplete_15 :
    ∃ (s : State) (h : CmdHdr) (p : Prog), calm s = true ∧ accepted s h 3074 p :=
  ⟨takenState 0xC02 activeState, H, takenProg 3074, by unfold accepted; decide +kernel⟩

end DebugCmds

/-! ### Stated -/

namespace Stated

def ent (op id fl : Nat) : List Byte := leBytes 2 op ++ leBytes 2 id ++ leBytes 2 0 ++ [BitVec.ofNat 8 fl] ++ List.replicate 57 0

theorem witness_BusyLineWritesAreDiscarded_1 :
    ∃ (s : State) (src : CfgSrc) (f : Fin 84) (l : Fin 16), lineBusy s.wafer l.val = true ∧ calm s = true ∧
      mayConfigure s src ∧ fieldUp s.wafer f.val = true :=
  ⟨activeState |> wf (fun w => {w with fields := [(0, {Field.reset with arrived := [(0,1)]})], lines := [(1, {BanLine.reset with compArrived := true})]}) |> lev .invasive |> stg 0x10,
    .host, 0, 0, by unfold mayConfigure; decide +kernel⟩

theorem witness_BusyLineWritesAreDiscarded_2 :
    ∃ (s : State) (src : CfgSrc) (l : Fin 16), lineBusy s.wafer l.val = true ∧ calm s = true ∧ mayConfigure s src ∧
      (rimAt s.wafer 0).failed = false :=
  ⟨activeState |> wf (fun w => {w with fields := [(0, {Field.reset with arrived := [(0,1)]})], lines := [(1, {BanLine.reset with compArrived := true})]}) |> lev .invasive |> stg 0x10,
    .host, 0, by unfold mayConfigure; decide +kernel⟩

theorem witness_ExclusiveCommandsWait_1 :
    ∃ (s : State) (i : Fin 8) (e : List Byte), serving s = true ∧ s.host.progs.length < 256 ∧
      List.find? (mayTake s) (List.range 8) = some i.val ∧ exclusive (fieldN e 0 2) = true ∧
      ((s.host.progs.any fun p => p.ring == i.val && p.cmdId == BitVec.ofNat 16 (fieldN e 2 2)) = false) ∧ fieldN e 6 1 < 8 ∧
      zeros e 7 16 = true ∧ ((s.host.progs.any fun p => exclusive p.opcode) = true) :=
  ⟨takenState 0x201 activeState |> ht (fun h => {h with rings := [(1, {R with sqTail := 3})]}), 1, ent 0x201 5 0,
    by decide +kernel⟩

theorem witness_ExclusiveCommandsWait_2 :
    ∃ (s : State), ((s.host.progs.any fun p => exclusive p.opcode && decide (p.state ≠ ProgState.waiting)) = true) :=
  ⟨takenState 0x201 activeState |> ht (fun h => {h with rings := [(1, {R with sqTail := 3})]}), by decide +kernel⟩

theorem witness_ExclusiveCommandsWait_3 :
    ∃ (s : State) (h : CmdHdr),
      (∀ p ∈ s.host.progs, p.ring = h.ring.val → p.cmdId = h.cmdId → p.state = ProgState.waiting) :=
  ⟨takenState 0x101 activeState |> ht (fun h => {h with rings := [(1, {R with sqTail := 3})], busMast := false, progs := [otherProg 0x301 .stepRun, otherProg 0x201 .waiting 3]}),
    H, by decide +kernel⟩

end Stated

/-! ### DataEnds -/

namespace DataEnds

def tj (f : Train → Train) (st : JobState := .ready) : State := threeFields (jobState (fun t => f {t with state := st, run := none}))

def snap0 : Snapshot := { step := 5, lamG := 15, clean := 2, skips := 0, fallback := false, rsel := true, groups := [], hist := [1], fast := [], slow := [], copies := [], basis := [], bases := [(1,[8])], landing := [(5, List.replicate 48 1)] }

def cslot (n : W64) (r := false) (i := false) : Option CkptSlot := some ⟨snap0, n, [1,2,3,4,5], r, i, false⟩

def ck (f : Ckpt → Ckpt) (s : State) : State := {s with ckpt := f {s.ckpt with slots := [(0, cslot 3), (1, cslot 4 true)], replayRec := some [1,2,3]}}

def net0 : GalNetArgs := { port := 0, ipVersion := 4, hopLimit := 1, dscp := 0, srcIp := List.replicate 4 1 ++ List.replicate 12 0, dstIp := List.replicate 4 1 ++ List.replicate 12 0, srcUdp := 5, dstUdp := 6, dstMac := [1,2,3,4,5,6], vlan := 0 }

def recs (t : Train) : Train := {t with records := [(3, List.replicate 320 1), (4, List.replicate 320 2), (4, List.replicate 320 3)]}

theorem witness_DataAndStateCommandsEnd_1 :
    ∃ (s : State) (h : CmdHdr) (p : Prog) (buf : HostBuf) (a : W64) (x : Place), calm s = true ∧ bufBad buf = none ∧
      dataPlace s (a.toNat) (bufSize buf) = some x ∧ placeOn s x = true ∧ 0 < bufSize buf ∧ jobOpen s = false ∧
      accepted s h 1025 p ∧ calm { s with wafer := devStore s.wafer (a.toNat) (bufRead buf) } = true :=
  ⟨takenState 0x401 activeState, H, takenProg 1025, buf 16 [1, 2, 3], 0x300000000000000, .hbm 0 0,
    by unfold accepted; decide +kernel⟩

theorem witness_DataAndStateCommandsEnd_2 :
    ∃ (s : State) (h : CmdHdr) (p : Prog) (buf : HostBuf) (a : W64) (x : Place) (bs : List Byte) (w : Wafer), calm s = true ∧
      bufBad buf = none ∧ dataPlace s (a.toNat) (bufSize buf) = some x ∧ placeOn s x = true ∧ 0 < bufSize buf ∧
      (devLoad s.wafer (a.toNat) (bufSize buf) (if jobOpen s = true then 2 else 0) = (some bs, w)) ∧ accepted s h 1026 p ∧
      calm { s with wafer := w } = true := by
  refine ⟨takenState 0x402 activeState, H, takenProg 1026, buf 16 [1, 2, 3], 0x300000000000000, .hbm 0 0,
    [0, 0, 0, 0, 0, 0, 0, 0, 0, 0, 0, 0, 0, 0, 0, 0], _, ?_, ?_, ?_, ?_, ?_, rfl, by unfold accepted; decide +kernel, ?_⟩ <;> decide +kernel

theorem witness_DataAndStateCommandsEnd_3 :
    ∃ (s : State) (h : CmdHdr) (p : Prog) (buf : HostBuf) (a : W64), calm s = true ∧ bufBad buf = none ∧
      dataPlace s (a.toNat) (bufSize buf) = none ∧ accepted s h 1025 p :=
  ⟨takenState 0x401 activeState, H, takenProg 1025, buf 16 [1, 2, 3], 0, by unfold accepted; decide +kernel⟩

theorem witness_DataAndStateCommandsEnd_4 :
    ∃ (s : State) (h : CmdHdr) (p : Prog) (buf : HostBuf) (a : W64), calm s = true ∧ bufBad buf = none ∧
      dataPlace s (a.toNat) (bufSize buf) = none ∧ accepted s h 1026 p :=
  ⟨takenState 0x402 activeState, H, takenProg 1026, buf 16 [1, 2, 3], 0, by unfold accepted; decide +kernel⟩

theorem witness_DataAndStateCommandsEnd_5 :
    ∃ (s : State) (h : CmdHdr) (p : Prog) (buf : HostBuf) (step : Nat) (off : Nat) (bytes : Nat) (desc : List Byte),
      calm s = true ∧ bufBad buf = none ∧ off + bytes ≤ fwRegion ∧ batchOf s step = none ∧
      (stepTaken s step = false ∨ mayStage s step = true) ∧ s.train.batches.length < 8 ∧ accepted s h 1027 p ∧
      calm { s with train := { s.train with batches := insertBatch { step := step, offset := off, bytes := bytes, desc := slice desc 0 64 } s.train.batches } } = true :=
  ⟨takenState 0x403 runningJob, H, takenProg 1027, buf 16 [1, 2, 3], 7, 0, 0, [], by unfold accepted; decide +kernel⟩

theorem witness_DataAndStateCommandsEnd_6 :
    ∃ (s : State) (h : CmdHdr) (p : Prog) (buf : HostBuf) (off : Nat) (bytes : Nat), calm s = true ∧ bufBad buf = none ∧
      fwRegion < off + bytes ∧ accepted s h 1027 p :=
  ⟨takenState 0x403 runningJob, H, takenProg 1027, buf 16 [1, 2, 3], 0, 2199023255552, by unfold accepted; decide +kernel⟩

theorem witness_DataAndStateCommandsEnd_7 :
    ∃ (s : State) (h : CmdHdr) (p : Prog) (buf : HostBuf) (k : Nat) (first : Nat) (count : Nat) (dst : Nat), calm s = true ∧
      bufBad buf = none ∧ k < 16 ∧ first + count ≤ 32766 ∧ dst ≤ 1 ∧ s.pwr.phase = PowerPhase.active ∧
      (rimAt s.wafer k).failed = false ∧ accepted s h 1028 p ∧
      (calm { s with wafer := setRim s.wafer k (setBlocks (rimAt s.wafer k) first count (if dst = 1 then BlockState.retained else BlockState.zero)) } = true) :=
  ⟨takenState 0x404 activeState, H, takenProg 1028, buf 16 [1, 2, 3], 0, 0, 0, 0, by unfold accepted; decide +kernel⟩

theorem witness_DataAndStateCommandsEnd_8 :
    ∃ (s : State) (h : CmdHdr) (p : Prog) (buf : HostBuf), calm s = true ∧ bufBad buf = none ∧ accepted s h 1281 p :=
  ⟨takenState 0x501 (tj recs), H, takenProg 1281, buf 16 [1, 2, 3], by unfold accepted; decide +kernel⟩

theorem witness_DataAndStateCommandsEnd_9 :
    ∃ (s : State) (h : CmdHdr) (p : Prog) (buf : HostBuf), calm s = true ∧ bufBad buf = none ∧ accepted s h 1282 p :=
  ⟨takenState 0x502 (ck id (tj id)), H, takenProg 1282, buf 16 [1, 2, 3], by unfold accepted; decide +kernel⟩

theorem witness_DataAndStateCommandsEnd_10 :
    ∃ (s : State) (h : CmdHdr) (p : Prog) (buf : HostBuf), calm s = true ∧ bufBad buf = none ∧ accepted s h 1283 p :=
  ⟨takenState 0x503 (tj id), H, takenProg 1283, buf 16 [1, 2, 3], by unfold accepted; decide +kernel⟩

theorem witness_DataAndStateCommandsEnd_11 :
    ∃ (s : State) (h : CmdHdr) (p : Prog) (buf : HostBuf), calm s = true ∧ bufBad buf = none ∧
      (s.train.last = none ∨ s.train.state = JobState.running) ∧ accepted s h 1537 p :=
  ⟨takenState 0x601 (tj id), H, takenProg 1537, buf 16 [1, 2, 3], by unfold accepted; decide +kernel⟩

theorem witness_DataAndStateCommandsEnd_12 :
    ∃ (s : State) (h : CmdHdr) (p : Prog) (buf : HostBuf), calm s = true ∧ bufBad buf = none ∧ accepted s h 1538 p :=
  ⟨takenState 0x602 (ck id (tj id)), H, takenProg 1538, buf 16 [1, 2, 3], by unfold accepted; decide +kernel⟩

theorem witness_DataAndStateCommandsEnd_13 :
    ∃ (s : State) (h : CmdHdr) (p : Prog) (buf : HostBuf) (i : Nat) (off : Nat) (c : CkptSlot), calm s = true ∧
      bufBad buf = none ∧ mget none s.ckpt.slots i = some c ∧ i < slotCount s ∧ off ≤ c.bytes.length ∧ c.invalid = false ∧
      c.bad = false ∧ accepted s h 1539 p ∧
      calm { s with ckpt := { s.ckpt with slots := mput s.ckpt.slots i (some { c with reading := true }) } } = true := by
  refine ⟨takenState 0x603 (ck id (tj id)), H, takenProg 1539, buf 16 [1, 2, 3], 0, 0, _, ?_, ?_, rfl, ?_, ?_, ?_, ?_,
    by unfold accepted; decide +kernel, ?_⟩ <;> decide +kernel

theorem witness_DataAndStateCommandsEnd_14 :
    ∃ (s : State) (h : CmdHdr) (p : Prog) (buf : HostBuf) (i : Nat) (c : CkptSlot), calm s = true ∧ bufBad buf = none ∧
      mget none s.ckpt.slots i = some c ∧ i < slotCount s ∧ accepted s h 1540 p ∧
      calm { s with ckpt := { s.ckpt with slots := mput s.ckpt.slots i (some { c with reading := false }) } } = true := by
  refine ⟨takenState 0x604 (ck id (tj id)), H, takenProg 1540, buf 16 [1, 2, 3], 0, _, ?_, ?_, rfl, ?_,
    by unfold accepted; decide +kernel, ?_⟩ <;> decide +kernel

theorem witness_DataAndStateCommandsEnd_15 :
    ∃ (s : State) (h : CmdHdr) (p : Prog) (buf : HostBuf) (i : Nat) (c : CkptSlot) (j : Job), calm s = true ∧
      bufBad buf = none ∧ mget none s.ckpt.slots i = some c ∧ s.train.job = some j ∧ s.pwr.phase = PowerPhase.active ∧
      s.train.replay = none ∧ c.invalid = false ∧ c.bad = false ∧ restoreGood s j c.bytes = false ∧ accepted s h 1541 p := by
  refine ⟨takenState 0x605 (ck id (tj id)), H, takenProg 1541, buf 16 [1, 2, 3], 0, _, job0, ?_, ?_, rfl, ?_, ?_, ?_, ?_, ?_,
    ?_, by unfold accepted; decide +kernel⟩ <;> decide +kernel

theorem witness_DataAndStateCommandsEnd_16 :
    ∃ (s : State) (h : CmdHdr) (p : Prog) (buf : HostBuf) (x : GalNetArgs), calm s = true ∧ bufBad buf = none ∧
      netGood x = true ∧ accepted s h 1793 p ∧ calm (setNet s x) = true :=
  ⟨takenState 0x701 (tj id), H, takenProg 1793, buf 16 [1, 2, 3], net0, by unfold accepted; decide +kernel⟩

theorem witness_DataAndStateCommandsEnd_17 :
    ∃ (s : State) (h : CmdHdr) (p : Prog) (buf : HostBuf), calm s = true ∧ bufBad buf = none ∧ accepted s h 1795 p :=
  ⟨takenState 0x703 runningJob, H, takenProg 1795, buf 16 [1, 2, 3], by unfold accepted; decide +kernel⟩

end DataEnds

/-! ### DebugEnds -/

namespace DebugEnds

def ch (_l n : Nat) (s : State) : State := {s with sec := {s.sec with challenge := some ⟨n, List.replicate 64 1⟩, life := .deployed}}

def cmm (s : State) : State := s |> wf (fun w => {w with comp := {w.comp with mem := [(3,7)], blocks := [(0,.job)]}, rims := [(3, {Rim.reset with blocks := [(0,.job),(1,.retained)], mem := [(2,5)]}), (4, {Rim.reset with failed := true})]})

theorem witness_DebugAndInjectionCommandsEnd_1 :
    ∃ (s : State) (h : CmdHdr) (p : Prog) (buf : HostBuf) (level : Nat), calm s = true ∧ bufBad buf = none ∧
      levelArg level = true ∧ s.sec.refused < 8 ∧ accepted s h 2561 p :=
  ⟨takenState 0xA01 activeState, H, takenProg 2561, buf 16 [1, 2, 3], 1, by unfold accepted; decide +kernel⟩

theorem witness_DebugAndInjectionCommandsEnd_2 :
    ∃ (s : State) (h : CmdHdr) (p : Prog) (buf : HostBuf), calm s = true ∧ bufBad buf = none ∧ levelCode s.sec.level < 2 ∧
      accepted s h 2563 p :=
  ⟨takenState 0xA03 activeState, H, takenProg 2563, buf 16 [1, 2, 3], by unfold accepted; decide +kernel⟩

theorem witness_DebugAndInjectionCommandsEnd_3 :
    ∃ (s : State) (h : CmdHdr) (p : Prog) (buf : HostBuf), calm s = true ∧ bufBad buf = none ∧ 2 ≤ levelCode s.sec.level ∧
      s.pwr.phase = PowerPhase.active ∧ accepted s h 2564 p ∧
      calm { s with wafer := { s.wafer with dbgHalt := true } } = true :=
  ⟨takenState 0xA04 (lev .invasive activeState), H, takenProg 2564, buf 16 [1, 2, 3], by unfold accepted; decide +kernel⟩

theorem witness_DebugAndInjectionCommandsEnd_4 :
    ∃ (s : State) (h : CmdHdr) (p : Prog) (buf : HostBuf), calm s = true ∧ bufBad buf = none ∧ 2 ≤ levelCode s.sec.level ∧
      s.wafer.dbgHalt = true ∧ accepted s h 2565 p ∧ calm { s with wafer := { s.wafer with dbgHalt := false } } = true :=
  ⟨takenState 0xA05 (lev .invasive activeState |> wf (fun w => {w with dbgHalt := true})), H, takenProg 2565,
    buf 16 [1, 2, 3], by unfold accepted; decide +kernel⟩

theorem witness_DebugAndInjectionCommandsEnd_5 :
    ∃ (s : State) (h : CmdHdr) (p : Prog) (buf : HostBuf) (a : W64) (x : Place) (bs : List Byte) (z : State), calm s = true ∧
      bufBad buf = none ∧ 2 ≤ levelCode s.sec.level ∧ debugPlace s (a.toNat) (bufSize buf) = some x ∧
      placeReady s.wafer x (bufSize buf) = true ∧ 0 < bufSize buf ∧ debugRead s x (bufSize buf) = (some bs, z) ∧
      accepted s h 2566 p ∧ calm z = true := by
  refine ⟨takenState 0xA06 (lev .invasive (cmm activeState)), H, takenProg 2566, buf 16 [1, 2, 3], 0x300000000000000,
    .hbm 0 0, [0, 0, 0, 0, 0, 0, 0, 0, 0, 0, 0, 0, 0, 0, 0, 0], _, ?_, ?_, ?_, ?_, ?_, ?_, rfl,
    by unfold accepted; decide +kernel, ?_⟩ <;> decide +kernel

theorem witness_DebugAndInjectionCommandsEnd_6 :
    ∃ (s : State) (h : CmdHdr) (p : Prog) (buf : HostBuf) (a : W64) (x : Place), calm s = true ∧ bufBad buf = none ∧
      2 ≤ levelCode s.sec.level ∧ debugPlace s (a.toNat) (bufSize buf) = some x ∧ placeReady s.wafer x (bufSize buf) = true ∧
      0 < bufSize buf ∧ accepted s h 2566 p ∧ calm (debugWrite s x (bufRead buf)) = true :=
  ⟨takenState 0xA06 (lev .invasive (cmm activeState)), H, takenProg 2566, buf 16 [1, 2, 3], 0x300000000000000, .hbm 0 0,
    by unfold accepted; decide +kernel⟩

theorem witness_DebugAndInjectionCommandsEnd_7 :
    ∃ (s : State) (h : CmdHdr) (p : Prog) (buf : HostBuf) (a : W64), calm s = true ∧ bufBad buf = none ∧
      2 ≤ levelCode s.sec.level ∧ debugPlace s (a.toNat) (bufSize buf) = none ∧ accepted s h 2566 p :=
  ⟨takenState 0xA06 (lev .invasive (cmm activeState)), H, takenProg 2566, buf 16 [1, 2, 3], 0,
    by unfold accepted; decide +kernel⟩

theorem witness_DebugAndInjectionCommandsEnd_8 :
    ∃ (s : State) (h : CmdHdr) (p : Prog) (buf : HostBuf), calm s = true ∧ bufBad buf = none ∧ 1 ≤ levelCode s.sec.level ∧
      s.pwr.phase = PowerPhase.active ∧ accepted s h 2567 p :=
  ⟨takenState 0xA07 (lev .observe activeState), H, takenProg 2567, buf 16 [1, 2, 3], by unfold accepted; decide +kernel⟩

theorem witness_DebugAndInjectionCommandsEnd_9 :
    ∃ (s : State) (h : CmdHdr) (p : Prog) (buf : HostBuf) (a : BitVec 40) (words : Nat) (tgt : CfgTarget) (off : Nat) (bs : List Byte) (z : State),
      calm s = true ∧ bufBad buf = none ∧ 1 ≤ levelCode s.sec.level ∧ s.pwr.phase = PowerPhase.active ∧
      bridgeBusy s = false ∧ cfgAddr a.toNat = some (tgt, off) ∧ isSingle tgt = true ∧
      off + 8 * min words (bufSize buf / 8) ≤ 33554432 ∧
      readWords s (firstTarget tgt) off (min words (bufSize buf / 8)) = (bs, z) ∧ accepted s h 2568 p ∧ calm z = true := by
  refine ⟨takenState 0xA08 (lev .observe activeState), H, takenProg 2568, buf 16 [1, 2, 3], 0x24100, 0, .tile 0 0, 147712, [],
    _, ?_, ?_, ?_, ?_, ?_, ?_, ?_, ?_, rfl, by unfold accepted; decide +kernel, ?_⟩ <;> decide +kernel

theorem witness_DebugAndInjectionCommandsEnd_10 :
    ∃ (s : State) (h : CmdHdr) (p : Prog) (buf : HostBuf), calm s = true ∧ bufBad buf = none ∧ accepted s h 2817 p :=
  ⟨takenState 0xB01 (ch 0 1 activeState), H, takenProg 2817, buf 16 [1, 2, 3], by unfold accepted; decide +kernel⟩

theorem witness_DebugAndInjectionCommandsEnd_11 :
    ∃ (s : State) (h : CmdHdr) (p : Prog) (buf : HostBuf), calm s = true ∧ bufBad buf = none ∧ accepted s h 2818 p :=
  ⟨takenState 0xB02 (ch 0 1 activeState), H, takenProg 2818, buf 16 [1, 2, 3], by unfold accepted; decide +kernel⟩

theorem witness_DebugAndInjectionCommandsEnd_12 :
    ∃ (s : State) (h : CmdHdr) (p : Prog) (buf : HostBuf) (point : Nat) (mode : Nat) (count : Nat) (target : W64) (l : List Nat),
      calm s = true ∧ bufBad buf = none ∧ 2 ≤ levelCode s.sec.level ∧ fiGood point mode count = true ∧
      s.pwr.phase = PowerPhase.active ∧ fiUnits s point target = some (FiUnits.tiles l) ∧ accepted s h 3073 p ∧
      (calm { s with wafer := List.foldl (fun w t => onTile w t fun x => { x with fi := { point := BitVec.ofNat 16 point, mode := BitVec.ofNat 2 mode, count := BitVec.ofNat 32 count, armed := true } }) s.wafer l } = true) :=
  ⟨takenState 0xC01 (lev .invasive activeState), H, takenProg 3073, buf 16 [1, 2, 3], 257, 0, 0, 0, [0],
    by unfold accepted; decide +kernel⟩

theorem witness_DebugAndInjectionCommandsEnd_13 :
    ∃ (s : State) (h : CmdHdr) (p : Prog) (buf : HostBuf) (point : Nat) (mode : Nat) (count : Nat) (target : W64) (k : Nat),
      calm s = true ∧ bufBad buf = none ∧ 2 ≤ levelCode s.sec.level ∧ fiGood point mode count = true ∧
      s.pwr.phase = PowerPhase.active ∧ fiUnits s point target = some (FiUnits.rim k) ∧ point ∉ [778, 780] ∧
      accepted s h 3073 p ∧
      calm { s with wafer := setRim s.wafer k (have __src := rimAt s.wafer k; { __src with fi := { point := BitVec.ofNat 16 point, mode := BitVec.ofNat 2 mode, count := BitVec.ofNat 32 count, armed := true } }) } = true :=
  ⟨takenState 0xC01 (lev .invasive activeState), H, takenProg 3073, buf 16 [1, 2, 3], 769, 0, 0, 0x3000000000, 0,
    by unfold accepted; decide +kernel⟩

theorem witness_DebugAndInjectionCommandsEnd_14 :
    ∃ (s : State) (h : CmdHdr) (p : Prog) (buf : HostBuf) (point : Nat), calm s = true ∧ bufBad buf = none ∧
      accepted s h 3074 p ∧ calm { s with wafer := disarmPoint s.wafer point } = true :=
  ⟨takenState 0xC02 activeState, H, takenProg 3074, buf 16 [1, 2, 3], 0, by unfold accepted; decide +kernel⟩

theorem witness_DebugAndInjectionCommandsEnd_15 :
    ∃ (s : State) (h : CmdHdr) (p : Prog) (buf : HostBuf), calm s = true ∧ bufBad buf = none ∧ accepted s h 3075 p :=
  ⟨takenState 0xC03 activeState, H, takenProg 3075, buf 16 [1, 2, 3], by unfold accepted; decide +kernel⟩

end DebugEnds

/-! ### Witnesses written out: the whole machine, and values that the spec's own sources leave open -/

namespace Whole

theorem witness_StepTakesTheFrontCommand_1 :
    ∃ (s : State) (c : Instr) (rest : List Instr), s.pending = c :: rest ∧ rest ≠ [] :=
  ⟨{ upState with pending := [.exclusiveStart, .flr] }, .exclusiveStart, [.flr], by decide +kernel⟩

theorem witness_StepTakesTheFrontCommand_2 : ∃ s : State, s.pending = [] := ⟨State.reset, rfl⟩

theorem witness_StepKeepsMeterSound_1 : ∃ s t : State, meterSound s.meter ∧ s ≠ t ∧ step s = .next t :=
  ⟨{ State.reset with pending := [.sysReset 99] }, State.reset, by
    refine ⟨by unfold meterSound registersSound; decide +kernel, by decide +kernel, rfl⟩⟩

theorem witness_OnlyMeterRowsMoveTheMeter_1 : ∃ (s t : State) (c : Instr), exec c s = .next t ∧
    (∀ va ia vb ib, c ≠ .adcSample va ia vb ib) ∧ (∀ bs, c ≠ .markFrame bs) ∧ c ≠ .intervalClose ∧ c ≠ .meterSave ∧
    c ≠ .supplyFailing ∧ (∀ n k, c ≠ .meterPowerUp n k) ∧ c ≠ .caseOpened ∧ c ≠ .displayAdvance ∧ c ≠ .displayReturnTimeout ∧
    (∀ n i k, c ≠ .intervals n i k) :=
  ⟨State.reset, State.reset, .sysReset 99, rfl, by simp⟩

end Whole

namespace UnitRegs

theorem witness_UnitAndPlainWritesComplete_11 :
    ∃ (s : State) (src : CfgSrc) (f : Fin 84) (c : Instr) (v : W64), calm s = true ∧ mayConfigure s src ∧
      fieldUp s.wafer f.val = true ∧ (c = .bdsPdRequest src (.field f) v ∨ c = .bdsPdClear src (.field f) v) :=
  ⟨b0, .host, 0, .bdsPdRequest .host (.field 0) 5, 5, by unfold mayConfigure; decide +kernel⟩

theorem witness_UnitAndPlainWritesComplete_12 :
    ∃ (s : State) (src : CfgSrc) (f : Fin 84) (c : Instr) (v : W64), calm s = true ∧ mayConfigure s src ∧
      fieldUp s.wafer f.val = true ∧ c = .bdsPdClear src (.field f) v ∧ (fieldAt s.wafer f.val).bds.pdReq ≠ 0 :=
  ⟨tl { F0 with bds := { F0.bds with pdReq := 5 } }, .host, 0, .bdsPdClear .host (.field 0) 0, 0,
    by unfold mayConfigure; decide +kernel⟩

end UnitRegs

namespace Jobs

/-- A job image of the smallest form: one tensor-free job of 256 checkpoint bytes. -/
def jobImg : List Byte :=
  leBytes 2 1 ++ leBytes 2 0 ++ leBytes 4 256 ++ leBytes 8 5 ++ leBytes 4 0x3f800000 ++ leBytes 1 1 ++ leBytes 1 0x12 ++
  leBytes 4 0 ++ leBytes 2 1 ++ leBytes 4 0 ++ leBytes 2 0 ++ leBytes 1 1 ++ leBytes 1 0 ++ leBytes 1 0 ++ leBytes 1 1 ++
  leBytes 2 1 ++ leBytes 8 0 ++ leBytes 4 0 ++ leBytes 4 0 ++ leBytes 8 (3 * 2^56) ++ leBytes 192 0

theorem some_of_any {α : Type} {o : Option α} {f : α → Bool} (h : o.any f = true) : ∃ m, o = some m ∧ f m = true := by
  cases o with
  | none => simp at h
  | some m => exact ⟨m, rfl, h⟩

def opening : State := takenState 0x201 (JobCmds.op activeState)

def image : HostBuf := buf 256 jobImg

def opens (m : JobImage) : Bool :=
  !namesBadBlock opening.wafer m && decide (checkpointSize m ≤ m.desc.ckptBytes) && m.desc.unmeteredOk &&
    (loadConfig opening m.loads).1 && calm (loadJob (loadConfig opening m.loads).2 m
      (jobOf m 7 (Config.sm3 (bufRead image)) (bufRead image).length (!metered (loadConfig opening m.loads).2)))

theorem witness_JobCommandsComplete_4 :
    ∃ (s : State) (h : CmdHdr) (p : Prog) (id : BitVec 16) (buf : HostBuf) (m : JobImage) (z : State),
      calm s = true ∧ accepted s h 0x0201 p ∧ jobsBarred s = false ∧ s.pwr.phase = .active ∧ bufBad buf = none ∧
      s.rel.retest = [] ∧ s.rel.hbmRows = [] ∧
      (∀ f, f < 84 → s.wafer.off.getLsbD f = true → s.wafer.repair.fields.any (fun x => x.1 == f) = true) ∧
      parseImage (inTree s) (bufRead buf) = some m ∧ namesBadBlock s.wafer m = false ∧
      checkpointSize m ≤ m.desc.ckptBytes ∧ (metered s = true ∨ m.desc.unmeteredOk = true) ∧
      loadConfig s m.loads = (true, z) ∧
      calm (loadJob z m (jobOf m id (Config.sm3 (bufRead buf)) (bufRead buf).length (!metered z))) = true := by
  obtain ⟨m, hm, hf⟩ := some_of_any
    (show (parseImage (inTree opening) (bufRead image)).any opens = true by decide +kernel)
  simp only [opens, Bool.and_eq_true, Bool.not_eq_true', decide_eq_true_eq] at hf
  obtain ⟨⟨⟨⟨h1, h2⟩, h3⟩, h4⟩, h5⟩ := hf
  exact ⟨opening, H, takenProg 0x201, 7, image, m, (loadConfig opening m.loads).2, by decide +kernel,
    by unfold accepted; decide +kernel, by decide +kernel, by decide +kernel, by decide +kernel, by decide +kernel,
    by decide +kernel, by decide +kernel, hm, h1, h2, .inr h3, Prod.ext h4 rfl, h5⟩

end Jobs

namespace Open

/-- The value of `Config.readImage` and `Config.imageSigned` on what is staged stands in the hypotheses: the spec
gives firmware images no layout. -/
theorem witness_DevicePowerAndMeterCommandsComplete_19 :
    let s := takenState 0x111 activeState
    Config.readImage (s.host.fw.staging.readN 0 64) = some img → Config.imageSigned (s.host.fw.staging.readN 0 64) = true →
    ∃ (s : State) (h : CmdHdr) (p : Prog) (n : Nat) (i : FwImage), calm s = true ∧ accepted s h 0x111 p ∧
      n ≤ stagingBytes ∧ Config.readImage (s.host.fw.staging.readN 0 n) = some i ∧
      Config.imageSigned (s.host.fw.staging.readN 0 n) = true ∧ i.slot < 4 ∧ s.sec.revoked.getLsbD i.slot = false ∧
      s.sec.rollback ≤ i.svn := by
  intro s h1 h2
  exact ⟨s, H, takenProg 0x111, 64, img, by decide +kernel, by unfold accepted; decide +kernel, by decide +kernel, h1, h2,
    by decide +kernel, by decide +kernel, by decide +kernel⟩

def wrapped : HostBuf := buf 129 (List.replicate 129 3)

def plainKey (use : Nat) : List Byte := leBytes 2 7 ++ [BitVec.ofNat 8 use] ++ List.replicate 13 0 ++ List.replicate 16 9

/-- What the identity key decrypts stands in the hypothesis. -/
theorem witness_DataCheckpointAndGalleryCommandsComplete_17 (hd : Config.sm2Decrypt (List.replicate 129 3) = some (plainKey 1)) :
    ∃ (s : State) (h : CmdHdr) (p : Prog) (b : HostBuf) (k : List Byte), calm s = true ∧ bufBad b = none ∧
      unwrapKey s b 1 = some k ∧ accepted s h 0x606 p := by
  refine ⟨takenState 0x606 (DataCmds.tj id), H, takenProg 0x606, wrapped, List.replicate 16 9, by decide +kernel, by decide +kernel, ?_,
    by unfold accepted; decide +kernel⟩
  have hb : bufRead wrapped = List.replicate 129 3 := by decide +kernel
  unfold unwrapKey
  rw [if_neg (by decide +kernel), hb, hd]
  exact if_pos (by decide +kernel)

theorem witness_DataCheckpointAndGalleryCommandsComplete_18 (hd : Config.sm2Decrypt (List.replicate 129 3) = some (plainKey 2)) :
    ∃ (s : State) (h : CmdHdr) (p : Prog) (b : HostBuf) (k : List Byte), calm s = true ∧ bufBad b = none ∧
      unwrapKey s b 2 = some k ∧ accepted s h 0x702 p := by
  refine ⟨takenState 0x702 (DataCmds.tj id), H, takenProg 0x702, wrapped, List.replicate 16 9, by decide +kernel, by decide +kernel, ?_,
    by unfold accepted; decide +kernel⟩
  have hb : bufRead wrapped = List.replicate 129 3 := by decide +kernel
  unfold unwrapKey
  rw [if_neg (by decide +kernel), hb, hd]
  exact if_pos (by decide +kernel)

def restoring : State := takenState 0x605 (DataCmds.ck id (DataCmds.tj (fun t => { t with job := some JobCmds.noTensors })))

def restored : CkptSlot := ⟨DataCmds.snap0, 3, [1, 2, 3, 4, 5], false, false, false⟩

/-- That the slot's bytes verify stands in the hypothesis: hashes, tags and signatures are opaque. -/
theorem witness_DataCheckpointAndGalleryCommandsComplete_19 (hg : restoreGood restoring JobCmds.noTensors restored.bytes = true) :
    ∃ (s : State) (h : CmdHdr) (p : Prog) (j : Job) (i : Nat) (c : CkptSlot), calm s = true ∧ accepted s h 0x605 p ∧
      s.train.job = some j ∧ s.pwr.phase = .active ∧ s.train.replay = none ∧ mget none s.ckpt.slots i = some c ∧
      c.invalid = false ∧ c.bad = false ∧ restoreGood s j c.bytes = true ∧ calm (restoreSnap s j c.snap) = true :=
  ⟨restoring, H, takenProg 0x605, JobCmds.noTensors, 0, restored, by decide +kernel, by unfold accepted; decide +kernel, rfl,
    rfl, rfl, by decide +kernel, rfl, rfl, hg, by decide +kernel⟩

theorem witness_DataAndStateCommandsEnd_18 (hg : restoreGood restoring JobCmds.noTensors restored.bytes = true) :
    ∃ (s : State) (h : CmdHdr) (p : Prog) (b : HostBuf) (i : Nat) (c : CkptSlot) (j : Job), calm s = true ∧ bufBad b = none ∧
      mget none s.ckpt.slots i = some c ∧ s.train.job = some j ∧ s.pwr.phase = .active ∧ s.train.replay = none ∧
      c.invalid = false ∧ c.bad = false ∧ restoreGood s j c.bytes = true ∧ accepted s h 0x605 p ∧
      calm (restoreSnap s j c.snap) = true := by
  refine ⟨restoring, H, takenProg 0x605, wrapped, 0, restored, JobCmds.noTensors, ?_, ?_, ?_, rfl, rfl, rfl, rfl, rfl, hg,
    by unfold accepted; decide +kernel, ?_⟩ <;> decide +kernel

theorem witness_DataAndStateCommandsEnd_19 (hd : Config.sm2Decrypt (List.replicate 129 3) = some (plainKey 1)) :
    ∃ (s : State) (h : CmdHdr) (p : Prog) (b : HostBuf) (k : List Byte), calm s = true ∧ bufBad b = none ∧
      unwrapKey s b 1 = some k ∧ accepted s h 0x606 p :=
  witness_DataCheckpointAndGalleryCommandsComplete_17 hd

theorem witness_DataAndStateCommandsEnd_20 (hd : Config.sm2Decrypt (List.replicate 129 3) = some (plainKey 2)) :
    ∃ (s : State) (h : CmdHdr) (p : Prog) (b : HostBuf) (k : List Byte), calm s = true ∧ bufBad b = none ∧
      unwrapKey s b 2 = some k ∧ accepted s h 0x702 p :=
  witness_DataCheckpointAndGalleryCommandsComplete_18 hd

/-- A response that the owner's key signs. -/
def response : List Byte := List.replicate 64 1 ++ [0xFE] ++ List.replicate 143 0

/-- A Deployed module that holds challenge `n` of an open owner. -/
def unlocking (n : Nat) : State :=
  takenState 0xA02 { activeState with
    sec := { activeState.sec with challenge := some ⟨n, List.replicate 64 1⟩, life := .deployed, owner := some [9] } }

def answer : HostBuf := buf 208 response

/-- That the signature verifies stands in the hypothesis. -/
theorem unlocking_good (n : Nat) (hn : n = 1 ∨ n = 2 ∨ n = 0x14)
    (hv : Config.sm2Verify [9] (slice response 0 144) (slice response 144 64) = true) :
    unlockRefusal (unlocking n) n (bufRead answer) 5 = none := by
  have hb : bufRead answer = response := by decide +kernel
  have hg : responseGood (unlocking n) n (bufRead answer) 5 = true := by
    have hc : (unlocking n).sec.challenge = some ⟨n, List.replicate 64 1⟩ := rfl
    have hk : signerKey (unlocking n) response = some [9] := by
      unfold signerKey; rw [if_pos (by decide +kernel)]; rfl
    rw [hb]; unfold responseGood; simp only [hc, hk, hv, Bool.and_true]
    rcases hn with rfl | rfl | rfl <;> decide +kernel
  unfold unlockRefusal
  rw [hg, hb]
  rcases hn with rfl | rfl | rfl <;> decide +kernel

theorem witness_DebugCommandsComplete_16 (hv : Config.sm2Verify [9] (slice response 0 144) (slice response 144 64) = true) :
    ∃ (s : State) (h : CmdHdr) (p : Prog) (b : HostBuf) (n age : Nat), calm s = true ∧ bufBad b = none ∧
      accepted s h 0xA02 p ∧ levelArg n = true ∧ unlockRefusal s n (bufRead b) age = none ∧ n ≤ 3 ∧ s.pwr.phase = .active :=
  ⟨unlocking 2, H, takenProg 0xA02, answer, 2, 5, by decide +kernel, by decide +kernel, by unfold accepted; decide +kernel,
    by decide +kernel, unlocking_good 2 (.inr (.inl rfl)) hv, by decide +kernel, by decide +kernel⟩

theorem witness_DebugCommandsComplete_17 (hv : Config.sm2Verify [9] (slice response 0 144) (slice response 144 64) = true) :
    ∃ (s : State) (h : CmdHdr) (p : Prog) (b : HostBuf) (n age : Nat), calm s = true ∧ bufBad b = none ∧
      accepted s h 0xA02 p ∧ levelArg n = true ∧ unlockRefusal s n (bufRead b) age = none ∧ 3 < n :=
  ⟨unlocking 0x14, H, takenProg 0xA02, answer, 0x14, 5, by decide +kernel, by decide +kernel, by unfold accepted; decide +kernel,
    by decide +kernel, unlocking_good 0x14 (.inr (.inr rfl)) hv, by decide +kernel⟩

/-- An owner may open Observe alone on a Deployed module, so the level asked for is 1. -/
theorem witness_DebugAndInjectionCommandsEnd_16 (hv : Config.sm2Verify [9] (slice response 0 144) (slice response 144 64) = true) :
    ∃ (s : State) (h : CmdHdr) (p : Prog) (b : HostBuf) (n age : Nat), calm s = true ∧ bufBad b = none ∧ 1 ≤ n ∧ n ≤ 3 ∧
      s.pwr.phase = .active ∧ unlockRefusal s n (bufRead b) age = none ∧ (n ≠ 2 ∨ s.sec.life ≠ .deployed) ∧ accepted s h 0xA02 p := by
  refine ⟨unlocking 1, H, takenProg 0xA02, answer, 1, 5, ?_, ?_, ?_, ?_, ?_, unlocking_good 1 (.inl rfl) hv, ?_,
    by unfold accepted; decide +kernel⟩ <;> decide +kernel

end Open

end Sys2Proof.Tests
end

section
/-!
Config writes that a target refuses (R20, R312, R720), and arrays below Simmer level 16 (R318).
-/

namespace Sys2Proof.Machine

open Sys2Proof Sys2Proof.Safety

/-! ### Hub counters: what a config access leaves on its way (R279, R292) -/

/-- A value that satisfies `q` where the default does not is listed in the map. -/
theorem any_of_mget {α : Type} {d : α} {q : α → Bool} (hd : q d = false) :
    ∀ (m : SMap α) (k : Nat), q (mget d m k) = true → m.any (fun p => q p.2) = true
  | [], _, h => absurd h (by simp [hd])
  | (k', v) :: m, k, h => by
    by_cases hk : k' = k
    · simp_all [mget]
    · simp only [mget, hk, if_false] at h
      simp [any_of_mget hd m k h]

/-- An entry replaced by one that `q` judges alike leaves whether any entry satisfies `q`. -/
theorem any_mput {α : Type} {d : α} {q : α → Bool} (hd : q d = false) {v : α} {k : Nat} :
    ∀ m : SMap α, q v = q (mget d m k) → (mput m k v).any (fun p => q p.2) = m.any (fun p => q p.2)
  | [], h => by simpa [mput, hd] using h
  | (k', v') :: m, h => by
    by_cases hk : k' = k
    · simp_all [mput, mget]
    · by_cases hlt : k < k'
      · have hin : q v = true → ((k', v') :: m).any (fun p => q p.2) = true :=
          fun hv => any_of_mget hd _ k (h ▸ hv)
        simp only [mput, hk, hlt, if_false, if_true, List.any_cons]
        cases hq : q v
        · simp
        · simpa using (hin hq).symm
      · have ih := any_mput hd (v := v) (k := k) m (by simpa [mget, hk] using h)
        simp [mput, hk, hlt, ih]

/-- A hub's counter is no arrival, so a line's BUSY stays. -/
theorem lineBusy_fieldBump (l : Nat) (w : Wafer) (f off n : Nat) : lineBusy (fieldBump w f off n) l = lineBusy w l := by
  by_cases h : n = 0
  · simp [fieldBump, h]
  · rw [fieldBump_eq w f off n h]
    have hany := any_mput (d := Field.reset) (q := fun x => mget 0 x.arrived l != 0) (k := f)
      (v := { fieldAt w f with ctrs := bumpAt (fieldAt w f).ctrs off n }) rfl w.fields rfl
    exact congrArg (fun b => (lineAt w l).compArrived || b) hany

theorem fieldUp_fieldBump (g : Nat) (w : Wafer) (f off n : Nat) : fieldUp (fieldBump w f off n) g = fieldUp w g := by
  unfold fieldBump; split <;> rfl

theorem rimAt_fieldBump (k : Nat) (w : Wafer) (f off n : Nat) : rimAt (fieldBump w f off n) k = rimAt w k := by
  unfold fieldBump; split <;> rfl

section counts
variable {γ : Type} (p : Wafer → γ) (hp : ∀ w f off n, p (fieldBump w f off n) = p w)
include hp

/-- What the hubs' counters leave alone, a config access on its way out leaves alone. -/
theorem cfgOut_keeps (w : Wafer) (ns : List Nat) (off : Nat) : p (cfgOut w ns off) = p w :=
  foldl_keeps p _ _ (fun w h => by simp only [hp]) w

/-- The same of a target's answer. -/
theorem cfgBack_keeps (off : Nat) (w : Wafer) (n : Nat) : p (cfgBack off w n) = p w := by
  unfold cfgBack; split
  · rfl
  · exact foldl_keeps p _ _ (fun w h => hp w h _ _) w

end counts

@[simp] theorem lineBusy_cfgOut (w : Wafer) (ns : List Nat) (off l : Nat) : lineBusy (cfgOut w ns off) l = lineBusy w l :=
  cfgOut_keeps (lineBusy · l) (lineBusy_fieldBump l) w ns off

@[simp] theorem fieldUp_cfgOut (w : Wafer) (ns : List Nat) (off f : Nat) : fieldUp (cfgOut w ns off) f = fieldUp w f :=
  cfgOut_keeps (fieldUp · f) (fieldUp_fieldBump f) w ns off

@[simp] theorem rimAt_cfgOut (w : Wafer) (ns : List Nat) (off k : Nat) : rimAt (cfgOut w ns off) k = rimAt w k :=
  cfgOut_keeps (rimAt · k) (rimAt_fieldBump k) w ns off

@[simp] theorem cfgOut_posted (w : Wafer) (ns : List Nat) (off : Nat) : (cfgOut w ns off).posted = w.posted :=
  cfgOut_keeps Wafer.posted fieldBump_posted w ns off

@[simp] theorem cfgBack_posted (off : Nat) (w : Wafer) (n : Nat) : (cfgBack off w n).posted = w.posted :=
  cfgBack_keeps Wafer.posted fieldBump_posted off w n

/-! ### A config write carried out at once (R20, R720) -/

/-- Of two statuses of a source the later stands. -/
theorem setCfgErr_setCfgErr (s : State) (src : CfgSrc) (a b : CfgErr) :
    setCfgErr (setCfgErr s src a) src b = setCfgErr s src b := by cases src <;> rfl

/-- A status says nothing of detections and watches. -/
theorem calm_setCfgErr (s : State) (src : CfgSrc) (e : CfgErr) : calm (setCfgErr s src e) = calm s := rfl

/-- A write that may be applied now reaches its targets, and its source's status is their answer. -/
theorem configWriteAll_now {s : State} {src : CfgSrc} (h : mayConfigure s src) (tgt : CfgTarget) (off : Nat) (v : W64) :
    configWriteAll s src tgt off v = setCfgErr (bridgeWrite s src tgt off v).2 src (bridgeWrite s src tgt off v).1 := by
  obtain ⟨hfree, hhost⟩ := h
  cases src with
  | firmware => simp [configWriteAll, hfree]
  | host =>
    obtain ⟨hbusy, hstage, hlevel⟩ := hhost rfl
    simp [configWriteAll, hfree, hbusy, windowRefusal, hstage, hlevel]

/-- A write whose one target answers with an error and changes nothing: the access has passed, and the status names the
target. -/
theorem configWriteAll_refused {s : State} {src : CfgSrc} {tgt : CfgTarget} {off n c : Nat} {v : W64} (hc : calm s = true)
    (h : mayConfigure s src) (ht : cfgTargets s.wafer tgt off = [n])
    (hw : writeTarget src { s with wafer := cfgOut s.wafer [n] off } n off v = (c, { s with wafer := cfgOut s.wafer [n] off })) :
    settle (configWriteAll s src tgt off v) =
      setCfgErr (configured s src n off (cfgOut s.wafer [n] off)) src (CfgErr.none.note c n) := by
  have hb : bridgeWrite s src tgt off v =
      (CfgErr.none.note c n, { s with wafer := cfgBack off (cfgOut s.wafer [n] off) n }) := by
    simp [bridgeWrite, ht, writeTargets, onW, hw]
  have hcalm : calm { s with wafer := cfgBack off (cfgOut s.wafer [n] off) n } = true := calm_wafer hc _ (by simp)
  rw [configWriteAll_now h, hb, settle_calm (by rw [calm_setCfgErr]; exact hcalm), configured, setCfgErr_setCfgErr]

/-! ### Writes of a busy Banister line (R312) -/

theorem writeBanMask_busy {w : Wafer} {l : Nat} (h : lineBusy w l = true) (f : Nat) (v : W64) :
    writeBanMask w f l v = (3, w) := by simp [writeBanMask, h]

theorem writeBanLine_busy {w : Wafer} {l : Nat} (h : lineBusy w l = true) (v : W64) : writeBanLine w l v = (3, w) := by
  simp [writeBanLine, h]

theorem exec_banMaskWrite (src : CfgSrc) (tgt : CfgTarget) (l : Fin 16) (v : W64) (s : State) :
    exec (.banMaskWrite src tgt l v) s = .next (settle (configWriteAll s src tgt (0xF100 + 8 * l.val) v)) := rfl

theorem exec_banLineWrite (src : CfgSrc) (l : Fin 16) (v : W64) (s : State) :
    exec (.banLineWrite src l v) s = .next (settle (configWriteAll s src (.rim 0) (0xF000 + 8 * l.val) v)) := rfl

/-- A powered field is the one target of an access to its units. -/
theorem cfgTargets_field {w : Wafer} {f : Fin 84} {off : Nat} (ho : isFieldOff off = true) (hu : fieldUp w f.val = true) :
    cfgTargets w (.field f) off = [64 * f.val] := by simp [cfgTargets, ho, hu]

/-- The offsets of the masks lie among the units' ones. -/
theorem isFieldOff_banMask (l : Fin 16) : isFieldOff (0xF100 + 8 * l.val) = true := by
  simp only [isFieldOff, decide_eq_true_eq]; omega

/-- BAN_MASK is a register of the field's units. -/
theorem fieldRead_banMask (s : State) (f : Nat) (l : Fin 16) :
    fieldRead s f (0xF100 + 8 * l.val) = some (mget 0 (fieldAt s.wafer f).banMask l.val) := by
  have hl := l.isLt
  have h8 : (0xF100 + 8 * l.val) % 8 = 0 := by omega
  have hi : (0xF100 + 8 * l.val - 0xF100) / 8 = l.val := by omega
  simp (disch := omega) only [fieldRead, h8, hi, ne_eq, not_true_eq_false, if_false, if_neg, if_pos]

/-- The participants of a line are no counter. -/
theorem isRimCtr_banLine (l : Fin 16) : isRimCtr (0xF000 + 8 * l.val) = false := by
  simp only [isRimCtr, Bool.and_eq_false_iff, decide_eq_false_iff_not]; omega

/-- BAN_LINE is a register of rim0. -/
theorem rimRead_banLine_isSome (s : State) (l : Fin 16) : (rimRead s 0 (0xF000 + 8 * l.val)).isSome = true := by
  have hl := l.isLt
  simp (disch := omega) only [rimRead, isRimCtr_banLine, if_neg, if_pos, if_false, Option.isSome_some, Bool.false_eq_true]

/-- A field refuses a write to the mask of a busy line. -/
theorem writeTarget_banMask_busy {s : State} {f : Fin 84} {l : Fin 16} (src : CfgSrc) (v : W64)
    (hu : fieldUp s.wafer f.val = true) (hb : lineBusy s.wafer l.val = true) :
    writeTarget src s (64 * f.val) (0xF100 + 8 * l.val) v = (3, s) := by
  have hl := l.isLt
  have hf : 64 * f.val / 64 = f.val := by omega
  have hi : (0xF100 + 8 * l.val - 0xF100) / 8 = l.val := by omega
  have hlt : 64 * f.val < 8192 := by omega
  simp (disch := omega) only [writeTarget, hlt, hf, isFieldOff_banMask, hu, Bool.true_or, if_true, fieldWrite,
    fieldRead_banMask, Option.isNone_some, Bool.false_eq_true, if_false, if_neg, if_pos, hi, writeBanMask_busy hb]

/-- Rim0 refuses a write to the participants of a busy line. -/
theorem writeTarget_banLine_busy {s : State} {l : Fin 16} (src : CfgSrc) (v : W64) (hr : (rimAt s.wafer 0).failed = false)
    (hb : lineBusy s.wafer l.val = true) : writeTarget src s 8192 (0xF000 + 8 * l.val) v = (3, s) := by
  have hl := l.isLt
  have hi : (0xF000 + 8 * l.val - 0xF000) / 8 = l.val := by omega
  have hn : (rimRead s 0 (0xF000 + 8 * l.val)).isNone = false := by simpa using rimRead_banLine_isSome s l
  simp (disch := omega) only [writeTarget, Nat.lt_irrefl, Nat.sub_self, hr, rimWrite, hn, isRimCtr_banLine,
    Bool.false_eq_true, if_false, if_neg, if_pos, hi, writeBanLine_busy hb]

/-- The first failure of an access names its target. -/
theorem note_none {c n : Nat} (hc : c ≠ 0) :
    CfgErr.none.note c n = ⟨BitVec.ofNat 8 c, BitVec.ofNat 7 (targetName n).1, BitVec.ofNat 6 (targetName n).2, 1⟩ := by
  simp [CfgErr.note, hc, CfgErr.none]

/-- Settles O5: the line stays busy while the access is on its way, so its target answers code 0x03 and keeps the register. -/
theorem busyLineWritesAreDiscarded : Obligations.BusyLineWritesAreDiscarded := by
  unfold Obligations.BusyLineWritesAreDiscarded
  intro s src f l v hb
  refine ⟨writeBanMask_busy hb _ v, writeBanLine_busy hb v, fun hc hm => ⟨fun hu => ?_, fun hr => ?_⟩⟩
  · have hn : targetName (64 * f.val) = (f.val, 0) := by simp [targetName]; omega
    rw [exec_banMaskWrite, configWriteAll_refused hc hm (cfgTargets_field (isFieldOff_banMask l) hu)
      (writeTarget_banMask_busy src v (by simpa using hu) (by simpa using hb)), note_none (by decide), hn]
    rfl
  · rw [exec_banLineWrite, configWriteAll_refused (n := 8192) hc hm rfl
      (writeTarget_banLine_busy src v (by simpa using hr) (by simpa using hb)), note_none (by decide)]
    rfl

/-! ### Arrays below level 16 (R318) -/

theorem levelOk_below {w : Wafer} {t : Nat} (h : (fieldAt w (t / 64)).level ≠ 16) : levelOk w t = false := by
  simpa [levelOk] using h

@[simp] theorem fieldAt_tileBump (w : Wafer) (t off n f : Nat) : fieldAt (tileBump w t off n) f = fieldAt w f := by
  unfold tileBump; split <;> rfl

/-- A tile's counters are no part of its array. -/
@[simp] theorem arr_tileBump (w : Wafer) (t off n u : Nat) : (tileAt (tileBump w t off n) u).arr = (tileAt w u).arr := by
  by_cases h : n = 0
  · simp [tileBump, h]
  · rw [tileBump_eq w t off n h]
    by_cases hu : t = u
    · subst hu; simp
    · simp [hu]

/-- A release at a lower level is only recorded. -/
theorem holdRelease_below {w : Wafer} {t : Nat} (h : levelOk w t = false) :
    holdRelease w t = setField w (t / 64) { fieldAt w (t / 64) with pending := true } := by simp [holdRelease, h]

/-- A set that waits to enter below level 16 waits in Simmer. -/
theorem inSimmer_below {w : Wafer} {t : Nat} (h : (fieldAt w (t / 64)).level ≠ 16) (hp : (tileAt w t).arr.phase = .entry) :
    inSimmer w t = true := by simp [inSimmer, hp, levelOk_below h]

/-- Below level 16 SET_ENTER holds a set that may enter, with its cycles counted, and does nothing else: both tests come
before anything of the set is read. -/
theorem setEnter_below {w : Wafer} {t : Nat} (h : levelOk w t = false) (held : Nat) :
    setEnter w t held =
      if blocked w || (tileAt w t).arr.phase != .entry || !setReady (tileAt w t) || closingHolds (tileAt w t).arr then w
      else holdRelease (tileBump w t 0x23100 held) t := by
  split
  case isTrue hg => exact if_pos hg
  case isFalse hg => exact (if_neg hg).trans (if_pos (by simp [h]))

/-- A gate whose flag reads 1 releases no slot with products below level 16. -/
theorem gateOpen_below {w : Wafer} {t : Nat} (h : levelOk w t = false) (hp : (tileAt w t).arr.phase = .gate)
    (hf : flagOf w t (slotAt (tileAt w t).cad (tileAt w t).arr.pos).gateFlag = true)
    (hk : (slotAt (tileAt w t).cad (tileAt w t).arr.pos).kind ≠ 0) (held : Nat) : gateOpen w t held = holdRelease w t := by
  simp [gateOpen, h, hp, hf, hk]

/-- SET_ENTER below level 16 leaves every array as it is, and posts nothing. -/
theorem arr_setEnter_below {w : Wafer} {t : Nat} (h : levelOk w t = false) (held : Nat) :
    (∀ u, (tileAt (setEnter w t held) u).arr = (tileAt w u).arr) ∧ (setEnter w t held).posted = w.posted := by
  rw [setEnter_below h]
  have hb : levelOk (tileBump w t 0x23100 held) t = false := by simpa [levelOk] using h
  split
  · exact ⟨fun _ => rfl, rfl⟩
  · simp [holdRelease_below hb, bump_posted]

/-- The wafer with the set of reload `h` in the shadow buffer, and the cycles counted that issue held for it (R92, R93). -/
def reloaded (w : Wafer) (t : Nat) (h : Shadow) (held : Nat) : Wafer :=
  let x := tileAt w t
  let s := slotAt x.cad h.pos
  let n := if x.arr.phase = .entry ∧ x.arr.pos = h.pos then held else 0
  let bs := x.sp.readN (bAddr s h.pos).toNat (setBytes s.fmtB)
  onTile (tileBump (tileBump w t 0x8118 n) t 0x23100 n) t
    (fun y => { y with arr := { y.arr with shadow := some { h with ready := true, bytes := bs } } })

/-- What SHADOW_RELOAD_COMPLETE does at a sound tile whose reload is under way. -/
theorem shadowComplete_sound {w : Wafer} {t : Nat} {h : Shadow} (hs : tileSound (tileAt w t))
    (hsh : (tileAt w t).arr.shadow = some h) (hr : h.ready = false) (held : Nat) :
    shadowComplete w t held =
      noteSimmer (if (tileAt w t).arr.phase = .entry then holdRelease (reloaded w t h held) t else reloaded w t h held) t := by
  unfold shadowComplete
  extract_lets x
  rw [show x.arr.shadow = some h from hsh]
  refine (if_neg (by simp [hr])).trans ?_
  extract_lets +onlyGivenNames s
  rw [spLoad_sound hs]
  rfl

@[simp] theorem reloaded_posted (w : Wafer) (t : Nat) (h : Shadow) (held : Nat) : (reloaded w t h held).posted = w.posted := by
  simp [reloaded, bump_posted]

@[simp] theorem fieldAt_reloaded (w : Wafer) (t : Nat) (h : Shadow) (held f : Nat) :
    fieldAt (reloaded w t h held) f = fieldAt w f := by simp [reloaded]

/-- A completed reload moves neither the array nor its tile in progress. -/
theorem arr_reloaded (w : Wafer) (t : Nat) (h : Shadow) (held : Nat) :
    (tileAt (reloaded w t h held) t).arr.phase = (tileAt w t).arr.phase ∧
      (tileAt (reloaded w t h held) t).arr.tile = (tileAt w t).arr.tile := by simp [reloaded]

/-- A reload of a sound tile completes under a set that waits below level 16: the array keeps its place and its tile, and
RELEASE_PENDING is set. -/
theorem shadowComplete_below {w : Wafer} {t : Nat} {h : Shadow} (hl : levelOk w t = false) (hs : tileSound (tileAt w t))
    (hp : (tileAt w t).arr.phase = .entry) (hsh : (tileAt w t).arr.shadow = some h) (hr : h.ready = false) (held : Nat) :
    let u := shadowComplete w t held
    u.posted = w.posted ∧ fieldAt u (t / 64) = { fieldAt w (t / 64) with pending := true } ∧
      (tileAt u t).arr.phase = .entry ∧ (tileAt u t).arr.tile = (tileAt w t).arr.tile := by
  have hb : levelOk (reloaded w t h held) t = false := by simpa [levelOk] using hl
  obtain ⟨hphase, htile⟩ := arr_reloaded w t h held
  rw [shadowComplete_sound hs hsh hr, if_pos hp, holdRelease_below hb]
  simp [noteSimmer, hphase, htile, hp]

theorem exec_setEnter (t : TileId) (held : Nat) (s : State) :
    exec (.setEnter t held) s = onWafer s (fun w => setEnter w (tkey t) held) := rfl

theorem exec_gateOpen (t : TileId) (held : Nat) (s : State) :
    exec (.gateOpen t held) s = onWafer s (fun w => gateOpen w (tkey t) held) := rfl

theorem exec_shadowReloadComplete (t : TileId) (held : Nat) (s : State) :
    exec (.shadowReloadComplete t held) s = onWafer s (fun w => shadowComplete w (tkey t) held) := rfl

/-- Settles O6: below level 16 every event that would release the array ends in `holdRelease`. -/
theorem levelBelow16HoldsArrays : Obligations.LevelBelow16HoldsArrays := by
  unfold Obligations.LevelBelow16HoldsArrays
  intro s t held hc k x pending hlevel
  have hl : levelOk s.wafer k = false := levelOk_below hlevel
  obtain ⟨harr, hposted⟩ := arr_setEnter_below (t := tkey t) hl held
  refine ⟨fun u hu => ?_, fun hp hf hk => ?_, fun hp hr hcl hb => ?_, fun h hp hsh hr hs => ?_⟩
  · rw [exec_setEnter, onWafer_calm hc _ hposted] at hu
    cases hu
    exact harr k
  · have hg : gateOpen s.wafer k held = pending s.wafer := by rw [gateOpen_below hl hp hf hk, holdRelease_below hl]
    rw [exec_gateOpen, onWafer_calm hc _ (by rw [hg]; rfl), hg]
  · have hbump : (fieldAt (tileBump s.wafer k 0x23100 held) (k / 64)).level ≠ 16 := by simpa using hlevel
    have hg : setEnter s.wafer k held = pending (tileBump s.wafer k 0x23100 held) := by
      rw [setEnter_below hl, if_neg (by simp [hb, hp, hr, hcl, x]), holdRelease_below (levelOk_below hbump),
        fieldAt_tileBump]
    refine ⟨by rw [exec_setEnter, onWafer_calm hc _ hposted, hg], inSimmer_below ?_ ?_⟩
    · simpa [pending] using hlevel
    · simpa [pending] using hp
  · obtain ⟨hpost, hfield, hphase, htile⟩ := shadowComplete_below hl hs hp hsh hr held
    refine ⟨_, (exec_shadowReloadComplete t held s).trans (onWafer_calm hc _ hpost), ?_, inSimmer_below ?_ hphase, htile⟩
    · exact congrArg Field.pending hfield
    · rw [show (fieldAt _ (k / 64)).level = _ from congrArg Field.level hfield]; exact hlevel

end Sys2Proof.Machine
end

section
/-!
Exclusive commands (R466): what COMMAND_TAKE does with one that finds another in progress, and when EXCLUSIVE_START starts
it.
-/

namespace Sys2Proof.Machine

open Sys2Proof Sys2Proof.Safety

/-! ### Taking an exclusive command behind another -/

theorem exclusive_iff (op : Nat) : exclusive op = true ↔ op = 0x0201 ∨ op = 0x0202 ∨ op = 0x0301 ∨ op = 0x0304 ∨
    op = 0x0605 ∨ op = 0x0404 ∨ op = 0x0104 ∨ op = 0x0105 ∨ op = 0x0111 ∨ op = 0x0112 ∨ op = 0x0803 := by
  simp [exclusive]

theorem knownOps_of_exclusive {op : Nat} (h : exclusive op = true) : knownOps.contains op = true := by
  have hsub : [0x0201, 0x0202, 0x0301, 0x0304, 0x0605, 0x0404, 0x0104, 0x0105, 0x0111, 0x0112, 0x0803] ⊆ knownOps := by decide
  exact List.contains_iff_mem.2 (hsub (List.contains_iff_mem.1 h))

/-- The record of an exclusive command of ring `i` that was taken while another is in progress. -/
def waitingProg (i : Nat) (e : List Byte) : Prog :=
  ⟨i, BitVec.ofNat 16 (fieldN e 2 2), fieldN e 0 2, bitOf (fieldN e 6 1) 0, bitOf (fieldN e 6 1) 1, .waiting, 0⟩

/-- The state with an entry of ring `i` read, its completion entry reserved and record `p` in progress (R464). -/
def withTaken (s : State) (i : Nat) (p : Prog) : State :=
  onHost (onRing s i (fun r => { r with sqHead := (r.sqHead + 1) % 4096, reserved := r.reserved + 1 }))
    (fun h => { h with progs := h.progs ++ [p] })

@[simp] theorem withTaken_progs (s : State) (i : Nat) (p : Prog) : (withTaken s i p).host.progs = s.host.progs ++ [p] := rfl

@[simp] theorem withTaken_busMast (s : State) (i : Nat) (p : Prog) : (withTaken s i p).host.busMast = s.host.busMast := rfl

@[simp] theorem ringAt_withTaken (s : State) (i : Nat) (p : Prog) : ringAt (withTaken s i p) i =
    { ringAt s i with sqHead := ((ringAt s i).sqHead + 1) % 4096, reserved := (ringAt s i).reserved + 1 } := by
  simp [ringAt, withTaken]

theorem reports_withTaken (s : State) (i : Nat) (p : Prog) : reports s (withTaken s i p) :=
  reports_trans (reports_setRing s i _) (reports_onHost _ _ (by simp [hostKept]))

/-- A command is taken from the first ring that one can be taken from. -/
theorem takeCommand_some {s : State} {i : Nat} (hs : serving s = true) (hl : s.host.progs.length < 256)
    (hf : (List.range 8).find? (mayTake s) = some i) (e : List Byte) : takeCommand s (some e) = takeEntry s i e := by
  simp [takeCommand, hs, hl, hf]

/-- A sound exclusive command that finds another in progress is recorded as waiting; only NOWAIT completes it. -/
theorem takeEntry_behind {s : State} {i : Nat} {e : List Byte} (hx : exclusive (fieldN e 0 2) = true)
    (hdup : s.host.progs.any (fun p => p.ring == i && p.cmdId == BitVec.ofNat 16 (fieldN e 2 2)) = false)
    (hflags : fieldN e 6 1 < 8) (hz : zeros e 7 16 = true) (hother : s.host.progs.any (fun p => exclusive p.opcode) = true) :
    takeEntry s i e =
      if bitOf (fieldN e 6 1) 0 then complete (withTaken s i (waitingProg i e)) (waitingProg i e) Result.busy.code
      else withTaken s i (waitingProg i e) := by
  have hbad : ¬ (fieldN e 6 1 ≥ 8 ∨ (!zeros e 7 16) = true) := by simp [hz, hflags]
  simp only [takeEntry, hdup, hx, hother, knownOps_of_exclusive hx, if_neg hbad, Bool.not_true, Bool.not_false, Bool.and_self,
    Bool.true_and, Bool.false_eq_true, if_true, if_false]
  rfl

/-- A record whose ID is not in progress on its ring is no record in progress. -/
theorem waitingProg_notMem {s : State} {i : Nat} {e : List Byte}
    (hdup : s.host.progs.any (fun p => p.ring == i && p.cmdId == BitVec.ofNat 16 (fieldN e 2 2)) = false) :
    waitingProg i e ∉ s.host.progs := by
  intro hm
  simpa [waitingProg] using List.any_eq_false.1 hdup _ hm

theorem exec_commandTake (e : Option (List Byte)) (s : State) :
    exec (.commandTake e) s = .next (notice s (takeCommand s e)) := rfl

/-! ### Starting a waiting command -/

theorem exec_exclusiveStart (s : State) : exec .exclusiveStart s = .next (notice s (startExclusive s)) := rfl

/-- Nothing starts while an exclusive command that does not wait is in progress. -/
theorem startExclusive_behind {s : State}
    (h : s.host.progs.any (fun p => exclusive p.opcode && decide (p.state ≠ .waiting)) = true) : startExclusive s = s :=
  if_pos h

/-- A command whose records all wait has not been taken up. -/
theorem progOf_waiting {s : State} {h : CmdHdr} (hw : ∀ p ∈ s.host.progs, p.ring = h.ring.val → p.cmdId = h.cmdId →
    p.state = .waiting) (op : Nat) : progOf s h op = none := by
  cases hp : progOf s h op with
  | none => rfl
  | some p =>
    obtain ⟨hm, hring, hid, -, hst⟩ := progOf_spec hp
    exact absurd (hst.symm.trans (hw p hm hring hid)) (by decide)

/-- Settles O7: the taken command is recorded as waiting, and no check and no work looks at a record that waits. -/
theorem exclusiveCommandsWait : Obligations.ExclusiveCommandsWait := by
  unfold Obligations.ExclusiveCommandsWait
  refine ⟨exclusive_iff, fun s i e =>
    ⟨fun hs hl hf hx hdup hflags hz hother => ?_, fun h => ?_, fun h op ok f hw => ?_⟩⟩
  · rw [exec_commandTake, takeCommand_some hs hl hf, takeEntry_behind hx hdup hflags hz hother]
    refine ⟨_, rfl, ?_⟩
    have htaken := reports_withTaken s i (waitingProg i e)
    cases hn : bitOf (fieldN e 6 1) 0 with
    | false =>
      obtain ⟨hrep, hprogs, -⟩ := keptWaiting_notice s (withTaken s i (waitingProg i e))
      exact ⟨reports_trans htaken hrep, fun _ => by simpa [waitingProg, hn] using hprogs, nofun⟩
    | true =>
      obtain ⟨hrep, -, -, hprogs, -, hwrite⟩ :=
        completed_notice s (complete_completed (withTaken s i (waitingProg i e)) (waitingProg i e) .busy 0 0 0 (by simp))
      refine ⟨reports_trans htaken hrep, nofun, fun _ => ⟨?_, ?_⟩⟩
      · simpa [List.erase_append_right _ (waitingProg_notMem hdup)] using hprogs
      · simpa [waitingProg, completionBytes] using hwrite
  · rw [exec_exclusiveStart, startExclusive_behind h]
    obtain ⟨hrep, hprogs, -⟩ := keptWaiting_notice s s
    exact ⟨_, rfl, hrep, hprogs⟩
  · exact hostCmd_none (progOf_waiting hw op) ok f

end Sys2Proof.Machine
end

section
/-!
Cold starts (R544, R632, R699): what the state after a loss of every switched domain is, and what SYS_RESET# does by its
length.
-/

namespace Sys2Proof.Machine

open Sys2Proof Sys2Proof.Safety

/-! ### Powering off -/

/-- Changes of single fields' power units, one after another, reach the list of power units only. -/
theorem foldl_onFp_frame (g : State → Nat → FieldPwr → FieldPwr) :
    ∀ (l : List Nat) (s : State), ∃ units,
      l.foldl (fun s f => onFp s f (g s f)) s = { s with pwr := { s.pwr with fields := units } }
  | [], s => ⟨s.pwr.fields, rfl⟩
  | f :: l, s => by
    obtain ⟨units, h⟩ := foldl_onFp_frame g l (onFp s f (g s f))
    exact ⟨units, h⟩

theorem fieldsOff_frame (s : State) : ∃ units, fieldsOff s = { s with pwr := { s.pwr with fields := units } } :=
  foldl_onFp_frame _ _ s

/-- Switching off the fields' power units leaves a new start one: `coldStarted` reads none of them. -/
theorem coldStarted_fieldsOff {s u : State} {stage : BitVec 8} (h : coldStarted s u stage) :
    coldStarted s (fieldsOff u) stage := by
  obtain ⟨units, hu⟩ := fieldsOff_frame u
  rw [hu]
  exact h

/-- A loss of every switched domain is a new start: each part reads its reset value or what it read before. -/
theorem coldStarted_coldState (s : State) (stage : Nat) : coldStarted s (coldState s stage) (BitVec.ofNat 8 stage) :=
  coldStarted_fieldsOff (by unfold coldStarted; and_intros <;> rfl)

theorem coldStarted_resetAll (s : State) : coldStarted s (resetAll s) 0x01 := coldStarted_coldState s 0x01

/-! ### SYS_RESET# by its length (R699) -/

theorem exec_sysReset_ignored {n : Nat} (s : State) (hn : n < 100) : exec (.sysReset n) s = .next s := if_pos hn

theorem exec_sysReset_undefined {n : Nat} (s : State) (hmin : 100 ≤ n) (hmax : n < 1000) :
    exec (.sysReset n) s = .fault .undefinedResetPulse :=
  (if_neg (by omega)).trans (if_pos hmax)

theorem exec_sysReset_cold {n : Nat} (s : State) (hn : 1000 ≤ n) : exec (.sysReset n) s = .next (resetAll s) :=
  (if_neg (by omega)).trans (if_neg (by omega))

/-- Settles O8: a full pulse ends in `resetAll`, which is a cold start and leaves the meter alone. -/
theorem sysResetByItsLength : Obligations.SysResetByItsLength := by
  unfold Obligations.SysResetByItsLength
  exact fun s n =>
    ⟨fun hn => ⟨resetAll s, exec_sysReset_cold s hn, coldStarted_resetAll s, resetAll_meter s⟩,
      exec_sysReset_ignored s, exec_sysReset_undefined s⟩

end Sys2Proof.Machine
end
